-- ==== Sys2Proof/Word.lean ====
section
/-! DEFINITION. The word types and their plainest arithmetic, and sparse tables. -/

namespace Sys2Proof

/-- A 64-bit register or memory word (R12). -/
abbrev Word := BitVec 64
/-- A 32-bit instruction word (R29). -/
abbrev Code := BitVec 32
/-- A 5-bit register field (R36). -/
abbrev Reg := BitVec 5
/-- A vector row of 128 bytes, byte 0 lowest (R146, R147). -/
abbrev Row := BitVec 1024

/-- Bits [lo + n - 1 : lo] of a number. -/
def bits (v lo n : Nat) : Nat := v / 2 ^ lo % 2 ^ n

/-- A sparse table: key and value, listed keys rising; an unlisted key holds a default. -/
abbrev Tab (α : Type) := List (Nat × α)

/-- The entry of a table at a key. -/
def Tab.find? {α : Type} : Tab α → Nat → Option α
  | [], _ => none
  | (j, v) :: t, k => if j = k then some v else Tab.find? t k

/-- The entry of a table at a key, or the default. -/
def Tab.get {α : Type} (t : Tab α) (k : Nat) (d : α) : α := (Tab.find? t k).getD d

/-- Writes an entry, keeping the keys rising. -/
def Tab.set {α : Type} : Tab α → Nat → α → Tab α
  | [], k, v => [(k, v)]
  | (j, w) :: t, k, v =>
    if k < j then (k, v) :: (j, w) :: t
    else if k = j then (k, v) :: t
    else (j, w) :: Tab.set t k v

/-- Removes an entry. -/
def Tab.erase {α : Type} : Tab α → Nat → Tab α
  | [], _ => []
  | (j, w) :: t, k => if j = k then Tab.erase t k else (j, w) :: Tab.erase t k

end Sys2Proof
end

