-- ==== Sys2Proof/Machine/Flags.lean ====
section
/-! DEFINITION. Number formats, exact values, rounding and the flags that every rounding raises (spec/04, R77 to R89,
R94, R96; spec/03, R61 to R67; the special functions of R158). -/

namespace Sys2Proof.Machine

/-! Flags (R14). -/
abbrev Fl := BitVec 5
def nv : Fl := 16
def dz : Fl := 8
def ovf : Fl := 4
def uf : Fl := 2
def nx : Fl := 1

/-- R81: the rounding modes. -/
inductive Rm where
  | rne | rtz | rdn | rup | rmm
deriving DecidableEq, Repr

/-- R14, R61: the mode of a code; 5 to 7 are invalid. -/
def rmOf (n : Nat) : Option Rm := [Rm.rne, .rtz, .rdn, .rup, .rmm][n]?

/-- R79: a binary floating-point format. -/
structure Fmt where
  eb : Nat
  mb : Nat
deriving DecidableEq, Repr

def fp32 : Fmt := ⟨8, 23⟩
def fp16 : Fmt := ⟨5, 10⟩
def bf16 : Fmt := ⟨8, 7⟩

def Fmt.bias (f : Fmt) : Int := 2 ^ (f.eb - 1) - 1
def Fmt.inf (f : Fmt) : Nat := (2 ^ f.eb - 1) * 2 ^ f.mb
def Fmt.sign (f : Fmt) : Nat := 2 ^ (f.eb + f.mb)
/-- R80: the canonical NaN. -/
def Fmt.nan (f : Fmt) : Nat := f.inf + 2 ^ (f.mb - 1)
/-- Exponent of the last place of the smallest normal number. -/
def Fmt.low (f : Fmt) : Int := 1 - f.bias - f.mb

/-- An exact value: a NaN, an infinity, or (−1)^neg · m · 2^e. -/
inductive Num where
  | nan (signalling : Bool)
  | inf (neg : Bool)
  | fin (neg : Bool) (m : Nat) (e : Int)
deriving DecidableEq, Repr

/-- R79: the value of a bit pattern. -/
def unpack (f : Fmt) (b : Nat) : Num :=
  let neg := bits b (f.eb + f.mb) 1 == 1
  let x := bits b f.mb f.eb
  let m := b % 2 ^ f.mb
  if x = 2 ^ f.eb - 1 then
    if m = 0 then .inf neg else .nan (m < 2 ^ (f.mb - 1))
  else if x = 0 then .fin neg m f.low
  else .fin neg (2 ^ f.mb + m) (f.low + x - 1)

/-- R81: whether a magnitude n + rem/2^d with the given rest is rounded away from zero. -/
def roundUp (rm : Rm) (neg : Bool) (odd : Bool) (rem half : Nat) : Bool :=
  match rm with
  | .rne => decide (half < rem) || (decide (rem = half) && odd)
  | .rtz => false
  | .rdn => neg && decide (rem ≠ 0)
  | .rup => !neg && decide (rem ≠ 0)
  | .rmm => decide (half ≤ rem)

/-- m · 2^e as an integer multiple of 2^q, and what is left over in units with `half` as one half. -/
def splitAt (m : Nat) (e q : Int) : Nat × Nat × Nat :=
  if q ≤ e then (m * 2 ^ (e - q).toNat, 0, 1)
  else
    let d := (q - e).toNat
    (m / 2 ^ d, m % 2 ^ d, 2 ^ (d - 1))

/-- Rounded to a multiple of 2^q: the multiple, and whether anything was lost. -/
def roundAt (rm : Rm) (neg : Bool) (m : Nat) (e q : Int) : Nat × Bool :=
  let (n, rem, half) := splitAt m e q
  (if roundUp rm neg (n % 2 == 1) rem half then n + 1 else n, rem != 0)

/-- R82: rounds an exact magnitude once; tininess after rounding; overflow by mode. -/
def roundFin (f : Fmt) (rm : Rm) (neg : Bool) (m : Nat) (e : Int) : Nat × Fl :=
  let s := if neg then f.sign else 0
  if m = 0 then (s, 0)
  else
    let top : Int := Nat.log2 m + e
    let q := max (top - f.mb) f.low
    let (n, inexact) := roundAt rm neg m e q
    let b := (q - f.low).toNat * 2 ^ f.mb + n
    if f.inf ≤ b then
      let toInf := match rm with
        | .rne | .rmm => true
        | .rtz => false
        | .rdn => neg
        | .rup => !neg
      (s + (if toInf then f.inf else f.inf - 1), ovf ||| nx)
    else
      let lowTop : Int := f.low + f.mb
      let free := (roundAt rm neg m e (top - f.mb)).1
      let tiny := decide (top < lowTop) && !(decide (top = lowTop - 1) && free == 2 ^ (f.mb + 1))
      (s + b, (if tiny && inexact then uf else 0) ||| (if inexact then nx else 0))

/-- R80, R82: rounds a value to a format. -/
def roundTo (f : Fmt) (rm : Rm) : Num → Nat × Fl
  | .nan _ => (f.nan, 0)
  | .inf neg => ((if neg then f.sign else 0) + f.inf, 0)
  | .fin neg m e => roundFin f rm neg m e

/-- R63: NV for a signalling NaN. -/
def Num.nvIf : Num → Fl
  | .nan true => nv
  | _ => 0
def Num.isNan : Num → Bool
  | .nan _ => true
  | _ => false
def Num.isNeg : Num → Bool
  | .nan _ => false
  | .inf n => n
  | .fin n _ _ => n
def Num.neg : Num → Num
  | .nan s => .nan s
  | .inf n => .inf !n
  | .fin n m e => .fin (!n) m e

/-- The exact product; infinity by zero is invalid. -/
def mulN (a b : Num) : Num × Fl :=
  match a, b with
  | .nan _, _ | _, .nan _ => (.nan false, a.nvIf ||| b.nvIf)
  | .inf n, .inf k => (.inf (n != k), 0)
  | .inf n, .fin k m _ | .fin k m _, .inf n => if m = 0 then (.nan false, nv) else (.inf (n != k), 0)
  | .fin n m e, .fin k m' e' => (.fin (n != k) (m * m') (e + e'), 0)

/-- The exact sum of finite values at a common exponent. -/
def sumAt (q : Int) (l : List Num) : Int :=
  (l.map fun
    | .fin n m e => (if n then -1 else 1) * ((m * 2 ^ (e - q).toNat : Nat) : Int)
    | _ => 0).sum

/-- The exact sum. An empty sum is +0. A zero sum has the sign of its terms if they agree, else + (− in RDN). -/
def sumN (rm : Rm) (l : List Num) : Num × Fl :=
  let fl := l.foldl (fun a x => a ||| x.nvIf) 0
  if l.any Num.isNan then (.nan false, fl)
  else if l.any (· == .inf false) then if l.any (· == .inf true) then (.nan false, nv) else (.inf false, 0)
  else if l.any (· == .inf true) then (.inf true, 0)
  else
    let exps := l.filterMap fun
      | .fin _ 0 _ => none
      | .fin _ _ e => some e
      | _ => none
    let q := exps.foldl min (exps.headD 0)
    let s := sumAt q l
    if s = 0 then
      let neg := if l ≠ [] ∧ l.all Num.isNeg ∧ exps = [] then true
        else if l = [] ∨ (l.all (fun x => !x.isNeg) ∧ exps = []) then false else rm == .rdn
      (.fin neg 0 0, 0)
    else (.fin (s < 0) s.natAbs q, 0)

/-- The exact quotient, its last bit standing for every lower one. -/
def divN (a b : Num) : Num × Fl :=
  match a, b with
  | .nan _, _ | _, .nan _ => (.nan false, a.nvIf ||| b.nvIf)
  | .inf _, .inf _ => (.nan false, nv)
  | .inf n, .fin k _ _ => (.inf (n != k), 0)
  | .fin n _ _, .inf k => (.fin (n != k) 0 0, 0)
  | .fin n m e, .fin k m' e' =>
    if m' = 0 then if m = 0 then (.nan false, nv) else (.inf (n != k), dz)
    else
      let t := m * 2 ^ 64
      let d := t / m'
      (.fin (n != k) (2 * d + (if t % m' = 0 then 0 else 1)) (e - e' - 65), 0)

/-- The integer square root by binary digits, from bit `i - 1` down. -/
def isqrtFrom (n : Nat) : Nat → Nat → Nat
  | 0, r => r
  | i + 1, r => if (r + 2 ^ i) * (r + 2 ^ i) ≤ n then isqrtFrom n i (r + 2 ^ i) else isqrtFrom n i r
def isqrt (n : Nat) : Nat := isqrtFrom n (Nat.log2 n / 2 + 1) 0

/-- The exact square root, its last bit standing for every lower one. -/
def sqrtN (a : Num) : Num × Fl :=
  match a with
  | .nan _ => (.nan false, a.nvIf)
  | .inf n => if n then (.nan false, nv) else (.inf false, 0)
  | .fin n m e =>
    if m = 0 then (.fin n 0 0, 0)
    else if n then (.nan false, nv)
    else
      let odd : Nat := if e % 2 = 0 then 0 else 1
      let t := m * 2 ^ (64 + odd)
      let r := isqrt t
      (.fin false (2 * r + (if r * r = t then 0 else 1)) ((e - 64 - odd) / 2 - 1), 0)

/-! Comparison (R66). -/

/-- a < b and a = b for values that are not NaN; −0 equals +0. -/
def Num.toPair : Num → Int → Int
  | .fin n m e, q => (if n then -1 else 1) * ((m * 2 ^ (e - q).toNat : Nat) : Int)
  | _, _ => 0
def ltN (a b : Num) : Bool :=
  match a, b with
  | .nan _, _ | _, .nan _ => false
  | .inf n, .inf k => n && !k
  | .inf n, _ => n
  | _, .inf k => !k
  | .fin _ _ e, .fin _ _ e' => decide (a.toPair (min e e') < b.toPair (min e e'))
def eqN (a b : Num) : Bool :=
  match a, b with
  | .nan _, _ | _, .nan _ => false
  | .inf n, .inf k => n == k
  | .fin _ _ e, .fin _ _ e' => decide (a.toPair (min e e') = b.toPair (min e e'))
  | _, _ => false
/-- R66, R155: NV of an equality, and of an ordering. -/
def nvEq (a b : Num) : Fl := a.nvIf ||| b.nvIf
def nvLt (a b : Num) : Fl := if a.isNan || b.isNan then nv else 0

/-- R66: min (or max) of two patterns of a format. -/
def minMax (f : Fmt) (max : Bool) (x y : Nat) : Nat × Fl :=
  let a := unpack f x; let b := unpack f y
  let fl := nvEq a b
  if a.isNan && b.isNan then (f.nan, fl)
  else if a.isNan then (y, fl)
  else if b.isNan then (x, fl)
  else
    let less := ltN a b || (eqN a b && a.isNeg && !b.isNeg)
    (if less != max then x else y, fl)

/-! Conversions (R65, R83, R84). -/

/-- R81: rounded to an integer, and whether inexact. -/
def roundInt (rm : Rm) (neg : Bool) (m : Nat) (e : Int) : Int × Bool :=
  let (n, lost) := roundAt rm neg m e 0
  (if neg then -(n : Int) else n, lost)

/-- R65: a value converted to the integers from lo to hi. -/
def toInt (rm : Rm) (lo hi : Int) : Num → Int × Fl
  | .nan _ => (0, nv)
  | .inf neg => (if neg then lo else hi, nv)
  | .fin neg m e =>
    let (v, lost) := roundInt rm neg m e
    if v < lo then (lo, nv) else if hi < v then (hi, nv) else (v, if lost then nx else 0)

def ofInt (v : Int) : Num := .fin (v < 0) v.natAbs 0

/-- R83: a pattern of one format converted to another. -/
def convert (f g : Fmt) (rm : Rm) (x : Nat) : Nat × Fl :=
  let a := unpack f x
  let (r, fl) := roundTo g rm a
  (r, fl ||| a.nvIf)

/-- R83: widening to FP32, exact. -/
def widen (f : Fmt) (x : Nat) : Nat × Fl := convert f fp32 .rne x

/-! Arithmetic on patterns of a format, each with one rounding (R62, R82). -/

def fin2 (f : Fmt) (rm : Rm) (p : Num × Fl) : Nat × Fl :=
  let (r, fl) := roundTo f rm p.1
  (r, fl ||| p.2)
def addF (f : Fmt) (rm : Rm) (x y : Nat) : Nat × Fl := fin2 f rm (sumN rm [unpack f x, unpack f y])
def subF (f : Fmt) (rm : Rm) (x y : Nat) : Nat × Fl := fin2 f rm (sumN rm [unpack f x, (unpack f y).neg])
def mulF (f : Fmt) (rm : Rm) (x y : Nat) : Nat × Fl := fin2 f rm (mulN (unpack f x) (unpack f y))
def divF (f : Fmt) (rm : Rm) (x y : Nat) : Nat × Fl := fin2 f rm (divN (unpack f x) (unpack f y))
def sqrtF (f : Fmt) (rm : Rm) (x : Nat) : Nat × Fl := fin2 f rm (sqrtN (unpack f x))
/-- ±(a · b) + ±c with one rounding (R62, R63, R153). -/
def fmaN (rm : Rm) (negP negC : Bool) (a b c : Num) : Num × Fl :=
  let (p, fl) := mulN a b
  let (s, fl') := sumN rm [if negP then p.neg else p, if negC then c.neg else c]
  (s, fl ||| fl')

/-- R67: the class mask. -/
def classOf (f : Fmt) (x : Nat) : Nat :=
  match unpack f x with
  | .nan s => if s then 256 else 512
  | .inf n => if n then 1 else 128
  | .fin n m _ =>
    if m = 0 then if n then 8 else 16
    else if m < 2 ^ f.mb then if n then 4 else 32
    else if n then 2 else 64

/-! Block quantisation (R85 to R89). -/

/-- R88: one block of m-bit mantissas from 32 FP32 patterns: exponent, mantissas, flags. -/
def quantise (rm : Rm) (m : Nat) (xs : List Nat) : Nat × List Int × Fl :=
  let vs := xs.map (unpack fp32)
  let special := vs.any fun
    | .fin .. => false
    | _ => true
  if special then
    (255, xs.map fun _ => 0, if vs.any (fun v => v == .inf false || v == .inf true || v == .nan true) then nv else 0)
  else
    let top := vs.foldl (fun (a : Option Int) v => match v with
      | .fin _ 0 _ => a
      | .fin _ k e => some (match a with
        | none => (Nat.log2 k : Int) + e
        | some b => max b ((Nat.log2 k : Int) + e))
      | _ => a) none
    match top with
    | none => (0, xs.map fun _ => 0, 0)
    | some t =>
      let ee := max (t + 127) 1
      let clamp := decide (t + 127 < 1)
      let u : Int := ee - 127 - (m - 2 : Nat)
      let lim : Int := 2 ^ (m - 1) - 1
      let one (v : Num) : Int × Bool × Bool := match v with
        | .fin n k e =>
          let (q, lost) := roundAt rm n k e u
          let q : Int := if n then -(q : Int) else q
          if lim < q then (lim, true, true) else if q < -lim then (-lim, true, true) else (q, false, lost)
        | _ => (0, false, false)
      let r := vs.map one
      let inexact := r.any (·.2.2)
      let fl : Fl := (if r.any (·.2.1) then ovf else 0) ||| (if inexact then nx else 0)
        ||| (if clamp && inexact then uf else 0)
      (if r.all (·.1 == 0) then 0 else ee.toNat, r.map (·.1), fl)

/-- R85, R89: the FP32 pattern of a mantissa under a block exponent. -/
def dequantise (rm : Rm) (m ee : Nat) (v : Int) : Nat × Fl :=
  if ee = 0 then (0, 0)
  else if ee = 255 then (fp32.nan, 0)
  else roundTo fp32 rm (.fin (v < 0) v.natAbs ((ee : Int) - 127 - (m - 2 : Nat)))

/-! Row sums (R94). -/

/-- R94: one level of the tree. -/
def sumLevel (rm : Rm) : List (Option Nat) → List (Option Nat) × Fl
  | a :: b :: l =>
    let (r, fl) := sumLevel rm l
    match a, b with
    | none, b => (b :: r, fl)
    | some x, none => (some x :: r, fl)
    | some x, some y => let (z, fl') := addF fp32 rm x y; (some z :: r, fl ||| fl')
  | l => (l, 0)

/-- R94: the tree over 2^k leaves. -/
def sumTree (rm : Rm) : Nat → List (Option Nat) → Nat × Fl
  | 0, l => ((l.headD none).getD 0, 0)
  | k + 1, l =>
    let (l', fl) := sumLevel rm l
    let (r, fl') := sumTree rm k l'
    (r, fl ||| fl')

/-! Special functions (R158): enclosures in fixed point with `fixP` fractional bits, rounded once. Log 12. -/

def fixP : Nat := 256
/-- Half the width of an enclosure, in units of the last place. -/
def fixErr : Nat := 2 ^ 24

def fmul (a b : Nat) : Nat := a * b / 2 ^ fixP

/-- ln 2 as the sum of 1/(k · 2^k). -/
def ln2From : Nat → Nat → Nat
  | 0, _ => 0
  | n + 1, k => 2 ^ (fixP - k) / k + ln2From n (k + 1)
def fixLn2 : Nat := ln2From 256 1

/-- exp of y in [0, 1), the terms from t on. -/
def expFrom (y : Nat) : Nat → Nat → Nat → Nat
  | 0, _, t => t
  | n + 1, k, t => t + expFrom y n (k + 1) (fmul t y / k)
def fixExp (y : Nat) : Nat := expFrom y 96 1 (2 ^ fixP)

/-- ln z of 1 ≤ z < 2 by the series of artanh. -/
def lnFrom (w2 : Nat) : Nat → Nat → Nat → Nat
  | 0, _, _ => 0
  | n + 1, k, t => t / k + lnFrom w2 n (k + 2) (fmul t w2)
def fixLn (z : Nat) : Nat :=
  let w := (z - 2 ^ fixP) * 2 ^ fixP / (z + 2 ^ fixP)
  2 * lnFrom (fmul w w) 96 1 w

/-- A non-exact value near v · 2^(e − fixP), rounded once in RNE: both ends of the enclosure round alike. -/
def roundNear (neg : Bool) (v : Nat) (e : Int) : Nat × Fl :=
  let lo := roundFin fp32 .rne neg (2 * (v - fixErr) + 1) (e - fixP - 1)
  let hi := roundFin fp32 .rne neg (2 * (v + fixErr) + 1) (e - fixP - 1)
  if lo = hi then lo else roundFin fp32 .rne neg (2 * v + 1) (e - fixP - 1)

/-- R158: vrcp on an FP32 pattern. -/
def rcpF (x : Nat) : Nat × Fl := fin2 fp32 .rne (divN (.fin false 1 0) (unpack fp32 x))

/-- R158: vrsq. -/
def rsqF (x : Nat) : Nat × Fl :=
  match unpack fp32 x with
  | .nan s => (fp32.nan, if s then nv else 0)
  | .inf n => if n then (fp32.nan, nv) else (0, 0)
  | .fin n m e =>
    if m = 0 then ((if n then fp32.sign else 0) + fp32.inf, dz)
    else if n then (fp32.nan, nv)
    else
      -- 1/√(m 2^e) = √(2^(2k)/m) · 2^(−k − e/2), e made even
      let (m, e) := if e % 2 = 0 then (m, e) else (2 * m, e - 1)
      let t := 2 ^ 256 / m
      let r := isqrt t
      let exact := decide (2 ^ 256 % m = 0) && r * r == t
      roundFin fp32 .rne false (2 * r + (if exact then 0 else 1)) (-128 - e / 2 - 1)

/-- R158: vexp2. -/
def exp2F (x : Nat) : Nat × Fl :=
  match unpack fp32 x with
  | .nan s => (fp32.nan, if s then nv else 0)
  | .inf n => if n then (0, 0) else (fp32.inf, 0)
  | .fin n m e =>
    if m = 0 then (0x3F800000, 0)
    else
      let big := decide (128 * 2 ^ (149 : Nat) ≤ m * 2 ^ (e + 149).toNat)
      let small := decide (150 * 2 ^ (149 : Nat) ≤ m * 2 ^ (e + 149).toNat)
      if !n && big then (fp32.inf, ovf ||| nx)
      else if n && small then (0, uf ||| nx)
      else
        -- a = k / 2^149
        let k : Int := (if n then -1 else 1) * ((m * 2 ^ (e + 149).toNat : Nat) : Int)
        let i := k / 2 ^ (149 : Nat)
        let f := (k % 2 ^ (149 : Nat)).toNat
        if f = 0 then roundFin fp32 .rne false 1 i
        else roundNear false (fixExp (fmul (f * 2 ^ (fixP - 149)) fixLn2)) i

/-- R158: vlog2. -/
def log2F (x : Nat) : Nat × Fl :=
  match unpack fp32 x with
  | .nan s => (fp32.nan, if s then nv else 0)
  | .inf n => if n then (fp32.nan, nv) else (fp32.inf, 0)
  | .fin n m e =>
    if m = 0 then (fp32.sign + fp32.inf, dz)
    else if n then (fp32.nan, nv)
    else
      let t := Nat.log2 m
      let i : Int := t + e
      if m = 2 ^ t then fin2 fp32 .rne (ofInt i, 0)
      else
        let v : Int := i * 2 ^ fixP + ((fixLn (m * 2 ^ (fixP - t)) * 2 ^ fixP / fixLn2 : Nat) : Int)
        roundNear (v < 0) v.natAbs 0

/-- R158: vtanh. -/
def tanhF (x : Nat) : Nat × Fl :=
  match unpack fp32 x with
  | .nan s => (fp32.nan, if s then nv else 0)
  | .inf n => ((if n then fp32.sign else 0) + 0x3F800000, 0)
  | .fin n m e =>
    let s := if n then fp32.sign else 0
    let top : Int := Nat.log2 m + e
    if m = 0 then (s, 0)
    else if decide (4 ≤ top) || (decide (top = 3) && decide (19 * 2 ^ (149 : Nat) ≤ 2 * (m * 2 ^ (e + 149).toNat)))
    then (s + 0x3F800000, nx)
    else if top < -40 then roundFin fp32 .rne n (m * 2 ^ 64 - 1) (e - 64)
    else
      -- exp(2a) as the 32nd power of exp(a/16)
      let y := m * 2 ^ (e + 149).toNat * 2 ^ (fixP - 153)
      let sq (v : Nat) := fmul v v
      let ex := sq (sq (sq (sq (sq (fixExp y)))))
      let one := 2 ^ fixP
      roundNear n ((ex - one) * one / (ex + one)) 0

end Sys2Proof.Machine
end

