-- ==== Sys2Proof/Config.lean ====
section
/-! DEFINITION. What an implementation of the GW54 fixes: the sizes of the device, and the values the spec leaves
open, as free values without a body. -/

namespace Sys2Proof

/-- R6, R7: fields of the wafer. -/
def nFields : Nat := 54
/-- R6: clusters of the wafer, 128 to a field. -/
def nClusters : Nat := 54 * 128
/-- R6: cores of the wafer, 8 to a cluster. -/
def nCores : Nat := 54 * 1024
/-- R6: slots of the wafer, 8 to a core. -/
def nSlots : Nat := 54 * 8192

/-- A time in clk that the spec leaves open (R11, R213, R278, R310, R360): the walk and last-level lookup, the copy
engine's turn, the kernel and firmware, a replica copy beyond its bound. The argument counts the uses. Log 5. -/
opaque Config.openDelay : Nat → Nat
/-- Whether the security controller finds the boot image's ECDSA signature good (R350): the curve's arithmetic is not
in the spec. Arguments: digest, signature. Log 11. -/
opaque Config.verifyBoot : Nat → Nat → Bool
/-- The victim of a cache below the L1 TLB, whose set index and replacement the spec leaves open (R213). Log 15. -/
opaque Config.victim : Nat → Nat
/-- The set of an 8-way L2 TLB in which a page stands (R213): the index is not in the spec. Arguments: whether the page is
large, its number. Log 15. -/
opaque Config.l2Set : Bool → Nat → Nat
/-- The number of words fetched ahead after a fetch, which R60 lets exist and no rule bounds. Log 13. -/
opaque Config.fetchAhead : Nat → Nat
/-- A value the spec calls for and states no result for (log 16): the argument counts the uses. -/
opaque Config.freeValue : Nat → BitVec 64
/-- What a byte of DRAM reads as once the key under which it was written is gone, or is another's (R221, R304, log 48).
Arguments: the count of uses, the address. -/
opaque Config.undecrypted : Nat → Nat → BitVec 8

end Sys2Proof
end

