-- ==== Sys2Proof/Syntax.lean ====
section
/-! DEFINITION. The instruction set of the GW54: one constructor for each row of spec/opcode_table.json.

The first 119 constructors are the steps of the other agents (spec/95): their arguments say which unit acts (`slot`,
`core`, `cluster`, `field`, `region` are the keys of Machine/State.lean) or which packet arrives (`flight`). The other
276 are the words a slot issues (spec/02, R34 to R47); their arguments are the fields of the word. -/

namespace Sys2Proof

/-- One step of the machine: an instruction word or an event of another agent. -/
inductive Instr where
  /-- R290: A fault report reaching a slot is held pending or written as a class 14 record. -/
  | impreciseReport (slot ember cause : Nat) (val : BitVec 64)
  /-- R30: A pending imprecise report or held timeout is taken before the next user-level issue. -/
  | pendingTrapDelivery (slot : Nat)
  /-- R110: A vacant slot takes the earliest head of its core or cluster queue and fetches its record. -/
  | emberTakeup (slot : Nat)
  /-- R110: Once record, save area and cells arrive the ember is restored and issues. -/
  | emberRestore (slot : Nat)
  /-- R253: After prior accesses drain, an unbound ember's record is written back. -/
  | suspendWriteback (slot : Nat)
  /-- R216: After stores drain, the ember is written compact and queued at the home flue's core. -/
  | attractionMove (slot : Nat)
  /-- R109: A migrating record is entered in the target core's queue. -/
  | migrationArrival (core ember : Nat)
  /-- R138: A posted item reaches its dispenser stage queue or overflow ring. -/
  | dispenserItemArrival (flight : Nat)
  /-- R114: The dispenser hands the oldest eligible item to the earliest waiting slot. -/
  | dispenserHandover (cluster : Nat)
  /-- R342: A host write to LDOOR posts the descriptor in LDESC. -/
  | ldoor (port : Nat)
  /-- R117: The master distributor accepts or rejects a launch and deals its chunks. -/
  | launchDescriptor (launch : Nat)
  /-- R119: Master and deputy acknowledge a finished launch chunk. -/
  | chunkFinished (launch chunk : Nat)
  /-- R119: The master writes the finished count to CW and LCW and fires MSI-X. -/
  | launchCompletion (launch : Nat)
  /-- R119: After a fence the survivors elect a new master and deputy and reissue chunks. -/
  | masterReelection (field : Nat)
  /-- R121: A deadline counter reaches zero and traps the ember or writes an event. -/
  | deadlineExpiry (ember armed : Nat)
  /-- R126: A park check finds a park past its limit and makes the ember ready with a timeout trap. -/
  | parkTimeout (ember since : Nat)
  /-- R123: A message enters a receive queue or its ring and goes to the oldest waiter. -/
  | messageArrival (flight : Nat)
  /-- R124: The hardware receive queue refills from its ring in ring order. -/
  | queueRefill (core q : Nat)
  /-- R30: A home or destination acknowledges a store or message, lowering the store count. -/
  | acknowledgement (flight : Nat)
  /-- R30: Far load data return to the slot, lowering the load count. -/
  | loadReply (flight : Nat)
  /-- R217: A home performs a far read request and replies. -/
  | farLoadAtHome (flight : Nat)
  /-- R217: A home performs or refuses a far write and acknowledges. -/
  | farStoreAtHome (flight : Nat)
  /-- R233: A home performs an atomic read-modify-write indivisibly. -/
  | atomicAtHome (flight : Nat)
  /-- R229: A home answers a vld or vtake or lists it in the watch table. -/
  | versionedLoadAtHome (flight : Nat)
  /-- R230: A home writes a vst and serves the watch table. -/
  | versionedStoreAtHome (flight : Nat)
  /-- R228: A served value reaches a bound waiter or makes an unbound one ready. -/
  | versionedReply (flight : Nat)
  /-- R232: A home reclaims a range of words to empty. -/
  | vrclAtHome (flight : Nat)
  /-- R237: A home grants, refuses or reports full for an append. -/
  | appendAtHome (flight : Nat)
  /-- R239: A home marks a frame's append entry sealed and returns the tail. -/
  | sealAtHome (flight : Nat)
  /-- R239: SEALED is set in the leaf by an indivisible OR at its home. -/
  | leafSealOr (flight : Nat)
  /-- R239: The field controller acknowledges a seal report. -/
  | sealReportAck (flight : Nat)
  /-- R241: A field controller accepts a replica request. -/
  | sreplAccept (flight : Nat)
  /-- R240: A page's read count reaches the threshold and a replica copy starts. -/
  | replicaCreate (field frame : Nat)
  /-- R240: A replica copy finishes and the pair enters the replica table. -/
  | replicaCopyDone (field frame : Nat)
  /-- R240: The controller drops a replica and returns its frame once reads drain. -/
  | replicaDrop (field frame : Nat)
  /-- R240: Every 2^16 clk the per-page read counts restart at zero. -/
  | replicaPeriod (field : Nat)
  /-- R210: A walker reads page-table levels and fills the TLBs or faults. -/
  | pageWalk (slot : Nat) (va : BitVec 64)
  /-- R220: A storage unit passes to a new owner and zeroing begins. -/
  | ownerChange (kind : BitVec 2) (unit : Nat) (owner : BitVec 8)
  /-- R220: Hardware zeroing of a unit completes. -/
  | zeroingDone (kind : BitVec 2) (unit : Nat)
  /-- R222: Every 2^16 clk bank temperatures adjust each core's throttle level. -/
  | thermalReading (core : Nat) (temps : BitVec 128)
  /-- R223: A token becomes available and a waiting request enters the mesh. -/
  | meterAdmit (unit : Nat)
  /-- R182: The home slice performs a tcall request and replies. -/
  | tcallAtHome (flight : Nat)
  /-- R193: A home's read of the backing table returns and a match is entered. -/
  | backingTableLookup (flight : Nat)
  /-- R181: The home's reply reaches the calling slot. -/
  | tcallReply (flight : Nat)
  /-- R187: The home reports an entry's state. -/
  | tlookAtHome (flight : Nat)
  /-- R186: The home publishes tret or tfail and serves consumers. -/
  | publicationAtHome (flight : Nat)
  /-- R184: A consumer reads its cell, writes a0, a1 and tstatus and resumes. -/
  | consumerResume (cluster ember : Nat)
  /-- R188: A group home allocates the lowest free group ID. -/
  | groupOpenAtHome (flight : Nat)
  /-- R189: A group home closes a group. -/
  | groupCloseAtHome (flight : Nat)
  /-- R190: A completed group's entries are written to the backing table and sealed. -/
  | groupSealWriteback (flight : Nat)
  /-- R191: A group is freed and its entries removed. -/
  | groupDropAtHome (flight : Nat)
  /-- R194: A slice's report updates the group home's P and W. -/
  | groupReport (flight : Nat)
  /-- R195: After 4,096 clk of P = W ≠ 0 the group home sends probe questions. -/
  | probeRoundStart (group : Nat)
  /-- R195: A slice answers a probe with its latest report number. -/
  | probeQuestion (flight : Nat)
  /-- R195: The group home collects answers and confirms or fails the round. -/
  | probeAnswer (flight : Nat)
  /-- R197: A producer's death frees, holds or fails each of its entries. -/
  | producerKillAtHome (flight : Nat)
  /-- R298: An uncorrectable answer-table entry is freed or failed. -/
  | answerEntryError (cluster index : Nat)
  /-- R149: The vector unit executes the head entry of a slot's sequence buffer. -/
  | vectorEntryExecute (slot : Nat)
  /-- R257: A matrix entry leaves the buffer for the core's matrix queue when room exists. -/
  | matrixEnqueue (slot : Nat)
  /-- R258: The idle unit grants a queue head by weighted round robin. -/
  | matrixGrant (cluster : Nat)
  /-- R259: A granted entry's operands stand complete and its occupancy begins. -/
  | matrixOperandArrival (core : Nat)
  /-- R259: Operands not arrived within 64 clk of grant set the entry back. -/
  | matrixSetback (cluster : Nat)
  /-- R259: 12 clk after occupancy the rows and flags are written and the tile count falls. -/
  | matrixComplete (cluster : Nat)
  /-- R277: The engine reads and writes one 128-byte chunk of a queue's command. -/
  | copyChunk (cluster : Nat)
  /-- R280: A queue is reset, its entries discarded and its numbers cleared. -/
  | copyQueueReset (core q : Nat)
  /-- R347: A peer port accepts or refuses an incoming chunk frame. -/
  | peerFrame (device : Nat) (sown rown : BitVec 8) (addr len : Nat) (put : BitVec 1) (data : BitVec 1024)
  /-- R345: A peer's acknowledgement of a performed chunk returns. -/
  | peerChunkAck (flight : Nat) (refused : BitVec 1) (data : BitVec 1024)
  /-- R348: An unacknowledged chunk after 2^20 clk ends its command with generation 6. -/
  | peerAckTimeout (flight : Nat)
  /-- R319: A relay gateway takes an unroutable packet into its ring. -/
  | relayAccept (flight : Nat)
  /-- R319: The relay gateway reinjects a packet in arrival order. -/
  | relayReinject (field : Nat)
  /-- R330: An arrival or field AND reaches a gateway or the root. -/
  | barrierAndUpdate (region ctx field : Nat)
  /-- R330: The root releases a round when every field's AND has reached it. -/
  | barrierRelease (region ctx : Nat)
  /-- R330: Cores of a field see the release, clear ARR, advance BROUND and wake waiters. -/
  | barrierReleaseSeen (region ctx field : Nat)
  /-- R329: The kernel sets a core's mask bit through the field controller. -/
  | barrierMaskSet (core : Nat)
  /-- R361: A contribution reaches the field gateway, which folds when all have come. -/
  | collContribution (flight : Nat)
  /-- R361: A field partial reaches the root, which combines and sends the result. -/
  | collPartialAtRoot (flight : Nat)
  /-- R361: The result reaches a core, setting KEPT and advancing CROUND. -/
  | collResultDelivery (flight : Nat)
  /-- R293: Stops a slot after its current instruction. -/
  | scmdStop (slot : Nat)
  /-- R293: Restarts a stopped slot. -/
  | scmdRestart (slot : Nat)
  /-- R293: Lets a stopped slot issue one instruction or trap entry. -/
  | scmdStep (slot : Nat)
  /-- R293: Kills a slot and its ember. -/
  | scmdKill (slot : Nat)
  /-- R293: Returns an out-of-service slot to vacant, killing a double-faulted ember. -/
  | scmdRestore (slot : Nat)
  /-- R297: At the slot's next issue cycle the slot is cleared, its ember dies and it goes out of service. -/
  | slotKill (slot : Nat)
  /-- R294: After drains the field controller saves a slot's ember in full form as stopped. -/
  | preemptSlot (slot : Nat)
  /-- R295: A region's pre-emption budget runs out and is reported. -/
  | preemptBudgetExhausted (region : Nat)
  /-- R118: The kernel starts a region, parks idle embers and masks harvested positions. -/
  | regionStart (region : Nat)
  /-- R280: A region is stopped and its queue entries discarded. -/
  | regionStop (region : Nat)
  /-- R359: The kernel kills an ember after a trap and writes one record. -/
  | kernelKill (slot : Nat)
  /-- R312: The kernel writes the forward block and enters the program's handler. -/
  | trapForward (slot : Nat)
  /-- R359: The kernel maps a zeroed page for an absent fault and returns. -/
  | demandPageMap (slot frame : Nat)
  /-- R349: The kernel migrates a peer page locally and returns. -/
  | pageMigration (slot frame : Nat)
  /-- R359: The kernel returns a timed-out ember to its parking instruction. -/
  | timeoutResume (slot : Nat)
  /-- R359: The kernel advances trappc and stops the slot for the debugger. -/
  | ebreakStop (slot : Nat)
  /-- R311: The kernel registers fault forwarding for the ember. -/
  | ecallForwardRegister (slot : Nat)
  /-- R323: The kernel checks and writes a route-table entry. -/
  | ecallRouteWrite (slot : Nat)
  /-- R343: The kernel posts a launch for the ember. -/
  | ecallLaunch (slot : Nat)
  /-- R357: The kernel sets the core's barrier mask bit. -/
  | ecallRetire (slot : Nat)
  /-- R305: A comparator match stops the slot before the instruction. -/
  | hwBreakpointStop (slot : Nat)
  /-- R308: Every 2^PERIOD clk the active counter set rotates. -/
  | counterSetRotate (core : Nat)
  /-- R309: A write of ones clears bits of the cluster flag union. -/
  | flagUnionClear (cluster : Nat) (ones : BitVec 64)
  /-- R292: A write to a control-space or module-block register without a row of its own stores its value. -/
  | registerWrite (offset : Nat) (value : BitVec 64)
  /-- R339: Writes the module power limit, clamped to 1,500–6,000 W. -/
  | plimWrite (value : BitVec 64)
  /-- R340: A host read through the memory window is translated and served or refused. -/
  | hostWindowRead (port offset : Nat)
  /-- R340: A host posted write through the memory window is performed or dropped. -/
  | hostWindowWrite (port offset : Nat) (value : BitVec 64)
  /-- R352: A write to ADOOR starts attestation. -/
  | adoor (port : Nat)
  /-- R352: The signed report stands in AREPORT and ASTAT becomes 2. -/
  | attestReportReady (sig : BitVec 768)
  /-- R353: Every 2^16 clk the power manager samples power and decides field speeds, by the limits in °C above which a bank is
  too hot and below which all are cool again. -/
  | powerCheck (hot cool : Nat)
  /-- R353: A field changes speed at a counter multiple of 16. -/
  | speedChange (field : Nat)
  /-- R302: A controller mismatch freezes dispatch and restarts firmware. -/
  | lockstepMismatch (field : Nat)
  /-- R302: Controller firmware completes its restart and dispatch resumes. -/
  | firmwareRestart (field : Nat)
  /-- R304: Tamper or glitch raises the alarm, possibly erasing all keys. -/
  | securityAlarm
  /-- R350: The boot image is checked and the fields start. -/
  | moduleReset
  /-- R37: A slot issues a word that decodes to no instruction and takes the illegal-instruction trap with the word in trapval. -/
  | illegalInstruction (word : BitVec 32)
  /-- R32: An instruction fetch meets a non-canonical PC, an ASID owner violation, a page fault or an uncorrectable error and traps before any word is decoded. -/
  | fetchFault (cause : Nat) (val : BitVec 64)
  /-- R102: At each clk the core counts the slot whose issue cycle it is in one accounting class and increments the ready-slot histogram counter. -/
  | issueCycle (core : Nat)
  /-- R112: The kernel restarts a stopped ember that is not resident in a slot and enters it in a ready queue. -/
  | emberRestart (ember : Nat)
  /-- R138: The kernel adds pages to a region's pool, which clears the pool-empty flag in every cluster and releases items held at dispensers. -/
  | poolExtension (region : Nat) (page : BitVec 64)
  /-- R299: After rebuilding a node and a SCOPE 3 tlbinv, the kernel lifts the quarantine of the node. -/
  | quarantineLift (field node : Nat)
  /-- R303: An uncorrectable error in queues, watch or append tables, dispensers or router tables, or a router failure after reset, fences the field. -/
  | fatalError (field : Nat)
  /-- R56: Writes the sign-extended upper immediate to rd. -/
  | lui (rd : BitVec 5) (imm20 : BitVec 20)
  /-- R56: Writes PC plus the upper immediate to rd. -/
  | auipc (rd : BitVec 5) (imm20 : BitVec 20)
  /-- R56: Writes PC+4 to rd and jumps by the J immediate. -/
  | jal (rd : BitVec 5) (imm20 : BitVec 20)
  /-- R56: Writes PC+4 to rd and jumps to rs1 plus the immediate with bit 0 cleared. -/
  | jalr (rd rs1 : BitVec 5) (imm12 : BitVec 12)
  /-- R56: Branches if rs1 equals rs2. -/
  | beq (rs1 rs2 : BitVec 5) (imm12 : BitVec 12)
  /-- R56: Branches if rs1 differs from rs2. -/
  | bne (rs1 rs2 : BitVec 5) (imm12 : BitVec 12)
  /-- R56: Branches if rs1 is less than rs2, signed. -/
  | blt (rs1 rs2 : BitVec 5) (imm12 : BitVec 12)
  /-- R56: Branches if rs1 is at least rs2, signed. -/
  | bge (rs1 rs2 : BitVec 5) (imm12 : BitVec 12)
  /-- R56: Branches if rs1 is less than rs2, unsigned. -/
  | bltu (rs1 rs2 : BitVec 5) (imm12 : BitVec 12)
  /-- R56: Branches if rs1 is at least rs2, unsigned. -/
  | bgeu (rs1 rs2 : BitVec 5) (imm12 : BitVec 12)
  /-- R59: Loads a sign-extended byte. -/
  | lb (rd rs1 : BitVec 5) (imm12 : BitVec 12)
  /-- R59: Loads a sign-extended halfword. -/
  | lh (rd rs1 : BitVec 5) (imm12 : BitVec 12)
  /-- R59: Loads a sign-extended word. -/
  | lw (rd rs1 : BitVec 5) (imm12 : BitVec 12)
  /-- R59: Loads a doubleword. -/
  | ld (rd rs1 : BitVec 5) (imm12 : BitVec 12)
  /-- R59: Loads a zero-extended byte. -/
  | lbu (rd rs1 : BitVec 5) (imm12 : BitVec 12)
  /-- R59: Loads a zero-extended halfword. -/
  | lhu (rd rs1 : BitVec 5) (imm12 : BitVec 12)
  /-- R59: Loads a zero-extended word. -/
  | lwu (rd rs1 : BitVec 5) (imm12 : BitVec 12)
  /-- R59: Stores the low byte of rs2. -/
  | sb (rs1 rs2 : BitVec 5) (imm12 : BitVec 12)
  /-- R59: Stores the low halfword of rs2. -/
  | sh (rs1 rs2 : BitVec 5) (imm12 : BitVec 12)
  /-- R59: Stores the low word of rs2. -/
  | sw (rs1 rs2 : BitVec 5) (imm12 : BitVec 12)
  /-- R59: Stores rs2 as a doubleword. -/
  | sd (rs1 rs2 : BitVec 5) (imm12 : BitVec 12)
  /-- R56: Adds the immediate to rs1. -/
  | addi (rd rs1 : BitVec 5) (imm12 : BitVec 12)
  /-- R56: Sets rd to 1 if rs1 is less than the immediate, signed. -/
  | slti (rd rs1 : BitVec 5) (imm12 : BitVec 12)
  /-- R56: Sets rd to 1 if rs1 is less than the immediate, unsigned. -/
  | sltiu (rd rs1 : BitVec 5) (imm12 : BitVec 12)
  /-- R56: XORs rs1 with the immediate. -/
  | xori (rd rs1 : BitVec 5) (imm12 : BitVec 12)
  /-- R56: ORs rs1 with the immediate. -/
  | ori (rd rs1 : BitVec 5) (imm12 : BitVec 12)
  /-- R56: ANDs rs1 with the immediate. -/
  | andi (rd rs1 : BitVec 5) (imm12 : BitVec 12)
  /-- R57: Shifts rs1 left by a 6-bit amount. -/
  | slli (rd rs1 : BitVec 5) (sh6 : BitVec 6)
  /-- R57: Shifts rs1 right logically by a 6-bit amount. -/
  | srli (rd rs1 : BitVec 5) (sh6 : BitVec 6)
  /-- R57: Shifts rs1 right arithmetically by a 6-bit amount. -/
  | srai (rd rs1 : BitVec 5) (sh6 : BitVec 6)
  /-- R56: Adds rs1 and rs2. -/
  | add (rd rs1 rs2 : BitVec 5)
  /-- R56: Subtracts rs2 from rs1. -/
  | sub (rd rs1 rs2 : BitVec 5)
  /-- R56: Shifts rs1 left by rs2[5:0]. -/
  | sll (rd rs1 rs2 : BitVec 5)
  /-- R56: Sets rd to 1 if rs1 < rs2 signed. -/
  | slt (rd rs1 rs2 : BitVec 5)
  /-- R56: Sets rd to 1 if rs1 < rs2 unsigned. -/
  | sltu (rd rs1 rs2 : BitVec 5)
  /-- R56: XORs rs1 and rs2. -/
  | xor (rd rs1 rs2 : BitVec 5)
  /-- R56: Shifts rs1 right logically by rs2[5:0]. -/
  | srl (rd rs1 rs2 : BitVec 5)
  /-- R56: Shifts rs1 right arithmetically by rs2[5:0]. -/
  | sra (rd rs1 rs2 : BitVec 5)
  /-- R56: ORs rs1 and rs2. -/
  | or (rd rs1 rs2 : BitVec 5)
  /-- R56: ANDs rs1 and rs2. -/
  | and (rd rs1 rs2 : BitVec 5)
  /-- R56: Adds the immediate in 32 bits and sign-extends. -/
  | addiw (rd rs1 : BitVec 5) (imm12 : BitVec 12)
  /-- R57: Shifts the low word left and sign-extends. -/
  | slliw (rd rs1 sh5 : BitVec 5)
  /-- R57: Shifts the low word right logically and sign-extends. -/
  | srliw (rd rs1 sh5 : BitVec 5)
  /-- R57: Shifts the low word right arithmetically and sign-extends. -/
  | sraiw (rd rs1 sh5 : BitVec 5)
  /-- R56: Adds in 32 bits and sign-extends. -/
  | addw (rd rs1 rs2 : BitVec 5)
  /-- R56: Subtracts in 32 bits and sign-extends. -/
  | subw (rd rs1 rs2 : BitVec 5)
  /-- R56: Shifts the low word left by rs2[4:0]. -/
  | sllw (rd rs1 rs2 : BitVec 5)
  /-- R56: Shifts the low word right logically by rs2[4:0]. -/
  | srlw (rd rs1 rs2 : BitVec 5)
  /-- R56: Shifts the low word right arithmetically by rs2[4:0]. -/
  | sraw (rd rs1 rs2 : BitVec 5)
  /-- R56: Low 64 bits of the product. -/
  | mul (rd rs1 rs2 : BitVec 5)
  /-- R56: High 64 bits of the signed product. -/
  | mulh (rd rs1 rs2 : BitVec 5)
  /-- R56: High 64 bits of the signed by unsigned product. -/
  | mulhsu (rd rs1 rs2 : BitVec 5)
  /-- R56: High 64 bits of the unsigned product. -/
  | mulhu (rd rs1 rs2 : BitVec 5)
  /-- R58: Signed quotient with the defined results for zero and overflow. -/
  | div (rd rs1 rs2 : BitVec 5)
  /-- R58: Unsigned quotient. -/
  | divu (rd rs1 rs2 : BitVec 5)
  /-- R58: Signed remainder. -/
  | rem (rd rs1 rs2 : BitVec 5)
  /-- R58: Unsigned remainder. -/
  | remu (rd rs1 rs2 : BitVec 5)
  /-- R56: 32-bit product, sign-extended. -/
  | mulw (rd rs1 rs2 : BitVec 5)
  /-- R58: 32-bit signed quotient, sign-extended. -/
  | divw (rd rs1 rs2 : BitVec 5)
  /-- R58: 32-bit unsigned quotient, sign-extended. -/
  | divuw (rd rs1 rs2 : BitVec 5)
  /-- R58: 32-bit signed remainder, sign-extended. -/
  | remw (rd rs1 rs2 : BitVec 5)
  /-- R58: 32-bit unsigned remainder, sign-extended. -/
  | remuw (rd rs1 rs2 : BitVec 5)
  /-- R60: Waits as a wafer-scope fence for unacknowledged stores and far loads. -/
  | fence
  /-- R60: Wafer-scope fence that also discards prefetched instruction words. -/
  | fenceI
  /-- R71: Raises the environment-call trap. -/
  | ecall
  /-- R71: Raises the breakpoint trap. -/
  | ebreak
  /-- R62: Loads an FP32 word into an f-register. -/
  | flw (rd rs1 : BitVec 5) (imm12 : BitVec 12)
  /-- R62: Stores an f-register as a word. -/
  | fsw (rs1 rs2 : BitVec 5) (imm12 : BitVec 12)
  /-- R62: Fused a·b + c with one rounding. -/
  | fmaddS (rd rs1 rs2 rs3 : BitVec 5) (rm : BitVec 3)
  /-- R62: Fused a·b − c with one rounding. -/
  | fmsubS (rd rs1 rs2 rs3 : BitVec 5) (rm : BitVec 3)
  /-- R62: Fused −a·b + c with one rounding. -/
  | fnmsubS (rd rs1 rs2 rs3 : BitVec 5) (rm : BitVec 3)
  /-- R62: Fused −a·b − c with one rounding. -/
  | fnmaddS (rd rs1 rs2 rs3 : BitVec 5) (rm : BitVec 3)
  /-- R62: Rounded FP32 sum. -/
  | faddS (rd rs1 rs2 : BitVec 5) (rm : BitVec 3)
  /-- R62: Rounded FP32 difference. -/
  | fsubS (rd rs1 rs2 : BitVec 5) (rm : BitVec 3)
  /-- R62: Rounded FP32 product. -/
  | fmulS (rd rs1 rs2 : BitVec 5) (rm : BitVec 3)
  /-- R62: Rounded FP32 quotient. -/
  | fdivS (rd rs1 rs2 : BitVec 5) (rm : BitVec 3)
  /-- R62: Rounded FP32 square root. -/
  | fsqrtS (rd rs1 : BitVec 5) (rm : BitVec 3)
  /-- R62: Magnitude of a with the sign of b. -/
  | fsgnjS (rd rs1 rs2 : BitVec 5)
  /-- R62: Magnitude of a with the inverted sign of b. -/
  | fsgnjnS (rd rs1 rs2 : BitVec 5)
  /-- R62: Magnitude of a with the XOR of the signs. -/
  | fsgnjxS (rd rs1 rs2 : BitVec 5)
  /-- R66: Smaller operand under the NaN and zero rules. -/
  | fminS (rd rs1 rs2 : BitVec 5)
  /-- R66: Larger operand under the NaN and zero rules. -/
  | fmaxS (rd rs1 rs2 : BitVec 5)
  /-- R65: Converts FP32 to a signed 32-bit integer. -/
  | fcvtWS (rd rs1 : BitVec 5) (rm : BitVec 3)
  /-- R65: Converts FP32 to an unsigned 32-bit integer. -/
  | fcvtWuS (rd rs1 : BitVec 5) (rm : BitVec 3)
  /-- R65: Converts FP32 to a signed 64-bit integer. -/
  | fcvtLS (rd rs1 : BitVec 5) (rm : BitVec 3)
  /-- R65: Converts FP32 to an unsigned 64-bit integer. -/
  | fcvtLuS (rd rs1 : BitVec 5) (rm : BitVec 3)
  /-- R62: Converts a signed 32-bit integer to FP32. -/
  | fcvtSW (rd rs1 : BitVec 5) (rm : BitVec 3)
  /-- R62: Converts an unsigned 32-bit integer to FP32. -/
  | fcvtSWu (rd rs1 : BitVec 5) (rm : BitVec 3)
  /-- R62: Converts a signed 64-bit integer to FP32. -/
  | fcvtSL (rd rs1 : BitVec 5) (rm : BitVec 3)
  /-- R62: Converts an unsigned 64-bit integer to FP32. -/
  | fcvtSLu (rd rs1 : BitVec 5) (rm : BitVec 3)
  /-- R66: Writes 1 if a equals b. -/
  | feqS (rd rs1 rs2 : BitVec 5)
  /-- R66: Writes 1 if a is less than b. -/
  | fltS (rd rs1 rs2 : BitVec 5)
  /-- R66: Writes 1 if a is at most b. -/
  | fleS (rd rs1 rs2 : BitVec 5)
  /-- R62: Moves an f-register to an x-register, sign-extended. -/
  | fmvXW (rd rs1 : BitVec 5)
  /-- R67: Writes the one-hot class mask of an FP32 value. -/
  | fclassS (rd rs1 : BitVec 5)
  /-- R62: Moves the low word of an x-register to an f-register. -/
  | fmvWX (rd rs1 : BitVec 5)
  /-- R68: Swaps a state register with rs1. -/
  | csrrw (rd rs1 : BitVec 5) (csr : BitVec 12)
  /-- R68: Reads a state register and sets the bits of rs1. -/
  | csrrs (rd rs1 : BitVec 5) (csr : BitVec 12)
  /-- R68: Reads a state register and clears the bits of rs1. -/
  | csrrc (rd rs1 : BitVec 5) (csr : BitVec 12)
  /-- R68: Writes a 5-bit immediate to a state register. -/
  | csrrwi (rd z : BitVec 5) (csr : BitVec 12)
  /-- R68: Reads a state register and sets immediate bits. -/
  | csrrsi (rd z : BitVec 5) (csr : BitVec 12)
  /-- R68: Reads a state register and clears immediate bits. -/
  | csrrci (rd z : BitVec 5) (csr : BitVec 12)
  /-- R72: Returns from the slot's trap handler to trappc at the saved level. -/
  | xret
  /-- R73: Removes cached translations within a scope and waits for acknowledgements. -/
  | tlbinv (rs1 rs2 : BitVec 5)
  /-- R74: Opens a signature-checked block of LEN instructions. -/
  | sig (sigv : BitVec 16) (len : BitVec 6)
  /-- R132: Creates a ready ember from the region's record pool. -/
  | spawn (rd rs1 rs2 : BitVec 5)
  /-- R135: Suspends the ember until a doorbell event on its core or its park limit. -/
  | park
  /-- R134: Requeues an unbound ember behind the others. -/
  | yield
  /-- R133: Retires the ember after draining its stores, copies and tile operations. -/
  | exit
  /-- R141: Sends an 8-byte message to a receive queue. -/
  | send (rs1 rs2 : BitVec 5)
  /-- R141: Sends a 128-byte vector row as a message. -/
  | sendV (rs1 rs2 : BitVec 5)
  /-- R143: Takes the head message of a queue into rd, suspending if empty. -/
  | recv (rd rs1 : BitVec 5)
  /-- R143: Takes the head message of a queue into a vector row. -/
  | recvV (rd rs1 : BitVec 5)
  /-- R144: Reports a queue's free message count and first sender without waiting. -/
  | rpoll (rd rs1 : BitVec 5)
  /-- R137: Finishes the current item and waits in the slot for the next one. -/
  | wfw
  /-- R138: Posts one work item in the ember's region. -/
  | dput (rd rs1 rs2 : BitVec 5)
  /-- R139: Arms the deadline counter of the current item. -/
  | dlarm (rs1 : BitVec 5)
  /-- R139: Stops the deadline counter and frees its entry. -/
  | dldone
  /-- R181: Consults the answer table and calls, continues or suspends. -/
  | tcall (rs1 n : BitVec 5)
  /-- R186: Publishes the answer for a handle and returns to ra. -/
  | tret (rs1 : BitVec 5)
  /-- R186: Publishes a failure with a reason and returns to ra. -/
  | tfail (rs1 rs2 : BitVec 5)
  /-- R187: Reports an answer-table entry's state without creating or waiting. -/
  | tlook (rd rs1 n : BitVec 5)
  /-- R188: Allocates an answer-table group. -/
  | tgopen (rd rs1 rs2 : BitVec 5)
  /-- R189: Closes a group so that misses bypass. -/
  | tgclose (rs1 : BitVec 5)
  /-- R190: Waits for a group to complete, writes and seals its backing table. -/
  | tgseal (rs1 : BitVec 5)
  /-- R191: Frees a group and removes its entries. -/
  | tgdrop (rs1 : BitVec 5)
  /-- R336: Arrives at a barrier round. -/
  | barA (rs1 : BitVec 5)
  /-- R336: Waits for the release of a barrier round. -/
  | barW (rs1 : BitVec 5)
  /-- R336: Arrives at a barrier round and waits for its release. -/
  | barAw (rs1 : BitVec 5)
  /-- R337: Contributes to a collective reduction and returns the result. -/
  | collRed (rd rs1 rs2 : BitVec 5)
  /-- R337: Returns the source rank's value to every participant. -/
  | collBc (rd rs1 rs2 : BitVec 5)
  /-- R286: Waits until the slot's four outstanding counts are within limits. -/
  | waitc (l s c t : BitVec 3)
  /-- R229: Reads a versioned word once it is full with generation g. -/
  | vld (rd rs1 : BitVec 5) (off : BitVec 9) (g : BitVec 3)
  /-- R230: Writes a versioned word full with generation g, as a release. -/
  | vst (rs1 rs2 : BitVec 5) (off : BitVec 9) (g : BitVec 3)
  /-- R229: Reads and empties a versioned word once full with generation g. -/
  | vtake (rd rs1 : BitVec 5) (off : BitVec 9) (g : BitVec 3)
  /-- R233: Atomic 32-bit add at the home. -/
  | amaddW (rd rs1 rs2 : BitVec 5)
  /-- R233: Atomic 64-bit add at the home. -/
  | amaddD (rd rs1 rs2 : BitVec 5)
  /-- R233: Atomic 32-bit signed minimum. -/
  | amsminW (rd rs1 rs2 : BitVec 5)
  /-- R233: Atomic 64-bit signed minimum. -/
  | amsminD (rd rs1 rs2 : BitVec 5)
  /-- R233: Atomic 32-bit signed maximum. -/
  | amsmaxW (rd rs1 rs2 : BitVec 5)
  /-- R233: Atomic 64-bit signed maximum. -/
  | amsmaxD (rd rs1 rs2 : BitVec 5)
  /-- R233: Atomic 32-bit unsigned minimum. -/
  | amuminW (rd rs1 rs2 : BitVec 5)
  /-- R233: Atomic 64-bit unsigned minimum. -/
  | amuminD (rd rs1 rs2 : BitVec 5)
  /-- R233: Atomic 32-bit unsigned maximum. -/
  | amumaxW (rd rs1 rs2 : BitVec 5)
  /-- R233: Atomic 64-bit unsigned maximum. -/
  | amumaxD (rd rs1 rs2 : BitVec 5)
  /-- R233: Atomic 32-bit swap. -/
  | amswapW (rd rs1 rs2 : BitVec 5)
  /-- R233: Atomic 64-bit swap. -/
  | amswapD (rd rs1 rs2 : BitVec 5)
  /-- R233: Atomic 32-bit compare-and-swap against rd. -/
  | amcasW (rd rs1 rs2 : BitVec 5)
  /-- R233: Atomic 64-bit compare-and-swap against rd. -/
  | amcasD (rd rs1 rs2 : BitVec 5)
  /-- R237: Appends 8 bytes at the tail of an open sealable page. -/
  | apndD (rd rs1 rs2 : BitVec 5)
  /-- R237: Appends 16 to 128 bytes of a vector row at the page tail. -/
  | apndV (rd rs1 rs2 : BitVec 5) (lll : BitVec 3)
  /-- R239: Seals a sealable page and returns its final tail. -/
  | seal (rd rs1 : BitVec 5)
  /-- R136: Moves the ember to the core beneath an address's home. -/
  | roam (rs1 : BitVec 5)
  /-- R231: Reads a word's full bit and generation without waiting. -/
  | vtag (rd rs1 : BitVec 5)
  /-- R232: Reclaims a range of words to empty, generation 0. -/
  | vrcl (rs1 rs2 : BitVec 5)
  /-- R241: Requests a replica of a sealed page in a field. -/
  | srepl (rs1 rs2 : BitVec 5)
  /-- R235: Fence of core scope. -/
  | fncC
  /-- R235: Fence of cluster scope. -/
  | fncL
  /-- R235: Fence of field scope. -/
  | fncF
  /-- R235: Fence of wafer scope. -/
  | fncW
  /-- R235: Wafer fence that also waits for the slot's copy commands. -/
  | fncS
  /-- R170: Loads 128 bytes into a vector row. -/
  | vlr (rd rs1 : BitVec 5)
  /-- R170: Stores a vector row to 128 bytes. -/
  | vsr (rs1 rs2 : BitVec 5)
  /-- R171: Gathers 32 words from one slice into a vector row. -/
  | vlrg (rd rs1 rs2 : BitVec 5)
  /-- R153: Lane-wise add of two rows. -/
  | vaddVv (rd rs1 rs2 : BitVec 5)
  /-- R153: Lane-wise add of a row and an x-register. -/
  | vaddVx (rd rs1 rs2 : BitVec 5)
  /-- R153: Lane-wise add of a row and an f-register. -/
  | vaddVf (rd rs1 rs2 : BitVec 5)
  /-- R153: Lane-wise add of a row and a constant. -/
  | vaddVi (rd rs1 imm5 : BitVec 5)
  /-- R153: Lane-wise subtract of two rows. -/
  | vsubVv (rd rs1 rs2 : BitVec 5)
  /-- R153: Lane-wise subtract of an x-register. -/
  | vsubVx (rd rs1 rs2 : BitVec 5)
  /-- R153: Lane-wise subtract of an f-register. -/
  | vsubVf (rd rs1 rs2 : BitVec 5)
  /-- R153: Lane-wise subtract of a constant. -/
  | vsubVi (rd rs1 imm5 : BitVec 5)
  /-- R153: Lane-wise multiply of two rows. -/
  | vmulVv (rd rs1 rs2 : BitVec 5)
  /-- R153: Lane-wise multiply by an x-register. -/
  | vmulVx (rd rs1 rs2 : BitVec 5)
  /-- R153: Lane-wise multiply by an f-register. -/
  | vmulVf (rd rs1 rs2 : BitVec 5)
  /-- R153: Lane-wise multiply by a constant. -/
  | vmulVi (rd rs1 imm5 : BitVec 5)
  /-- R153: Lane-wise minimum of two rows. -/
  | vminVv (rd rs1 rs2 : BitVec 5)
  /-- R153: Lane-wise minimum with an x-register. -/
  | vminVx (rd rs1 rs2 : BitVec 5)
  /-- R153: Lane-wise minimum with an f-register. -/
  | vminVf (rd rs1 rs2 : BitVec 5)
  /-- R153: Lane-wise minimum with a constant. -/
  | vminVi (rd rs1 imm5 : BitVec 5)
  /-- R153: Lane-wise maximum of two rows. -/
  | vmaxVv (rd rs1 rs2 : BitVec 5)
  /-- R153: Lane-wise maximum with an x-register. -/
  | vmaxVx (rd rs1 rs2 : BitVec 5)
  /-- R153: Lane-wise maximum with an f-register. -/
  | vmaxVf (rd rs1 rs2 : BitVec 5)
  /-- R153: Lane-wise maximum with a constant. -/
  | vmaxVi (rd rs1 imm5 : BitVec 5)
  /-- R153: Fused vd + a·b of two rows. -/
  | vfmaVv (rd rs1 rs2 : BitVec 5)
  /-- R153: Fused vd + a·b with an x-register. -/
  | vfmaVx (rd rs1 rs2 : BitVec 5)
  /-- R153: Fused vd + a·b with an f-register. -/
  | vfmaVf (rd rs1 rs2 : BitVec 5)
  /-- R153: Fused vd − a·b of two rows. -/
  | vfnmaVv (rd rs1 rs2 : BitVec 5)
  /-- R153: Fused vd − a·b with an x-register. -/
  | vfnmaVx (rd rs1 rs2 : BitVec 5)
  /-- R153: Fused vd − a·b with an f-register. -/
  | vfnmaVf (rd rs1 rs2 : BitVec 5)
  /-- R154: Bitwise AND of lanes. -/
  | vandVv (rd rs1 rs2 : BitVec 5)
  /-- R154: Bitwise AND with an x-register. -/
  | vandVx (rd rs1 rs2 : BitVec 5)
  /-- R154: Bitwise AND with a constant. -/
  | vandVi (rd rs1 imm5 : BitVec 5)
  /-- R154: Bitwise OR of lanes. -/
  | vorVv (rd rs1 rs2 : BitVec 5)
  /-- R154: Bitwise OR with an x-register. -/
  | vorVx (rd rs1 rs2 : BitVec 5)
  /-- R154: Bitwise OR with a constant. -/
  | vorVi (rd rs1 imm5 : BitVec 5)
  /-- R154: Bitwise XOR of lanes. -/
  | vxorVv (rd rs1 rs2 : BitVec 5)
  /-- R154: Bitwise XOR with an x-register. -/
  | vxorVx (rd rs1 rs2 : BitVec 5)
  /-- R154: Bitwise XOR with a constant. -/
  | vxorVi (rd rs1 imm5 : BitVec 5)
  /-- R154: Lane-wise left shift by lanes. -/
  | vsllVv (rd rs1 rs2 : BitVec 5)
  /-- R154: Lane-wise left shift by an x-register. -/
  | vsllVx (rd rs1 rs2 : BitVec 5)
  /-- R154: Lane-wise left shift by a constant. -/
  | vsllVi (rd rs1 imm5 : BitVec 5)
  /-- R154: Lane-wise logical right shift by lanes. -/
  | vsrlVv (rd rs1 rs2 : BitVec 5)
  /-- R154: Lane-wise logical right shift by an x-register. -/
  | vsrlVx (rd rs1 rs2 : BitVec 5)
  /-- R154: Lane-wise logical right shift by a constant. -/
  | vsrlVi (rd rs1 imm5 : BitVec 5)
  /-- R154: Lane-wise arithmetic right shift by lanes. -/
  | vsraVv (rd rs1 rs2 : BitVec 5)
  /-- R154: Lane-wise arithmetic right shift by an x-register. -/
  | vsraVx (rd rs1 rs2 : BitVec 5)
  /-- R154: Lane-wise arithmetic right shift by a constant. -/
  | vsraVi (rd rs1 imm5 : BitVec 5)
  /-- R155: Sets mask bits where lanes are equal. -/
  | vceqVv (rs1 rs2 : BitVec 5)
  /-- R155: Sets mask bits where lanes equal an x-register. -/
  | vceqVx (rs1 rs2 : BitVec 5)
  /-- R155: Sets mask bits where lanes equal an f-register. -/
  | vceqVf (rs1 rs2 : BitVec 5)
  /-- R155: Sets mask bits where lanes equal a constant. -/
  | vceqVi (rs1 imm5 : BitVec 5)
  /-- R155: Sets mask bits where lanes differ. -/
  | vcneVv (rs1 rs2 : BitVec 5)
  /-- R155: Sets mask bits where lanes differ from an x-register. -/
  | vcneVx (rs1 rs2 : BitVec 5)
  /-- R155: Sets mask bits where lanes differ from an f-register. -/
  | vcneVf (rs1 rs2 : BitVec 5)
  /-- R155: Sets mask bits where lanes differ from a constant. -/
  | vcneVi (rs1 imm5 : BitVec 5)
  /-- R155: Sets mask bits where a < b. -/
  | vcltVv (rs1 rs2 : BitVec 5)
  /-- R155: Sets mask bits where a < x-register. -/
  | vcltVx (rs1 rs2 : BitVec 5)
  /-- R155: Sets mask bits where a < f-register. -/
  | vcltVf (rs1 rs2 : BitVec 5)
  /-- R155: Sets mask bits where a < constant. -/
  | vcltVi (rs1 imm5 : BitVec 5)
  /-- R155: Sets mask bits where a ≤ b. -/
  | vcleVv (rs1 rs2 : BitVec 5)
  /-- R155: Sets mask bits where a ≤ x-register. -/
  | vcleVx (rs1 rs2 : BitVec 5)
  /-- R155: Sets mask bits where a ≤ f-register. -/
  | vcleVf (rs1 rs2 : BitVec 5)
  /-- R155: Sets mask bits where a ≤ constant. -/
  | vcleVi (rs1 imm5 : BitVec 5)
  /-- R156: Selects a or b per lane by the mask. -/
  | vselVv (rd rs1 rs2 : BitVec 5)
  /-- R156: Selects a or an x-register value per lane. -/
  | vselVx (rd rs1 rs2 : BitVec 5)
  /-- R156: Selects a or a rounded f-register value per lane. -/
  | vselVf (rd rs1 rs2 : BitVec 5)
  /-- R156: Selects a or a constant per lane. -/
  | vselVi (rd rs1 imm5 : BitVec 5)
  /-- R157: Permutes lanes of vs1 by the indices in vs2. -/
  | vpermVv (rd rs1 rs2 : BitVec 5)
  /-- R157: Rotates lanes by an x-register amount. -/
  | vrotVx (rd rs1 rs2 : BitVec 5)
  /-- R157: Rotates lanes by a constant. -/
  | vrotVi (rd rs1 imm5 : BitVec 5)
  /-- R157: Broadcasts an x-register to every enabled lane. -/
  | vbcVx (rd rs2 : BitVec 5)
  /-- R157: Broadcasts a rounded f-register to every enabled lane. -/
  | vbcVf (rd rs2 : BitVec 5)
  /-- R157: Copies a row. -/
  | vmv (rd rs1 : BitVec 5)
  /-- R157: Negates lanes. -/
  | vneg (rd rs1 : BitVec 5)
  /-- R157: Takes the absolute value of lanes. -/
  | vabs (rd rs1 : BitVec 5)
  /-- R158: Correctly rounded reciprocal per lane. -/
  | vrcp (rd rs1 : BitVec 5)
  /-- R158: Correctly rounded reciprocal square root per lane. -/
  | vrsq (rd rs1 : BitVec 5)
  /-- R158: Correctly rounded 2^a per lane. -/
  | vexp2 (rd rs1 : BitVec 5)
  /-- R158: Correctly rounded log2 a per lane. -/
  | vlog2 (rd rs1 : BitVec 5)
  /-- R158: Correctly rounded tanh a per lane. -/
  | vtanh (rd rs1 : BitVec 5)
  /-- R159: Converts lanes to a target element type. -/
  | vcvt (rd rs1 : BitVec 5) (ty : BitVec 4)
  /-- R164: Conjugates algebra elements through the table's conjugation row. -/
  | vconj (rd rs1 : BitVec 5)
  /-- R165: Writes the quadratic form of each algebra element. -/
  | vnorm (rd rs1 : BitVec 5)
  /-- R162: 32-lane Hadamard butterfly. -/
  | vhad (rd rs1 : BitVec 5)
  /-- R162: Hadamard butterfly scaled by 2^-5. -/
  | vhadS (rd rs1 : BitVec 5)
  /-- R163: Algebra product of elements through a table slot. -/
  | vamulVv (rd rs1 rs2 : BitVec 5)
  /-- R160: Exact integer sum of enabled lanes into an x-register. -/
  | vrsumX (rd rs1 : BitVec 5)
  /-- R94: Tree sum of FP lanes into an f-register. -/
  | vrsumF (rd rs1 : BitVec 5)
  /-- R160: Largest integer lane into an x-register. -/
  | vrmaxX (rd rs1 : BitVec 5)
  /-- R160: Largest FP lane into an f-register. -/
  | vrmaxF (rd rs1 : BitVec 5)
  /-- R160: Smallest integer lane into an x-register. -/
  | vrminX (rd rs1 : BitVec 5)
  /-- R160: Smallest FP lane into an f-register. -/
  | vrminF (rd rs1 : BitVec 5)
  /-- R160: Reads one integer lane into an x-register. -/
  | vgetX (rd rs1 rs2 : BitVec 5)
  /-- R160: Reads one FP lane into an f-register. -/
  | vgetF (rd rs1 rs2 : BitVec 5)
  /-- R161: Repeats the next n vector instructions k times with stride. -/
  | vrep (cnt : BitVec 4) (rs1 stride : BitVec 5) (adv : BitVec 3)
  /-- R168: Quantises a row into one BFP block in the cluster store. -/
  | vqnt (rs1 rs2 : BitVec 5)
  /-- R169: Dequantises one BFP block into a row. -/
  | vdqnt (rd rs2 : BitVec 5)
  /-- R173: Spills the slot's window to memory and releases it. -/
  | vsave (rs1 : BitVec 5)
  /-- R173: Fills the slot's window from memory and holds it. -/
  | vrest (rs1 : BitVec 5)
  /-- R268: Tile operation accumulating a·b into a half. -/
  | mma (asl : BitVec 3) (h : BitVec 1) (rs1 rs2 rs3 : BitVec 5)
  /-- R268: Tile operation overwriting a half with a·b. -/
  | mmaO (asl : BitVec 3) (h : BitVec 1) (rs1 rs2 rs3 : BitVec 5)
  /-- R268: Tile operation accumulating b·a into a half. -/
  | mmaR (asl : BitVec 3) (h : BitVec 1) (rs1 rs2 rs3 : BitVec 5)
  /-- R268: Tile operation accumulating latch·b. -/
  | mmal (asl : BitVec 3) (h : BitVec 1) (rs2 rs3 : BitVec 5)
  /-- R268: Tile operation overwriting with latch·b. -/
  | mmalO (asl : BitVec 3) (h : BitVec 1) (rs2 rs3 : BitVec 5)
  /-- R268: Tile operation accumulating b·latch. -/
  | mmalR (asl : BitVec 3) (h : BitVec 1) (rs2 rs3 : BitVec 5)
  /-- R269: Fills the gather latch with 16 operand rows selected by an index row. -/
  | mgth (rs1 rs2 : BitVec 5)
  /-- R270: Loads a structure-constant table slot from a 128-byte image. -/
  | msct (k : BitVec 3) (rs1 : BitVec 5)
  /-- R271: Writes +0 to every lane of a tile half. -/
  | mclr (h : BitVec 1)
  /-- R282: Pushes copy commands into a copy queue. -/
  | cpy (rd rs1 rs2 : BitVec 5) (q : BitVec 1)
  /-- R282: Pushes two-dimensional copy commands. -/
  | cpy2 (rd rs1 rs2 : BitVec 5) (q : BitVec 1)
  /-- R282: Pushes zero-fill commands. -/
  | cpyz (rd rs1 rs2 : BitVec 5) (q : BitVec 1)
  /-- R282: Pushes one-sided peer put commands. -/
  | cput (rd rs1 rs2 : BitVec 5) (q : BitVec 1)
  /-- R282: Pushes one-sided peer get commands. -/
  | cget (rd rs1 rs2 : BitVec 5) (q : BitVec 1)
  /-- R283: Pushes a fence entry joining copy queues. -/
  | cfnc (q : BitVec 1) (rs1 : BitVec 5)
  /-- R284: Reads the issued number of a copy queue. -/
  | cseq (rd : BitVec 5) (q : BitVec 1)
deriving DecidableEq, Repr

end Sys2Proof
end

