-- ==== Sys2Proof/Machine/State.lean ====
section
/-! DEFINITION. The state of the machine: all that the spec gives it, as plain data. INVENTORY.md lists every piece
with its rule and reset value. Keys: field `f` is 0 to 53 (R6); cluster (cx, cy) of field f is 128 f + 16 cy + cx; core
c of cluster k is 8 k + c; slot s of core k is 8 k + s. A storage key is a physical DRAM address (R205), or
2^44 + 2^19 core + offset for a byte of a local-store slice (R202). Register and table values that no rule gives at
reset are zero or empty (log 2). -/

namespace Sys2Proof.Machine

/-- Why the machine stops. -/
inductive Fault where
  /-- Raised by an event that names a unit the spec says does not exist (R6, R7). Safe. Log 6. -/
  | noSuchUnit
deriving DecidableEq, Repr

/-- Why an instruction has no meaning. -/
inductive Refusal where
  /-- Raised by an arm of the dispatch that has no meaning yet. Safe. -/
  | notModelled (mnemonic : String)
deriving DecidableEq, Repr

/-- What a step answers. -/
abbrev Out (σ : Type) := Host.Outcome σ Fault Refusal

/-- R293: the mode of a slot, in the order of the codes 0 to 4. -/
inductive Mode where
  | vacant | active | stopped | outOfService | doubleFault
deriving DecidableEq, Repr

/-- R25: the level of a slot. -/
inductive Level where
  | user | supervisor
deriving DecidableEq, Repr

/-- R102: why an occupied slot does not issue. -/
inductive Wait where
  | ready | memory | message | parked
deriving DecidableEq, Repr

/-- R126, R288: what an ember parks on. -/
inductive ParkKind where
  | queue (q : Nat) (desc : Word)          -- recv, recv.v (R143)
  | bell                                   -- park (R135)
  | version (addr : Word) (home : Nat)     -- vld, vtake (R228); the home controller
  | answer (handle : Word) (cluster : Nat) -- tcall (R185); the home slice
  | work                                   -- wfw (R137)
  | group (g : Nat)                        -- tgseal (R190)
  | round (desc : Word)                    -- bar.w, bar.aw, coll.red, coll.bc (R336, R337)
deriving DecidableEq, Repr

/-- R126: a park, the clk at which it began, its bound, and whether its condition has been met. -/
structure Park where
  kind  : ParkKind
  since : Nat
  limit : Nat
  met   : Bool
deriving DecidableEq, Repr

/-- R285: an outstanding load (`store` false) or store or message, with the core of its home for the fences (R235)
and, for a message, its destination queue and route (R142). `twin` is another request of the same instruction, with which
it counts as one while both are out. -/
structure Pending where
  id    : Nat
  store : Bool
  home  : Nat
  queue : Option (Nat × Nat) := none
  row   : Bool := false                -- a row access that has left the sequence buffer
  twin  : Option Nat := none
deriving DecidableEq, Repr

/-- The operations of the vector sequence buffer (R149, R153 to R171). -/
inductive VOp where
  | add | sub | mul | min | max | fma | fnma
  | land | lor | lxor | sll | srl | sra
  | ceq | cne | clt | cle | sel | perm | rot | bc
  | mv | neg | abs | rcp | rsq | exp2 | log2 | tanh | cvt | conj | norm | had | hadS | amul
  | rsum | rmax | rmin | get | qnt | dqnt
  | lr | sr | lrg | sendV | recvV | tile
deriving DecidableEq, Repr

/-- R45: the operand form of a vector instruction. -/
inductive VForm where
  | vv | vx | vf | vi | unary
deriving DecidableEq, Repr

/-- R257: the five kinds of matrix entry. -/
inductive TileOp where
  | mma | mmal | gth | sct | clr
deriving DecidableEq, Repr

/-- R85: one block of 32 mantissas with its exponent. -/
structure Block where
  exp  : Nat
  mant : List Int
deriving DecidableEq, Repr

/-- R261, R269: operand rows, each of n blocks, with the conjugation bit. -/
structure Rows where
  m    : Nat := 2
  n    : Nat := 1
  conj : Bool := false
  rows : List (List Block) := []
deriving DecidableEq, Repr

/-- R257, R268 to R271: a matrix entry. `since` is the number of the first packet of its issue or later (R251); `opA`,
`opB` are the operands once read (R259), whose reads end at clk `readEnd`; `bad` the first word of an operand read that met an uncorrectable error (R272);
`table` and `start` what it read at its grant, `start` and `flags` its result once its occupancy has begun; `reports`
what it has to report then. -/
structure Tile where
  kind    : TileOp := .clr
  slot    : Nat := 0
  ember   : Nat := 0
  half    : Nat := 0
  asl     : Nat := 0
  ovw     : Bool := false
  rev     : Bool := false
  da      : Word := 0
  db      : Word := 0
  scale   : BitVec 32 := 0
  image   : Row := 0
  vs      : Nat := 0
  idx     : List Nat := []
  since   : Nat := 0
  reading : Bool := false
  readEnd : Nat := 0
  arrived : Bool := false
  opA     : Rows := {}
  opB     : Rows := {}
  bad     : Option Word := none
  snap    : List (Nat × Nat) := []     -- the words taken so far, while its reads are not over (R245)
  table   : Row := 0
  start   : List Row := []
  flags   : BitVec 5 := 0
  reports : List (Nat × Word) := []
deriving DecidableEq, Repr

/-- R149: an entry of a vector sequence buffer, with what its instruction captured at issue (R70): the scalar operand
or address `b`, the storage key `key` of a row access, `vtype`, `frm`, and for row stores and messages the checks made. -/
structure VEntry where
  op    : VOp
  form  : VForm := .unary
  vd    : Nat := 0
  vs1   : Nat := 0
  vs2   : Nat := 0
  b     : Word := 0
  key   : Nat := 0
  rd    : Nat := 0
  isF   : Bool := false
  vtype : Nat := 0
  frm   : Nat := 0
  at_   : Nat := 0
  body  : Bool := false
  asid  : BitVec 12 := 0
  ro    : Bool := false
  data  : Row := 0
  tile  : Tile := {}
deriving DecidableEq, Repr

/-- R161: the repeat register: words still to issue, count k, stride, mask, and the place in the repetition. -/
structure Repeat where
  left   : Nat
  size   : Nat
  count  : Nat
  stride : Nat
  mask   : Nat
  round  : Nat
  place  : Nat
  claim  : Bool := false       -- a body word claimed the window
deriving DecidableEq, Repr

/-- R74 to R76: an open signature block. -/
structure SigBlock where
  len   : Nat
  sig   : Nat
  s     : Nat
  count : Nat
  br    : Bool
deriving DecidableEq, Repr

/-- R213: a cached leaf translation. -/
structure TlbEntry where
  asid : Nat
  page : Nat           -- virtual address of the page
  big  : Bool
  leaf : Word
  at_  : Nat           -- physical address of the leaf
  bad  : Bool := false -- a parity error stands in it (R296), an input of log 14
deriving DecidableEq, Repr

/-- R213: the walker's answer to a slot: the address, and a leaf or a cause. -/
structure WalkAnswer where
  asid  : Nat
  va    : Word
  entry : Option TlbEntry
  cause : Nat
deriving DecidableEq, Repr

/-- Log 7: what an ECALL or a kernel service left unfinished is kept by the trap registers; this says which launch
chunk an ember's current item belongs to (R118, R119). -/
structure ItemRef where
  launch : Nat
  chunk  : Nat
  turn   : Nat := 0      -- which issue of the chunk it belongs to
deriving DecidableEq, Repr

/-- One hardware slot (R12 to R25, R100, R146 to R161, R285, R290 to R293). -/
structure Slot where
  mode      : Mode := .vacant
  level     : Level := .user
  ember     : Nat := 0
  pc        : Word := 0            -- the PC [55:0]; a jump's upper bits stay until the fetch judges them (R26)
  word      : Code := 0
  x         : Tab Word := []
  f         : Tab (BitVec 32) := []
  fflags    : BitVec 5 := 0
  frm       : BitVec 3 := 0
  stage     : BitVec 8 := 0
  vtype     : BitVec 9 := 0
  vmk       : Word := BitVec.allOnes 64
  vmkh      : Word := BitVec.allOnes 64
  tgroup    : BitVec 16 := 0
  tstatus   : Word := 0
  parklimit : BitVec 40 := 0x1000000
  livemap   : BitVec 36 := 0
  asid      : BitVec 12 := 0
  noroam    : Bool := false
  trapvec   : BitVec 56 := 0
  trappc    : BitVec 56 := 0
  trapval   : Word := 0
  tscratch  : Word := 0
  trapcause : BitVec 9 := 0
  owner     : BitVec 8 := 0
  accHeld   : Bool := false
  accWin    : BitVec 3 := 0
  busy      : Bool := false
  pp        : Level := .user
  due       : Option Nat := none
  wait      : Wait := .ready
  seated    : Bool := false     -- R106: bound and suspended in its slot; its record says so
  lastIssue : Option Nat := none
  outs      : List Pending := []
  copies    : Nat := 0
  tiles     : Nat := 0
  vbuf      : List VEntry := []
  vlive     : Bool := false
  rowPend   : List (Nat × Nat) := []     -- flight, row
  rep       : Option Repeat := none
  imp       : Option (Nat × Word) := none
  pend      : List (Nat × Word) := []
  first     : Bool := false     -- R121: the woken parking instruction completes before a held trap
  trapNow   : Option (Nat × Word) := none     -- a precise trap that the next issue cycle takes
  sig       : Option SigBlock := none
  shadow    : Bool := false
  ahead     : List (Nat × Code) := []
  walking   : Option Word := none         -- the address for which the walker has been asked
  walk      : Option WalkAnswer := none
  moved     : Bool := false
  park      : Option Park := none
  got       : Option Word := none
  block     : Option (List Word) := none   -- words that arrived for the instruction being executed
  item      : Option ItemRef := none
  leaving   : Bool := false               -- a suspension has been decided and its record is not yet written (R111)
  bpSkip    : Option Word := none         -- R305: the instruction before which it stopped, until that completes
  stepping  : Bool := false
  stepDone  : Bool := false               -- the step has issued and stops once it is complete
  stopReq   : Bool := false
  killReq   : Option Nat := none
  cmdBusy   : Bool := false
  toCore    : Bool := false               -- R109: once written back the ember enters its core's queue
  told      : Bool := false               -- R107: the shortage that holds the slot has been reported
  vacated   : Option Nat := none          -- the clk at which the slot last became vacant
  inject    : Nat := 0                    -- the clk from which the core sends the slot's next request (R246)
  lastKill  : Option Nat := none
  barred    : Bool := false               -- killed twice, or in the exclusion list (R297, R351)
  acct      : Tab Word := []
deriving DecidableEq, Repr

/-- R123: a message in a receive queue or ring; `dest` is the ember it is reserved for (R143), or 0. -/
structure Msg where
  sx   : Nat
  sy   : Nat
  row  : Bool
  data : Row
  dest : Nat := 0
deriving DecidableEq, Repr

/-- R123 to R125: a receive queue: hardware part, overflow ring, ring pages, waiter list, later waiters. -/
structure RQueue where
  hw      : List Msg := []
  ring    : List Msg := []
  pages   : Nat := 1
  waiters : List Nat := []
  later   : List Nat := []
deriving DecidableEq, Repr

/-- R109: a ready-queue entry: ember and enqueue time. The hardware part and the ring keep one order. -/
abbrev ReadyQueue := List (Nat × Nat)

/-- R276: a copy command. -/
structure CopyCmd where
  kind   : Nat          -- 0 cpy, 1 cpy2, 2 cpyz, 3 cput, 4 cget
  src    : Word
  dst    : Word
  rows   : Nat
  len    : Nat
  spitch : Word
  dpitch : Word
deriving DecidableEq, Repr

/-- R274, R283: an entry of a copy queue: a command, a fence entry, or a marker of another queue's fence entry. -/
inductive CopyKind where
  | command (c : CopyCmd)
  | fence (id : Nat)
  | marker (id : Nat)
deriving DecidableEq, Repr

/-- An entry with its number, issuing slot and the ASID, owner and level captured (R212), the number of the first packet
of its issue or later (R251), and how far it has come. -/
structure CopyEntry where
  kind    : CopyKind
  num     : Nat
  slot    : Nat
  ember   : Nat
  asid    : BitVec 12
  owner   : BitVec 8
  user    : Bool := true
  since   : Nat := 0
  row     : Nat := 0
  off     : Nat := 0
  started : Bool := false
  waiting : Bool := false      -- a peer chunk is unacknowledged (R345)
  frames  : Nat := 0           -- its frames still unacknowledged
  parts   : List (Word × List Word) := []   -- what the frames of a `cget` chunk have brought
  todo    : List (Nat × Word) := []         -- words of the chunk under way that are still to be written (R245)
  have_   : List Word := []    -- words of the chunk under way that have been read, or that a `cget` has brought
  again   : Nat := 0           -- the clk from which they are used
  cut     : Bool := false      -- to be cut at the next chunk boundary (R280)
deriving DecidableEq, Repr

/-- R274: a copy queue. -/
structure CopyQueue where
  entries : List CopyEntry := []
  issued  : Nat := 0
deriving DecidableEq, Repr

/-- R223: a token bucket, RATE [15:8] and BURST [5:0]; tokens in 1/512. `waiting` holds the flights without a token, each
once for every token that it still needs. -/
structure Bucket where
  rate    : BitVec 8 := 0
  burst   : BitVec 6 := 0
  credit  : Nat := 0
  filled  : Nat := 0
  waiting : List Nat := []
deriving DecidableEq, Repr

/-- One core (R146, R223, R257, R274, R305 to R308, R322, R328, R331). -/
structure Core where
  region    : Option Nat := none
  owned     : Option (BitVec 8) := none
  sliceOwner : BitVec 8 := 0
  sliceZero : Bool := false
  sliceHeld : List Instr := []
  mweight   : BitVec 4 := 1
  sigKill   : Bool := true
  sigEn     : Bool := false
  rows      : Tab Row := []
  latches   : Tab Rows := []              -- by window, its gather latch where that is valid (R269)
  tlb       : List TlbEntry := []
  mq        : List Tile := []
  cq0       : CopyQueue := {}
  cq1       : CopyQueue := {}
  rq        : Tab RQueue := []
  bells     : List Nat := []
  ready     : ReadyQueue := []
  routes    : Tab Word := []
  meter     : Bucket := {}
  held      : List (Nat × List Nat) := []   -- message flight, and the flights it waits for (R142)
  arr       : Tab Nat := []               -- clk of the arrival where ARR[k] is 1
  bround    : Tab (BitVec 16) := []
  mask      : Option Nat := none          -- clk at which the mask bit took effect
  maskNext  : List Nat := []              -- contexts in which the mask waits for the release (R329)
  cround    : Tab (BitVec 16) := []
  kept      : Tab Word := []
  keptFlags : Tab (BitVec 5) := []
  contrib   : Tab Nat := []               -- the round of this core's contribution
  bpa       : Tab Word := []
  bpc       : Tab Word := []
  pcrotEn   : Bool := false
  pcrotPer  : BitVec 5 := 16
  pcrotSets : BitVec 2 := 0
  rotation  : Nat := 0
  scount    : Tab Word := []
  psel      : Tab Word := []
  tenabled  : Word := 0
  strun     : Tab Word := []
  activeSet : Nat := 0
  filters   : Tab (Word × Word) := []
  hist      : Tab Word := []
  counting  : Bool := false
  would     : Nat := 0                    -- R102: the slots that would issue in the clk being counted
  throttle  : Nat := 0
  turns     : Nat := 0
  temps     : BitVec 128 := 0             -- the last reading of the sixteen banks above the core, one byte of °C each (R222)
deriving DecidableEq, Repr

/-- R113: a work item. -/
structure WorkItem where
  stage  : BitVec 8
  entry  : Word
  target : Option Nat
  args   : List Word
  item   : Option ItemRef := none
deriving DecidableEq, Repr

/-- R113: a stage queue of a dispenser. -/
structure StageQueue where
  stage : Nat
  items : List WorkItem
deriving DecidableEq, Repr

/-- R113 to R115, R138: a task dispenser; `held` the items without a place. The overflow rings are the region's. -/
structure Dispenser where
  queues  : List StageQueue := []
  held    : List WorkItem := []
  waiting : List Nat := []
  current : Option Nat := none
  given   : Nat := 0
deriving DecidableEq, Repr

/-- R178: the states of an answer-table entry other than ABSENT. -/
inductive AnswerState where
  | producing | held | done | failed
deriving DecidableEq, Repr

/-- R178: an answer-table entry. -/
structure Answer where
  group     : Nat
  callee    : Word
  args      : List Word
  state     : AnswerState
  producer  : Nat
  heldFor   : Nat := 0
  a0        : Word := 0
  a1        : Word := 0
  reason    : BitVec 8 := 0
  code      : Nat := 0
  kills     : Nat := 0
  serial    : Nat
  consumers : List Nat := []
  keyBad    : Bool := false      -- its key cannot be read (R298), an input of log 14
deriving DecidableEq, Repr

/-- R184: a consumer cell that the home has written or will write: outcome, reason, answer. -/
structure Cell where
  out    : Nat
  reason : BitVec 8
  answer : Option (Word × Word)
  at_    : Nat := 0      -- the clk at which the home writes it
deriving DecidableEq, Repr

/-- R178 to R184, R195: an answer-table slice; `lru` most recent first. -/
structure Slice where
  entries : Tab Answer := []
  serial  : Nat := 0
  lru     : List Nat := []
  held    : List Nat := []
  cells   : Tab Cell := []
  owner   : BitVec 8 := 0
  zero    : Bool := false
  zeroHeld : List Instr := []
  reports : Tab Nat := []
  reading : Option Nat := none   -- R182: the request whose backing-table read is under way
  queue   : List Instr := []     -- R182: the requests that arrived behind it
deriving DecidableEq, Repr

/-- R257 to R259: the matrix unit: idle or executing one entry (core, entry), waiting for its operands or occupied. -/
structure MatrixUnit where
  running  : Option (Nat × Tile) := none
  pending  : List Tile := []           -- occupancy ended, completion 12 clk later
  turn     : Nat := 0
  given    : Nat := 0
  grantAt  : Nat := 0
  busyTo   : Nat := 0
deriving DecidableEq, Repr

/-- One cluster (R109, R113, R177, R213, R258, R263, R309). -/
structure Cluster where
  l2        : List TlbEntry := []
  engTlb    : List TlbEntry := []
  ready     : ReadyQueue := []
  disp      : Dispenser := {}
  poolEmpty : Bool := false
  answers   : Slice := {}
  mx        : MatrixUnit := {}
  tables    : Tab Row := []
  flagUnion : BitVec 5 := 0
  rr        : Nat := 0
  engMeter  : Bucket := {}
  engLive   : Bool := false
  engAt     : Nat := 0                 -- the clk of the engine's next turn
deriving DecidableEq, Repr

/-- R226: an entry of a watch table; `served` the value once delivered. -/
structure Watch where
  key    : Nat
  gen    : Nat
  take   : Bool
  ember  : Nat
  slot   : Nat
  rd     : Nat
  res    : Bool                -- the waiter stays resident in its slot (R228)
  src    : Nat
  served : Option Word := none
deriving DecidableEq, Repr

/-- R236: an entry of an append table. -/
structure AppendEntry where
  big    : Bool
  tail   : Nat
  closed : Bool
deriving DecidableEq, Repr

/-- The controller of a slice (key 2 core) or of a flue (key 2 core + 1): R219, R220, R226, R236, R326. -/
structure Home where
  watch     : List Watch := []
  requests  : List Nat := []
  appends   : Tab AppendEntry := []
  bankOwner : Tab (BitVec 8) := []
  openRow   : Tab Nat := []
  zeroing   : List Nat := []
  zeroHeld  : List (Nat × Instr) := []
deriving DecidableEq, Repr

/-- R120: an armed deadline counter. -/
structure Deadline where
  ember  : Nat
  stage  : BitVec 8
  budget : Nat
  ends   : Nat
  region : Nat
deriving DecidableEq, Repr

/-- R240: a replica: the home frame, the local frame, and whether the copy is done. -/
structure Replica where
  frame : Nat
  copy  : Nat
  big   : Bool
  owner : BitVec 8
  done  : Bool
  served : Nat := 0      -- the reads it has served (R313)
  drop   : Bool := false -- dropped, while reads sent to it are still to be answered
deriving DecidableEq, Repr

/-- R300: an error record of eight words, or R306: a trace record of four. -/
abbrev Record := List Word

/-- One field (R120, R213, R240, R299 to R306, R318, R319, R327, R328, R353). -/
structure Field where
  started      : Bool := false
  fenced       : Bool := false
  frozen       : Bool := false
  zero         : Nat := 0                 -- clk of the field's reset
  half         : Bool := false
  turnsTo      : Nat := 0                 -- R102: the clk up to which `turns` counts
  turns        : Tab Nat := []            -- by slot number, its issue cycles before the last change of speed
  speedTo      : Option Bool := none
  heat         : Bool := false            -- halved for a hot bank
  deadlines    : List Deadline := []
  replicas     : List Replica := []
  pool         : List (BitVec 8 × Bool × Nat) := []   -- owner, 64 MiB, frame
  threshold    : Nat := 0
  reads        : Tab Nat := []
  quarantine   : List Nat := []
  errors       : List Record := []        -- the last `errCap` records, oldest first
  errIndex     : Nat := 0                 -- the write index of the error ring
  errCap       : Nat := 1048576
  corrected    : Tab Nat := []            -- by unit, the clk of its last record of class corrected (R296)
  corrections  : Nat := 0                 -- correctable errors counted (R296)
  expired      : List Deadline := []      -- entries freed at zero while dispatch is frozen (R302)
  faults       : List (Nat × List Word) := []   -- double faults that wait for the restart (R302)
  trace        : List Record := []
  traceCap     : Nat := 1048576
  traceLost    : Nat := 0
  llTlb        : List TlbEntry := []
  relay        : List Nat := []
  relayAt      : Nat := 0                 -- the clk from which the relay gateway sends the next packet (R319)
  lastMismatch : Option Nat := none
  badEntries   : List Nat := []           -- addresses of malformed page-table entries that walkers reported (R210)
  backFaults   : List Word := []          -- backing-table accesses that met a fault, reported (R188)
  unlisted     : List Nat := []           -- sealable frames without an append-table entry, reported (R236)
  segments     : Nat := 0
deriving DecidableEq, Repr

/-- R115, R117: a stage of a region's stage table. -/
structure StageInfo where
  weight : Nat := 1
  event  : Bool := false
  evr    : Word := 0
deriving DecidableEq, Repr

/-- R330: a barrier context: the round at the root and its start, the fields whose AND is on its way with the clk at
which it reaches the root, the fields whose AND has reached it. -/
structure BarCtx where
  round   : BitVec 16 := 0
  since   : Nat := 0
  sent    : Tab Nat := []
  fields  : List Nat := []
deriving DecidableEq, Repr

/-- R331, R361: a collective context: the round, the contributions at the gateways (core, value, descriptor), the fields
whose partial has left and those whose partial is at the root, the ranks once fixed, and what is kept of earlier rounds. -/
structure CollCtx where
  round    : BitVec 16 := 0
  contribs : List (Nat × Word × Word) := []
  sent     : List Nat := []
  parts    : List Nat := []
  ranks    : Option (List Nat) := none
  lives    : Tab Nat := []       -- by round that has been released, its live count (R333)
deriving DecidableEq, Repr

/-- What the kernel supplies when it starts a region (R99, R107, R118, R132, R294): the rectangle of clusters in
device-wide cluster columns and rows, the owner and context, the lists of records, save areas, spill areas, pages, idle embers (records that hold a `wfw`) and
reserved ranges (R359), and the frames it gives out. A state input. Log 7. -/
structure RegionPlan where
  owner   : BitVec 8 := 0
  asid    : BitVec 12 := 0
  x0      : Nat := 0
  y0      : Nat := 0
  w       : Nat := 0
  h       : Nat := 0
  records : List Word := []
  saves   : List Word := []
  spills  : List Word := []
  pages   : Nat := 0
  idle    : List Word := []
  idlePc  : BitVec 56 := 0
  trapvec : BitVec 56 := 0
  stages  : Tab StageInfo := []
  demand  : List (Word × Word) := []
  budget  : Nat := 0
  debug   : Bool := false
  map     : Word := 0                          -- address of the region map (R99), or 0
  frames  : List (Bool × Nat) := []            -- zeroed frames (64 MiB or 64 KiB) for allocation on demand and migration
  nodes   : List Nat := []                     -- zeroed nodes of 8 KiB for the page table
  seals   : List (Nat × Bool) := []            -- zeroed frames that it maps as sealable, with their size (R236)
  pool    : List (Nat × Bool × Nat) := []      -- field, size and frame of replica frames (R240)
  thresholds : Tab Nat := []                   -- the replication threshold by field (R240)
  meters  : Tab Word := []                     -- by logical core, its bucket [15:0] and that of its cluster's copy engine [31:16] (R223)
deriving DecidableEq, Repr

/-- A region (R99, R107, R115, R117, R132, R294, R328, R331, R359). -/
structure Region where
  owner    : BitVec 8
  asid     : BitVec 12
  cores    : List Nat
  clusters : List Nat
  running  : Bool
  records  : List Word
  saves    : List Word
  spills   : List Word
  pages    : Nat
  stages   : Tab StageInfo
  demand   : List (Word × Word)
  budget   : Nat
  debug    : Bool
  bar      : Tab BarCtx := []
  coll     : Tab CollCtx := []
  usedSaves : List (Nat × Word) := []      -- ember, area
  rings    : List (Nat × WorkItem) := []   -- R113: the overflow rings, with the cluster, in the order of arrival
  frames   : List (Bool × Nat) := []
  nodes    : List Nat := []
  spent    : Nat := 0                      -- clk counted against the budget (R295)
  harvested : List Nat := []               -- the core positions of its clusters whose core is harvested (R356)
  short    : Bool := false                 -- its pool could not extend a ring: reported to the host (R124)
deriving DecidableEq, Repr

/-- R119: a chunk of a launch; `fields` are those to which its items were issued. -/
structure Chunk where
  first    : Nat
  items    : Nat
  fields   : List Nat
  turn     : Nat := 0
  finished : Nat := 0
  acked    : Bool := false
  lost     : Bool := false
deriving DecidableEq, Repr

/-- R117 to R119: a launch. -/
structure Launch where
  words   : List Word
  port    : Option Nat            -- posted by the host through this port
  asid    : BitVec 12
  owner   : BitVec 8
  master  : Nat
  deputy  : Option Nat
  chunks  : Tab Chunk := []
  items   : Nat := 0
  lost    : Bool := false
  ended   : Bool := false
deriving DecidableEq, Repr

/-- What is kept of an ember by its ID beside its record: the core where it last ran and the region, its work item,
its park while it is out of a slot, timeouts and the report to be taken, the kernel's forwarding registration (R311), and
whether it was stopped while out of a slot (R112). -/
structure EmberInfo where
  core    : Nat := 0
  region  : Nat := 0
  item    : Option ItemRef := none
  park    : Option Park := none
  pend    : List (Nat × Word) := []
  imp     : Option (Nat × Word) := none
  first   : Bool := false
  forward : Option (Word × Word × Word) := none
  queued  : Bool := false
  moving  : Bool := false
deriving DecidableEq, Repr

/-- R177: the state of a group; a free group has no entry in the table. -/
inductive GroupState where
  | opened | closed | sealed
deriving DecidableEq, Repr

/-- R195: a probe round: questions still out, and whether it may still confirm. -/
structure Probe where
  left : Nat
  good : Bool
deriving DecidableEq, Repr

/-- R177, R188, R189, R194: a group and its group home's counts. `producers` lists (ember, entries, listed). -/
structure Group where
  state     : GroupState := .opened
  owner     : BitVec 8 := 0
  asid      : BitVec 12 := 0
  region    : Nat := 0
  cword     : Word := 0
  table     : Word := 0
  size      : Nat := 0
  p         : Nat := 0
  pubs      : Nat := 0
  producers : List (Nat × Nat × Bool) := []
  changed   : Nat := 0
  complete  : Bool := false
  sealers   : List Nat := []
  probe     : Option Probe := none
  latest    : Tab Nat := []
  born      : Nat := 0       -- tells the group from an earlier one of the same ID
  due       : Nat := 0       -- R195: the clk at which 4,096 clk without a change have passed
deriving DecidableEq, Repr

/-- A packet, request or reply under way: who sent it, where it goes, what it carries, and the event of its arrival.
The fields an event does not need stay at their defaults. -/
structure Flight where
  next  : Instr
  slot  : Nat := 0
  ember : Nat := 0
  src   : Nat := 0             -- core it leaves from
  dst   : Nat := 0             -- core it goes to
  va    : Word := 0
  key   : Nat := 0
  size  : Nat := 8
  data  : Row := 0
  rd    : Nat := 0
  isF   : Bool := false
  sext  : Bool := false
  op    : Nat := 0
  aux   : Nat := 0
  args  : List Word := []
  asid  : BitVec 12 := 0
  owner : BitVec 8 := 0
  ro    : Bool := false
  via   : Option Nat := none   -- R324: the time of its static route
  cause : Nat := 0
  tval  : Word := 0
  relayTo : Nat := 0
  part  : Nat := 0             -- bytes that a store of several words has written so far (R245)
  took  : List Word := []      -- words that a read of several words has taken so far (R245)
  pair  : Option Nat := none   -- the other read of a `vdqnt` or of a block that has two homes
  bytes : List Word := []      -- what that other read, or the own slice, supplied
  dead  : Bool := false        -- the ember that sent it has died since (R133, R255)
  served : Bool := false       -- a replica serves it (R240)
  near  : Bool := false        -- an access of several words to the slot's own slice (R245)
  fault : Option (Nat × Word) := none   -- what the other read of a block met: cause and address
deriving DecidableEq, Repr

/-- R320, R350: the boot image, as far as it acts: harvested flues (cores), clusters
without a good matrix unit, dead routers, gateway positions, the
frame of the fabric table, the alarm policy, digest, firmware version and signature. A state input. Log 11. -/
structure Boot where
  harvested : List Nat := []
  badUnits  : List Nat := []
  dead      : List Nat := []
  gateways  : Tab Nat := []
  erase     : Bool := false
  digest    : Nat := 0
  version   : Word := 0
  signature : Nat := 0
  fabric    : Nat := 0x7FF0000       -- frame of the fabric table (R327); log 54
deriving DecidableEq, Repr

/-- R339, R344, R350 to R352: the module block, the security controller and the power manager. -/
structure Module where
  stepping : BitVec 16 := 0
  variant  : BitVec 2 := 0
  peer     : Bool := true
  wafers   : BitVec 4 := 4
  boot     : Boot := {}
  ldesc    : Tab Word := []
  lstat    : BitVec 2 := 0
  lcw      : Tab Word := []
  lcwt     : Tab (BitVec 4) := []
  posted   : Tab Nat := []       -- by port, the latest launch posted through it (R339)
  writes   : List (Nat × Instr) := []   -- by port, what waits behind a posted write that a home holds (R341)
  pwr      : Tab Word := []
  plim     : BitVec 16 := 6000
  anonce   : Tab Word := []
  astat    : BitVec 2 := 0
  areport  : Tab Word := []
  acert    : Tab Word := []
  hq       : Tab Word := []
  pimp     : Tab Word := []
  proute   : Tab Word := []
  devnum   : BitVec 12 := 0
  pmap     : Word := 0
  excl     : Tab Word := []
  msix     : List (Nat × Nat) := []
  alarm    : Nat := 0
  alarms   : Nat := 0            -- the alarm state that a report shows (R352)
  resets   : Word := 0
  serial   : Word := 0
  hostOut  : List (Option Word) := []
  peerOut  : List (Nat × Option Nat × List Word × Row) := []   -- device, port of a chunk, header, data
  rotate   : Tab Nat := []     -- by device, the chunks sent to it, for the turn of its ports
  rails    : Tab Word := []
deriving DecidableEq, Repr

/-- The machine. -/
structure State where
  now      : Nat := 0
  cur      : Nat := 0
  agenda   : List (Nat × Instr) := []      -- 8 clk + rank, rising; see `post`
  free     : Nat := 0
  nextId   : Nat := 1
  flights  : Tab Flight := []
  mem      : List Host.Cell := []
  tags     : Tab (BitVec 4) := []
  bad      : List Nat := []
  soft     : List Nat := []                -- keys in whose unit a correctable error stands (R296), an input of log 14
  asids    : Tab Word := []
  groups   : Tab Group := []
  launches : Tab Launch := []
  plans    : Tab RegionPlan := []
  regions  : Tab Region := []
  embers   : Tab EmberInfo := []
  slots    : Tab Slot := []
  cores    : Tab Core := []
  clusters : Tab Cluster := []
  homes    : Tab Home := []
  fields   : Tab Field := []
  module   : Module := {}
deriving DecidableEq, Repr

/-- Log 1: what a byte of memory that nothing has written reads as. A slice is zero after reset (R220); DRAM at power-on
is not given by the spec. DESIGN CHOICE. -/
def unlistedByte : BitVec 8 := 0

/-- The canonical form of memory: keys strictly rising, and no entry that an unlisted byte already reads as. -/
def Memory.wf : List Host.Cell → Bool
  | [] => true
  | [(_, b)] => b != unlistedByte
  | (a, b) :: (a', b') :: m => b != unlistedByte && decide (a < a') && Memory.wf ((a', b') :: m)

/-- The machine right after reset: every unit at its reset value, no ember, no region, nothing under way (R16 to R24,
R292, R305 to R309, R328, R339). How a program comes to run is log 3. -/
def State.reset : State := {}

end Sys2Proof.Machine
end

