-- ==== Sys2Proof/Machine/Geometry.lean ====
section
/-! DEFINITION. Positions of cores and fields (R6, R7, R314), storage keys (R202, R205), routes (R315 to R319), and the fields
of page-table leaves (R209, R213). -/

namespace Sys2Proof.Machine

/-- R7: the field-row of a field. -/
def fieldRow (f : Nat) : Nat :=
  if f < 7 then 0 else if f < 16 then 1 else if f < 27 then 2 else if f < 38 then 3 else if f < 47 then 4 else 5

/-- R7: fields of a row, its first field number and its column offset. -/
def rowLen (i : Nat) : Nat := [7, 9, 11, 11, 9, 7].getD i 0
def rowFirst (i : Nat) : Nat := [0, 7, 16, 27, 38, 47].getD i 0
def rowOffset (i : Nat) : Nat := [2, 1, 0, 0, 1, 2].getD i 0

/-- R7: the field's column in the rectangle. -/
def fieldCol (f : Nat) : Nat := rowOffset (fieldRow f) + (f - rowFirst (fieldRow f))

/-- R7: the field at a row and a column of the rectangle. -/
def fieldAt (row col : Nat) : Option Nat :=
  if row < 6 ∧ rowOffset row ≤ col ∧ col < rowOffset row + rowLen row then some (rowFirst row + (col - rowOffset row))
  else none

def slotCore (k : Nat) : Nat := k / 8
def slotIdx (k : Nat) : Nat := k % 8
def coreCluster (k : Nat) : Nat := k / 8
def coreField (k : Nat) : Nat := k / 1024
def clusterField (k : Nat) : Nat := k / 128
def slotField (k : Nat) : Nat := k / 8192
def slotCluster (k : Nat) : Nat := k / 64

/-- R314: physical position of a core. -/
def coreX (k : Nat) : Nat := 32 * fieldCol (coreField k) + 2 * (k / 8 % 16) + k % 2
def coreY (k : Nat) : Nat := 32 * fieldRow (coreField k) + 4 * (k / 128 % 8) + k % 8 / 2

/-- R7, R314: the core at a physical position; none outside every populated field. -/
def coreAt (x y : Nat) : Option Nat :=
  (fieldAt (y / 32) (x / 32)).map fun f => 1024 * f + 128 * (y % 32 / 4) + 8 * (x % 32 / 2) + 2 * (y % 4) + x % 2

/-- R18: the value of `coreloc` for a slot. -/
def coreloc (k : Nat) : Word :=
  let c := slotCore k
  BitVec.ofNat 64 (coreX c * 2 ^ 32 + coreY c * 2 ^ 24 + coreField c * 2 ^ 16 + c / 8 % 16 * 2 ^ 12
    + c / 128 % 8 * 2 ^ 8 + c % 8 * 2 ^ 4 + slotIdx k)

/-- The first storage key of a core's local-store slice (R202). -/
def sliceKey (c : Nat) : Nat := 2 ^ 44 + c * 2 ^ 19

/-- R205: the core beneath flue n of field f. -/
def flueCore (f n : Nat) : Nat := 1024 * f + 128 * (n / 32 / 4) + 8 * (n % 32 / 2) + 2 * (n / 32 % 4) + n % 2

/-- R205: the flue above a core, as the physical address of its first byte. -/
def flueBase (c : Nat) : Nat := (coreField c * 1024 + 32 * (coreY c % 32) + coreX c % 32) * 2 ^ 28

/-- The core of the home of a storage key: the slice's core, or the core beneath the flue (R224). -/
def keyCore (key : Nat) : Nat :=
  if 2 ^ 44 ≤ key then (key - 2 ^ 44) / 2 ^ 19 else flueCore (key / 2 ^ 38) (key / 2 ^ 28 % 1024)

/-- The home controller of a storage key: 2 core for a slice, 2 core + 1 for a flue. -/
def keyHome (key : Nat) : Nat := 2 * keyCore key + (if 2 ^ 44 ≤ key then 0 else 1)

/-- R206: the 16 MiB bank of a DRAM key within its flue. -/
def keyBank (key : Nat) : Nat := key / 2 ^ 24 % 16

/-- R27: the store-space address of a storage key of a slice. -/
def storeAddr (key : Nat) : Word :=
  let c := keyCore key
  BitVec.ofNat 64 (0xFFF0000000000000 + coreX c * 2 ^ 43 + coreY c * 2 ^ 35 + (key - sliceKey c))

/-- R27, R262: the store-space address formed from a core and an offset that may exceed its slice. -/
def storeAddrAt (c off : Nat) : Word :=
  BitVec.ofNat 64 (0xFFF0000000000000 + coreX c * 2 ^ 43 + coreY c * 2 ^ 35 + off)

/-- R3: the core is good by the map of the boot image. -/
def Boot.good (b : Boot) (c : Nat) : Bool := !b.harvested.contains c && !b.dead.contains c

/-- R4: a cluster is usable: its matrix unit and at least six of its cores are good. -/
def Boot.usable (b : Boot) (cl : Nat) : Bool :=
  !b.badUnits.contains cl && decide (6 ≤ ((List.range 8).filter fun i => b.good (8 * cl + i)).length)

/-- R4: the boot image enables the core: it is good, and its cluster is usable. -/
def Boot.enabled (b : Boot) (c : Nat) : Bool := decide (c < nCores) && b.good c && b.usable (c / 8)

/-- R4, R23: the clusters in which the map leaves something out. -/
def Boot.touched (b : Boot) : List Nat :=
  (((b.harvested ++ b.dead).map (· / 8)) ++ b.badUnits).eraseDups.filter (· < nClusters)

/-- R23: the usable clusters, and the enabled cores. -/
def Boot.clusters (b : Boot) : Nat := nClusters - (b.touched.filter fun cl => !b.usable cl).length
def Boot.cores (b : Boot) : Nat :=
  nCores - (b.touched.map fun cl => ((List.range 8).filter fun i => !b.enabled (8 * cl + i)).length).sum

/-- R320: the router at a position exists, and is live. -/
def Boot.live (b : Boot) (x y : Nat) : Bool :=
  match coreAt x y with
  | some c => !b.dead.contains c
  | none => false

/-- R315, R317: the skip from x towards x' (four places) exists and lands on a live router. -/
def Boot.skip (b : Boot) (x y : Nat) (east : Bool) : Bool :=
  let xs := if east then [x + 1, x + 2, x + 3, x + 4] else [x - 1, x - 2, x - 3, x - 4]
  (east || decide (4 ≤ x)) && xs.all (fun v => (coreAt v y).isSome) && b.live (if east then x + 4 else x - 4) y

/-- R317: the west leg from x to xv along row y. -/
def westLeg (b : Boot) (y xv : Nat) : Nat → Nat → Option (List (Nat × Nat))
  | 0, _ => none
  | n + 1, x =>
    if x = xv then some []
    else if 4 ≤ x - xv ∧ b.skip x y false then (westLeg b y xv n (x - 4)).map ((x - 4, y) :: ·)
    else if b.live (x - 1) y then (westLeg b y xv n (x - 1)).map ((x - 1, y) :: ·)
    else none

/-- R317: the rest of the route, from (x,y) north or south, then east. -/
def eastLeg (b : Boot) (xd yd : Nat) : Nat → Nat → Nat → Option (List (Nat × Nat))
  | 0, _, _ => none
  | n + 1, x, y =>
    let y' := if y < yd then y + 1 else y - 1
    if y ≠ yd ∧ b.live x y' then (eastLeg b xd yd n x y').map ((x, y') :: ·)
    else if y ≠ yd ∧ x < xd then
      if b.live (x + 1) y then (eastLeg b xd yd n (x + 1) y).map ((x + 1, y) :: ·) else none
    else if x < xd then
      if 4 ≤ xd - x ∧ b.skip x y true then (eastLeg b xd yd n (x + 4) y).map ((x + 4, y) :: ·)
      else if b.live (x + 1) y then (eastLeg b xd yd n (x + 1) y).map ((x + 1, y) :: ·)
      else none
    else if (x, y) = (xd, yd) then some []
    else none

/-- R317: the default route for the west overshoots k, k + 1, …: the routers entered, in order. -/
def routeFrom (b : Boot) (xs ys xd yd w0 : Nat) : Nat → Nat → Option (List (Nat × Nat))
  | 0, _ => none
  | n + 1, k =>
    if min xs xd < w0 + k then none
    else
      let xv := min xs xd - k
      match (westLeg b ys xv 400 xs).bind fun w => (eastLeg b xd yd 600 xv ys).map (w ++ ·) with
      | some r => some r
      | none => routeFrom b xs ys xd yd w0 n (k + 1)

/-- R317: the default route between two cores. -/
def route (b : Boot) (src dst : Nat) : Option (List (Nat × Nat)) :=
  routeFrom b (coreX src) (coreY src) (coreX dst) (coreY dst) (32 * rowOffset (fieldRow (coreField src))) 352 0

/-- R318: the gateway of a field: local core (16,16) unless the boot image names another. -/
def Boot.gateway (b : Boot) (f : Nat) : Nat := Tab.get b.gateways f (flueCore f (32 * 16 + 16))

/-- R319: the relay gateway for packets from a core. -/
def Boot.relayOf (b : Boot) (src : Nat) : Nat :=
  let i := fieldRow (coreField src)
  b.gateway (rowFirst (if i ≤ 2 then 2 else 3) + rowOffset i)

/-- R183, R314: the hub router of a cluster: its core 0, or the live router of the lowest core number. -/
def Boot.hub (b : Boot) (cl : Nat) : Nat :=
  ((List.range 8).map (8 * cl + ·)).find? (fun c => !b.dead.contains c) |>.getD (8 * cl)

/-- R327: the field distance. -/
def fieldDist (f g : Nat) : Nat :=
  (fieldRow f - fieldRow g) + (fieldRow g - fieldRow f) + (fieldCol f - fieldCol g) + (fieldCol g - fieldCol f)

/-- R322, R324: the routers that a numbered route enters, leg by leg, or none where it leaves the live routers. -/
def legPath (b : Boot) (dir : Nat) (skip : Bool) : Nat → Nat → Nat → Option (List (Nat × Nat))
  | 0, _, _ => some []
  | n + 1, x, y =>
    let d := if skip then 4 else 1
    let x' := if dir = 0 then x - d else if dir = 2 then x + d else x
    let y' := if dir = 1 then y - 1 else if dir = 3 then y + 1 else y
    let fits := if dir = 0 then decide (d ≤ x) else if dir = 1 then decide (1 ≤ y) else true
    let ok := if skip then b.skip x y (dir = 2) else b.live x' y'
    if fits && ok then (legPath b dir skip n x' y').map ((x', y') :: ·) else none

/-- R322: the legs of a route-table entry: direction, skip, count. -/
def routeLegs (e : Word) : List (Nat × Bool × Nat) :=
  (List.range (bits e.toNat 60 3)).map fun i =>
    let v := bits e.toNat (12 * i) 12
    (v / 1024, v / 512 % 2 = 1, v % 512)

/-- R322: the whole path of an entry from a position. -/
def entryPath (b : Boot) : List (Nat × Bool × Nat) → Nat → Nat → Option (List (Nat × Nat))
  | [], _, _ => some []
  | (dir, skip, n) :: ls, x, y =>
    (legPath b dir skip n x y).bind fun p =>
      let last := p.getLastD (x, y)
      (entryPath b ls last.1 last.2).map (p ++ ·)

/-! Fields of a leaf (R209). -/
def leafV (e : Word) : Bool := e.getLsbD 0
def leafR (e : Word) : Bool := e.getLsbD 1
def leafW (e : Word) : Bool := e.getLsbD 2
def leafX (e : Word) : Bool := e.getLsbD 3
def leafU (e : Word) : Bool := e.getLsbD 4
def leafClass (e : Word) : Nat := bits e.toNat 5 2
def leafSealed (e : Word) : Bool := e.getLsbD 7
def leafAttract (e : Word) : Bool := e.getLsbD 8
/-- R209: the frame of a leaf, or the next node of a pointer. -/
def leafFrame (e : Word) : Nat := bits e.toNat 13 31 * 2 ^ 13

/-- The storage key of an address under a cached leaf. -/
def TlbEntry.key (t : TlbEntry) (va : Word) : Nat := leafFrame t.leaf + va.toNat % (if t.big then 2 ^ 26 else 2 ^ 16)
/-- R213: an entry translates the address under the ASID. -/
def TlbEntry.hits (t : TlbEntry) (asid : Nat) (va : Word) : Bool :=
  t.asid == asid && t.page == va.toNat / (if t.big then 2 ^ 26 else 2 ^ 16) * (if t.big then 2 ^ 26 else 2 ^ 16)

end Sys2Proof.Machine
end

