-- ==== Sys2Proof/Machine/Ops.lean ====
section
/-! DEFINITION. The named operations over the state: units, time and the agenda, registers, memory and tags, taking an
exception and returning from one, error and trace records, completing an instruction, packets. -/

namespace Sys2Proof.Machine

/-! Units. -/

def State.slot (s : State) (k : Nat) : Slot := Tab.get s.slots k { accWin := BitVec.ofNat 3 k }
def State.putSlot (s : State) (k : Nat) (v : Slot) : State := { s with slots := Tab.set s.slots k v }
def State.modSlot (s : State) (k : Nat) (f : Slot → Slot) : State := s.putSlot k (f (s.slot k))
def State.core (s : State) (k : Nat) : Core := Tab.get s.cores k {}
def State.putCore (s : State) (k : Nat) (v : Core) : State := { s with cores := Tab.set s.cores k v }
def State.modCore (s : State) (k : Nat) (f : Core → Core) : State := s.putCore k (f (s.core k))
def State.cluster (s : State) (k : Nat) : Cluster := Tab.get s.clusters k {}
def State.modCluster (s : State) (k : Nat) (f : Cluster → Cluster) : State :=
  { s with clusters := Tab.set s.clusters k (f (s.cluster k)) }
def State.modDisp (s : State) (k : Nat) (f : Dispenser → Dispenser) : State :=
  s.modCluster k fun c => { c with disp := f c.disp }
def State.modAnswers (s : State) (k : Nat) (f : Slice → Slice) : State :=
  s.modCluster k fun c => { c with answers := f c.answers }
def State.home (s : State) (k : Nat) : Home := Tab.get s.homes k {}
def State.modHome (s : State) (k : Nat) (f : Home → Home) : State :=
  { s with homes := Tab.set s.homes k (f (s.home k)) }
def State.field (s : State) (k : Nat) : Field := Tab.get s.fields k {}
def State.modField (s : State) (k : Nat) (f : Field → Field) : State :=
  { s with fields := Tab.set s.fields k (f (s.field k)) }
def State.info (s : State) (e : Nat) : EmberInfo := Tab.get s.embers e {}
def State.modInfo (s : State) (e : Nat) (f : EmberInfo → EmberInfo) : State :=
  { s with embers := Tab.set s.embers e (f (s.info e)) }
def State.modRegion (s : State) (r : Nat) (f : Region → Region) : State :=
  match Tab.find? s.regions r with
  | some g => { s with regions := Tab.set s.regions r (f g) }
  | none => s
def State.modGroup (s : State) (g : Nat) (f : Group → Group) : State :=
  match Tab.find? s.groups g with
  | some v => { s with groups := Tab.set s.groups g (f v) }
  | none => s
def State.modModule (s : State) (f : Module → Module) : State := { s with module := f s.module }
/-- The region of a core, if it belongs to one (R99). -/
def State.regionOf (s : State) (c : Nat) : Option (Nat × Region) :=
  (s.core c).region.bind fun r => (Tab.find? s.regions r).map fun g => (r, g)

/-! Events that name a unit. -/

/-- An event acts on a unit that exists; log 6. -/
def unitOk (ok : Bool) (s : State) : Out State := if ok then .next s else .fault .noSuchUnit

/-! Time and the agenda. -/

/-- R327, R353: the time counter of a field. -/
def State.counter (s : State) (f : Nat) : Nat := s.now - (s.field f).zero

/-- R353: delays count cycles of the field's own clock; a halved cycle lasts two clk. -/
def State.clk (s : State) (f n : Nat) : Nat := if (s.field f).half then 2 * n else n

/-- R100, R353: the first clk from t on at which slot k may issue. -/
def State.nextIssue (s : State) (k t : Nat) : Nat :=
  let f := s.field (slotField k)
  if f.half then t + (2 * slotIdx k + 16 - (t - f.zero) % 16) % 16
  else t + (slotIdx k + 8 - (t - f.zero) % 8) % 8

/-- Inserts behind every entry with the same or an earlier key. -/
def agendaInsert : List (Nat × Instr) → Nat → Instr → List (Nat × Instr)
  | [], k, i => [(k, i)]
  | (j, e) :: t, k, i => if j ≤ k then (j, e) :: agendaInsert t k i else (k, i) :: (j, e) :: t

/-- Inserts a take-up in front of those of the same clk for higher slots, so that heads go to vacant slots in
ascending core number (R110). -/
def agendaTakeup : List (Nat × Instr) → Nat → Nat → List (Nat × Instr)
  | [], k, n => [(k, .emberTakeup n)]
  | (j, e) :: t, k, n =>
    let after := match e with
      | .emberTakeup m => decide (n < m)
      | _ => false
    if j < k ∨ j = k ∧ !after then (j, e) :: agendaTakeup t k n else (k, .emberTakeup n) :: (j, e) :: t

/-- Posts an event for clk t. Ranks within a clk (log 4): 0 the accounting of the clk before, 1 any event; then come the
issue cycles of the clk, then, in the order in which R203 serves the requesters of a slice, 2 the vector and matrix
units, 3 the copy engines, 4 arrivals at a slice; then 5 deadline expiries, which come after every wake and issue of
their clk (R121, R140), and 6 a park check (R126). -/
def State.postRank (s : State) (t rank : Nat) (i : Instr) : State :=
  { s with agenda := agendaInsert s.agenda (8 * max t s.now + rank) i }
def State.post (s : State) (t : Nat) (i : Instr) : State := s.postRank t 1 i
/-- Events that have waited come before whatever else is due in this clk at their rank. -/
def State.postFront (s : State) (rank : Nat) (l : List Instr) : State :=
  let k := 8 * s.now + rank
  { s with agenda := s.agenda.takeWhile (fun e => decide (e.1 < k)) ++ l.map (fun i => (k, i))
                       ++ s.agenda.dropWhile fun e => decide (e.1 < k) }
def State.postTakeup (s : State) (k : Nat) (t : Nat) : State :=
  { s with agenda := agendaTakeup s.agenda (8 * s.nextIssue k (max t s.now) + 1) k }

/-- A time that the spec leaves open; log 5. -/
def State.openTime (s : State) : Nat × State := (Config.openDelay s.free, { s with free := s.free + 1 })
/-- A value the spec calls for and does not state; log 16. -/
def State.freeWord (s : State) : Word × State := (Config.freeValue s.free, { s with free := s.free + 1 })

/-! Registers (R10, R12, R13). -/

/-- An x-register; x0 reads zero. -/
def Slot.xr (v : Slot) (r : Nat) : Word := if r = 0 then 0 else Tab.get v.x r 0
/-- Writes an x-register; writes to x0 are discarded. -/
def Slot.setX (v : Slot) (r : Nat) (w : Word) : Slot := if r = 0 then v else { v with x := Tab.set v.x r w }
/-- An f-register. -/
def Slot.fr (v : Slot) (r : Nat) : BitVec 32 := Tab.get v.f r 0
/-- Writes an f-register. -/
def Slot.setF (v : Slot) (r : Nat) (w : BitVec 32) : Slot := { v with f := Tab.set v.f r w }
def State.me (s : State) : Slot := s.slot s.cur
def State.x (s : State) (r : Reg) : Word := s.me.xr r.toNat
def State.fp (s : State) (r : Reg) : BitVec 32 := s.me.fr r.toNat
def State.modMe (s : State) (f : Slot → Slot) : State := s.modSlot s.cur f
def State.setX (s : State) (r : Reg) (w : Word) : State := s.modMe (·.setX r.toNat w)
def State.setFp (s : State) (r : Reg) (w : BitVec 32) : State := s.modMe (·.setF r.toNat w)

/-- R12, R146: row r of a slot's window. -/
def State.row (s : State) (k r : Nat) : Row :=
  Tab.get (s.core (slotCore k)).rows (32 * (s.slot k).accWin.toNat + r % 32) 0
def State.setRow (s : State) (k r : Nat) (v : Row) : State :=
  s.modCore (slotCore k) fun c => { c with rows := Tab.set c.rows (32 * (s.slot k).accWin.toNat + r % 32) v }

/-- R269: the gather latch of the window that slot k holds, where it is valid. -/
def State.latch (s : State) (k : Nat) : Option Rows :=
  if (s.slot k).accHeld then Tab.find? (s.core (slotCore k)).latches (s.slot k).accWin.toNat else none
def State.setLatch (s : State) (k : Nat) (l : Rows) : State :=
  s.modCore (slotCore k) fun c => { c with latches := Tab.set c.latches (s.slot k).accWin.toNat l }
/-- R269, R294: the gather latch of slot k's window is not valid. -/
def State.dropLatch (s : State) (k : Nat) : State :=
  s.modCore (slotCore k) fun c => { c with latches := Tab.erase c.latches (s.slot k).accWin.toNat }

/-! Memory and tags (R10, R202 to R205). -/

def memGet (m : List Host.Cell) (a : Nat) : BitVec 8 := Tab.get m a unlistedByte
/-- Writes a byte and keeps the canonical form. -/
def memSet (m : List Host.Cell) (a : Nat) (b : BitVec 8) : List Host.Cell :=
  if b = unlistedByte then Tab.erase m a else Tab.set m a b
/-- The n bytes at a, little-endian (R10). -/
def memRead (m : List Host.Cell) (a : Nat) : Nat → Nat
  | 0 => 0
  | n + 1 => (memGet m a).toNat + 256 * memRead m (a + 1) n
/-- Writes the low n bytes of v at a. -/
def memWrite (m : List Host.Cell) (a : Nat) : Nat → Nat → List Host.Cell
  | 0, _ => m
  | n + 1, v => memWrite (memSet m a (BitVec.ofNat 8 v)) (a + 1) n (v / 256)

def State.read (s : State) (a n : Nat) : Nat := memRead s.mem a n
def State.read64 (s : State) (a : Nat) : Word := BitVec.ofNat 64 (s.read a 8)
/-- R204: the tag of the 8-byte word of a key: bit 3 is F, bits 2 to 0 GEN. -/
def State.tag (s : State) (a : Nat) : BitVec 4 := Tab.get s.tags (a / 8) 0
def State.setTag (s : State) (a : Nat) (t : BitVec 4) : State :=
  { s with tags := if t = 0 then Tab.erase s.tags (a / 8) else Tab.set s.tags (a / 8) t }
/-- The 8-byte words that n bytes at a touch. -/
def wordsOf (a n : Nat) : List Nat := if n = 0 then [] else (List.range ((a + n - 1) / 8 - a / 8 + 1)).map fun i => 8 * (a / 8 + i)
/-- R296: the first key and the size of the protection unit of a key: 8 bytes of a slice, 64 of DRAM. -/
def errUnit (a : Nat) : Nat := if 2 ^ 44 ≤ a then a / 8 * 8 else a / 64 * 64
def errSize (a : Nat) : Nat := if 2 ^ 44 ≤ a then 8 else 64
/-- A write of n bytes at a covers the whole unit of a key. -/
def covers (a n w : Nat) : Bool := decide (a ≤ errUnit w) && decide (errUnit w + errSize w ≤ a + n)
/-- R204: a write other than a versioned store: bytes written, F set in every touched word, GEN kept. A unit written
whole is no longer in error (R296). -/
def State.poke (s : State) (a n v : Nat) : State :=
  (wordsOf a n).foldl (fun t w => t.setTag w (8 ||| t.tag w))
    { s with mem := memWrite s.mem a n v, bad := s.bad.filter (fun w => !covers a n w) }
/-- R204, R220: zeroes n bytes at a, with their tags. -/
def State.zeroRange (s : State) (a n : Nat) : State :=
  { s with mem := s.mem.filter (fun c => c.1 < a || a + n ≤ c.1),
           tags := s.tags.filter (fun c => 8 * c.1 < a || a + n ≤ 8 * c.1) }
/-- R304: after an alarm erasure no access to DRAM succeeds. -/
def State.erased (s : State) (key : Nat) : Bool := decide (key < 2 ^ 44) && s.module.alarm == 2
/-- R296, R304: the first word of a range that reports an uncorrectable error; `bad` holds keys of units. Log 14. -/
def State.badWord (s : State) (a n : Nat) : Option Nat :=
  (wordsOf a n).find? fun w =>
    s.bad.any (fun b => errUnit b == errUnit w) || s.erased w

/-- A field has started (R350). -/
def State.anyStarted (s : State) : Bool := s.fields.any (·.2.started)

/-! Addresses and the page table (R26, R27, R205, R207 to R210). -/

/-- R26: canonical addresses. -/
def translated (a : Word) : Bool := a.extractLsb' 55 9 == 0
def inStore (a : Word) : Bool := a.extractLsb' 52 12 == BitVec.allOnes 12

/-- R27: the storage key of a store-space address, if it names an enabled slice and [34:19] are zero. -/
def State.storeKey (s : State) (a : Word) : Option Nat :=
  let n := a.toNat
  if bits n 19 16 ≠ 0 then none
  else (coreAt (bits n 43 9) (bits n 35 8)).bind fun c =>
    if s.module.boot.enabled c then some (sliceKey c + n % 2 ^ 19) else none

/-- R205: a physical address names storage. -/
def State.hasStorage (s : State) (pa : Nat) : Bool :=
  decide (pa / 2 ^ 38 < 54) && s.module.boot.enabled (flueCore (pa / 2 ^ 38) (pa / 2 ^ 28 % 1024))
    && !(s.module.variant == 1 && decide (2 ^ 27 ≤ pa % 2 ^ 28))

/-- R219: the owner check of a storage unit: its owner, or owner 0's bank read through a leaf with W = 0. -/
def State.ownerOk (s : State) (key : Nat) (owner : BitVec 8) (readOnly : Bool) : Bool :=
  let o := if 2 ^ 44 ≤ key then (s.core (keyCore key)).sliceOwner
    else Tab.get (s.home (keyHome key)).bankOwner (keyBank key) 0
  o == owner || (readOnly && o == 0 && decide (key < 2 ^ 44))

/-- R207: the root of an ASID for an owner; none where the access takes the owner violation. -/
def State.asidRoot (s : State) (asid : Nat) (owner : BitVec 8) : Option Nat :=
  let e := (Tab.get s.asids asid 0).toNat
  if e % 2 = 1 ∧ e / 2 ^ 56 = owner.toNat then some (bits e 13 31 * 2 ^ 13) else none

/-- R220: the part of storage that holds the key is being zeroed. -/
def State.zeroing (s : State) (key : Nat) : Bool :=
  if 2 ^ 44 ≤ key then (s.core (keyCore key)).sliceZero else (s.home (keyHome key)).zeroing.contains (keyBank key)

/-- R303: the storage of the key lies in a fenced field, which answers nothing but what drains from it. -/
def State.fencedKey (s : State) (key : Nat) : Bool := (s.field (coreField (keyCore key))).fenced

/-- R220: a request that reaches storage not yet zeroed waits at the home. -/
def State.holdZero (s : State) (key : Nat) (i : Instr) : State :=
  if 2 ^ 44 ≤ key then s.modCore (keyCore key) fun c => { c with sliceHeld := c.sliceHeld ++ [i] }
  else s.modHome (keyHome key) fun h => { h with zeroHeld := h.zeroHeld ++ [(keyBank key, i)] }

/-- How a walk ends (R210, R220, R299, R303): a leaf, a fault cause, a node that an uncorrectable entry quarantines, or an
entry in a bank that is being zeroed or in a fenced field, which does not answer. -/
inductive WalkEnd where
  | leaf (t : TlbEntry)
  | fault (cause entry : Nat)
  | bad (node : Nat) (level : Nat)
  | busy (entry : Nat)
deriving DecidableEq, Repr

/-- R208 to R210, R299: the walk from a node at a level, by any unit; `fuel` counts the levels left. -/
def State.walkFrom (s : State) (asid : Nat) (va : Word) : Nat → Nat → WalkEnd
  | 0, node => .fault 5 node
  | l + 1, node =>
    let a := node + 8 * (if l = 3 then bits va.toNat 46 9 else bits va.toNat (16 + 10 * l) 10)
    if s.fields.any (·.2.quarantine.contains node) then .bad node l
    else if s.zeroing a ∨ s.fencedKey a then .busy a
    else if (s.badWord a 8).isSome then .bad node l
    else
      let e := s.read64 a
      let n := e.toNat
      if !leafV e then .fault 4 a
      else if n / 2 ^ 44 ≠ 0 ∨ bits n 9 4 ≠ 0 then .fault 5 a
      else if !leafR e && !leafW e && !leafX e then
        if bits n 4 5 ≠ 0 ∨ l = 0 ∨ !s.hasStorage (leafFrame e) then .fault 5 a
        else s.walkFrom asid va l (leafFrame e)
      else
        let big := l = 1
        let frame := leafFrame e
        if 2 ≤ l ∨ leafW e ∧ !leafR e ∨ leafSealed e ∧ leafClass e ≠ 1 then .fault 5 a
        else if frame % (if big then 2 ^ 26 else 2 ^ 16) ≠ 0 then .fault 5 a
        else if leafClass e = 3 ∧ (s.module.peer = false ∨ 65536 ≤ frame / 2 ^ 16) then .fault 5 a
        else if leafClass e ≠ 3 ∧ !s.hasStorage frame then .fault 5 a
        else
          let sz := if big then 2 ^ 26 else 2 ^ 16
          .leaf { asid := asid, page := va.toNat / sz * sz, big := big, leaf := e, at_ := a }

/-- R327: the page of the fabric table. -/
def fabricPage : Nat := 0x007FFFFFFFFF0000

/-- R208: the whole walk under a root. Every address space maps the fabric table (R327); log 54. -/
def State.walk (s : State) (asid root : Nat) (va : Word) : WalkEnd :=
  if va.toNat / 2 ^ 16 * 2 ^ 16 = fabricPage then
    .leaf { asid := asid, page := fabricPage, big := false,
            leaf := BitVec.ofNat 64 (s.module.boot.fabric / 2 ^ 16 * 2 ^ 16 + 0x13), at_ := 0 }
  else s.walkFrom asid va 4 root

/-- R208: the entries that a walk reads, from a node at a level. -/
def State.walkReads (s : State) (va : Word) : Nat → Nat → List Nat
  | 0, _ => []
  | l + 1, node =>
    let a := node + 8 * (if l = 3 then bits va.toNat 46 9 else bits va.toNat (16 + 10 * l) 10)
    let e := s.read64 a
    if s.fields.any (·.2.quarantine.contains node) ∨ s.zeroing a ∨ s.fencedKey a then []
    else if (s.badWord a 8).isSome ∨ !leafV e ∨ leafR e ∨ leafW e ∨ leafX e then [a]
    else a :: s.walkReads va l (leafFrame e)

/-- R207: the owner of an ASID. -/
def State.asidOwner (s : State) (asid : Nat) : BitVec 8 := BitVec.ofNat 8 ((Tab.get s.asids asid 0).toNat / 2 ^ 56)

/-- The owner for whom the hardware acts under an ASID: that of the region with this context, or else of the ASID. -/
def State.contextOwner (s : State) (asid : Nat) : BitVec 8 :=
  (s.regions.findSome? fun p => if p.2.asid.toNat = asid then some p.2.owner else none).getD (s.asidOwner asid)

/-- The storage key of an address under an ASID by a walk of the page table, for the hardware's and the kernel's own
accesses (R103, R192, R311), which no rule checks for permission; the ASID entry is checked (R207), and the owner of the
storage unless owner 0's bank is only read (R219). -/
def State.vaKeyFor (s : State) (read : Bool) (asid : Nat) (va : Word) : Option Nat :=
  let o := s.contextOwner asid
  if inStore va then (s.storeKey va).filter fun key => s.ownerOk key o false && !s.fencedKey key
  else if !translated va then none
  else (s.asidRoot asid o).bind fun root => match s.walk asid root va with
    | .leaf t =>
      if leafClass t.leaf ≠ 3 ∧ s.ownerOk (t.key va) o (read && !leafW t.leaf) ∧ !s.fencedKey (t.key va) then some (t.key va)
      else none
    | _ => none
def State.vaKey (s : State) (asid : Nat) (va : Word) : Option Nat := s.vaKeyFor true asid va

/-! Records of errors and traces (R300, R306), counters (R308). -/

/-- R344: an MSI-X vector fires on a port. -/
def State.msi (s : State) (port v : Nat) : State := s.modModule fun m => { m with msix := m.msix ++ [(port, v)] }

/-- R300: writes an error record to a field's ring, whose oldest record it overwrites once the ring is full, and
forwards it to the host. Log 55. -/
def State.errorRecord (s : State) (f cls action : Nat) (owner : BitVec 8) (asid : BitVec 12) (unit : Word) (ember : Nat)
    (ws : List Word) : State :=
  let r : Record := [BitVec.ofNat 64 (s.counter f),
    BitVec.ofNat 64 (cls * 2 ^ 56 + action * 2 ^ 48 + owner.toNat * 2 ^ 40 + asid.toNat * 2 ^ 28), unit,
    BitVec.ofNat 64 ember] ++ (ws ++ List.replicate 4 0).take 4
  ((s.modField f fun d => { d with
    errors := d.errors.drop (d.errors.length + 1 - d.errCap) ++ [r], errIndex := d.errIndex + 1 }).msi 0 0).msi 1 0

/-- R296: a correctable error of a unit is counted, with at most one record of class corrected in 2^20 clk. -/
def State.corrected (s : State) (f unit : Nat) (name : Word) (ws : List Word) : State :=
  let d := s.field f
  let s := s.modField f fun d => { d with corrections := d.corrections + 1 }
  if (Tab.find? d.corrected unit).any fun t => decide (s.counter f < t + 2 ^ 20) then s
  else (s.modField f fun d => { d with corrected := Tab.set d.corrected unit (s.counter f) }).errorRecord f 1 0 0 0 name 0 ws

/-- R296: an access to n bytes at a corrects the errors in its units. -/
def State.scrub (s : State) (a n : Nat) : State :=
  if s.soft = [] then s
  else
    let hit := s.soft.filter fun w => (wordsOf a n).any fun x => errUnit x == errUnit w
    hit.foldl (fun t w => t.corrected (coreField (keyCore w)) (keyHome w) (coreloc (8 * keyCore w))
      (if 2 ^ 44 ≤ w then [storeAddr (errUnit w), storeAddr (errUnit w) + 7]
       else [0, 0, BitVec.ofNat 64 (errUnit w), BitVec.ofNat 64 (errUnit w + 63)]))
      { s with soft := s.soft.filter fun w => !hit.contains w }

/-- R300 for a slot and its ember. -/
def State.slotRecord (s : State) (k cls action : Nat) (ws : List Word) : State :=
  let v := s.slot k
  s.errorRecord (slotField k) cls action v.owner v.asid (coreloc k) v.ember ws

/-- R306: writes a trace record, or counts it lost while the ring is full; a KIND 3 record precedes the next. -/
def State.traceRecord (s : State) (k kind : Nat) (pc : Word) (w : Word) : State :=
  let f := slotField k
  s.modField f fun d =>
    let head (n : Nat) := BitVec.ofNat 64 (n * 2 ^ 56) ||| coreloc k
    let t := BitVec.ofNat 64 (s.counter f)
    let lost : List Record := if d.traceLost = 0 then [] else [[t, head 3, 0, BitVec.ofNat 64 d.traceLost]]
    if d.trace.length + lost.length < d.traceCap then
      { d with trace := d.trace ++ lost ++ [[t, head kind, pc, w]], traceLost := 0 }
    else { d with traceLost := d.traceLost + 1 }

/-- R306: the filters of the slot's core that the word matches write a trace record of the issue. -/
def State.traceIssue (s : State) (k : Nat) : State :=
  let v := s.slot k
  let w := v.word.setWidth 64
  (s.core (slotCore k)).filters.foldl (fun t e =>
    if e.2.1 ≠ 0 ∧ w &&& e.2.1 = e.2.2 then t.traceRecord k 0 v.pc w else t) s

/-- R308: n occurrences of an event in a core, of one slot or of none, counted by the active set's counters. -/
def State.countIn (s : State) (core : Nat) (slot : Option Nat) (ev n : Nat) : State :=
  s.modCore core fun c =>
    if c.pcrotEn then
      { c with scount := (List.range 8).foldl (fun t i =>
          let j := 8 * c.activeSet + i
          let p := (Tab.get c.psel j 0).toNat
          if p % 256 = ev ∧ ev ≠ 0 ∧ (bits p 8 8 = 0 ∨ slot.any fun k => bits p (8 + slotIdx k) 1 == 1)
          then Tab.set t j (Tab.get t j 0 + BitVec.ofNat 64 n) else t) c.scount }
    else c
def State.count (s : State) (k ev n : Nat) : State := s.countIn (slotCore k) (some k) ev n

/-- R296: the place of accumulator row r of a core, and of entry i of an answer-table slice, in the list of correctable
errors; no storage key is as large. -/
def softRow (core r : Nat) : Nat := 2 ^ 46 + 256 * core + r
def softEntry (cl i : Nat) : Nat := 2 ^ 47 + 8192 * cl + i
/-- R296: an access to one of these corrects an error there. -/
def State.correct (s : State) (f unit name place : Nat) : State :=
  if s.soft.contains place then
    ({ s with soft := s.soft.filter (· != place) }).corrected f unit (coreloc name) []
  else s

/-! Taking an exception and returning from one (R33, R72, R291). -/

/-- R161: a trap at a word of a repeat body: the repeat and the body words before it leave the buffer and the repeat
register, and have had no effect. -/
def Slot.dropRepeat (v : Slot) : Slot :=
  match v.rep with
  | none => v
  | some r =>
    if r.left = 0 then v
    else { v with rep := none, vbuf := v.vbuf.filter (fun e => !e.body), accHeld := v.accHeld && !r.claim }

/-- R299, R300: the virtual range that a node at a level maps, for an address in it, and the node's own 8 KiB. -/
def nodeRange (va : Word) (node level : Nat) : List Word :=
  let span := 2 ^ (26 + 10 * level)
  let first := va.toNat / span * span
  [BitVec.ofNat 64 first, BitVec.ofNat 64 (first + span - 1), BitVec.ofNat 64 node, BitVec.ofNat 64 (node + 8191)]

/-- R300: the virtual and physical range that an uncorrectable error at an address removes: its 8 bytes in a slice, its
64-byte block in DRAM, or, where the walk to it meets a quarantined node, what that node maps and the node. -/
def State.affected (s : State) (k : Nat) (va : Word) : List Word :=
  if va.extractLsb' 52 12 = BitVec.allOnes 12 then [va / 8 * 8, va / 8 * 8 + 7]
  else
    let a := va / 64 * 64
    match s.vaKey (s.slot k).asid.toNat a with
    | some key => [a, a + 63, BitVec.ofNat 64 key, BitVec.ofNat 64 (key + 63)]
    | none => match (s.asidRoot (s.slot k).asid.toNat (s.slot k).owner).map fun root => s.walk (s.slot k).asid.toNat root va with
      | some (.bad node level) => nodeRange va node level
      | _ => [a, a + 63]

/-- R300: an uncorrectable error that a handler other than the resident kernel's takes writes a record; a walk has
written its own (R299), and the kernel's kill writes one (R359). -/
def State.dataRecord (s : State) (k cause : Nat) (val : Word) : State :=
  let v := s.slot k
  if cause ≠ 0x0F ∨ v.trapvec = 0 ∨ v.walk.any (·.cause == 0x0F) then s
  else s.slotRecord k 2 1 (s.affected k val)

/-- R291, R302: a double fault of a slot is reported, after the restart where the field's controller restarts. -/
def State.doubleFault (s : State) (k : Nat) (ws : List Word) : State :=
  if (s.field (slotField k)).frozen then s.modField (slotField k) fun d => { d with faults := d.faults ++ [(k, ws)] }
  else s.slotRecord k 6 0 ws

/-- R33: trap entry of slot k, with `trappc` ← pc. While `tctl`.BUSY = 1 the slot is parked and a double fault is
reported (R291). -/
def State.trapAt (s : State) (k : Nat) (imp : Bool) (cause : Nat) (val : Word) (pc : Word) : State :=
  let v := s.slot k
  if v.busy then
    (s.doubleFault k [v.trappc.setWidth 64, v.trapcause.setWidth 64, BitVec.ofNat 64 cause, v.trapval]).modSlot k
      fun v => { v with mode := .doubleFault, due := none, wait := .parked, lastIssue := some s.now, trapNow := none }
  else
    ((s.dataRecord k cause val).modSlot k fun v => { v.dropRepeat with
      trappc := pc.setWidth 56, trapcause := BitVec.ofNat 9 ((if imp then 256 else 0) + cause), trapval := val,
      pp := v.level, busy := true, level := .supervisor, pc := v.trapvec.signExtend 64,
      due := some (s.nextIssue k (s.now + 1)), wait := .ready, lastIssue := some s.now,
      park := none, walk := none, moved := false, sig := none, trapNow := none, got := none, block := none,
      first := false }).traceRecord k 1 pc
        (BitVec.ofNat 64 cause)

/-- R30, R33: the instruction of the current slot takes a precise trap and changes nothing else. -/
def State.trap (s : State) (cause : Nat) (val : Word) : State := s.trapAt s.cur false cause val s.me.pc

/-- R31: illegal instruction; `trapval` is the instruction word. -/
def State.illegal (s : State) : State := s.trap 0x01 (s.me.word.setWidth 64)

/-- R72: the state after `xret` to `trappc`. -/
def Slot.returned (v : Slot) : Slot := { v with level := v.pp, busy := false, pc := v.trappc.signExtend 64 }

/-! Signature blocks (R75, R76). -/

/-- R75: the IDs of the fields dst, src3, src1, src2 of a word, by the register files that R36 fixes. -/
def sigIds (w : Code) : Nat × Nat × Nat × Nat :=
  let n := w.toNat
  let rd := bits n 7 5; let f3 := bits n 12 3; let a := bits n 15 5; let b := bits n 20 5; let f7 := bits n 25 7
  let c := bits n 27 5
  let xs := (rd, 0, a, b)
  match n % 128 with
  | 0x37 | 0x17 | 0x6F => (rd, 0, 0, 0)
  | 0x67 | 0x03 | 0x13 | 0x1B => (rd, 0, a, 0)
  | 0x63 | 0x23 => (0, 0, a, b)
  | 0x33 | 0x3B => xs
  | 0x07 => (32 + rd, 0, a, 0)
  | 0x27 => (0, 0, a, 32 + b)
  | 0x43 | 0x47 | 0x4B | 0x4F => (32 + rd, 32 + c, 32 + a, 32 + b)
  | 0x53 => match f7 with
    | 0x2C => (32 + rd, 0, 32 + a, 0)
    | 0x50 => (rd, 0, 32 + a, 32 + b)
    | 0x60 | 0x70 => (rd, 0, 32 + a, 0)
    | 0x68 | 0x78 => (32 + rd, 0, a, 0)
    | _ => (32 + rd, 0, 32 + a, 32 + b)
  | 0x73 => if f3 = 0 then (0, 0, 0, 0) else if f3 < 4 then (rd, 0, a, 0) else (rd, 0, 0, 0)
  | 0x0B => match f3 with
    | 0 => if f7 = 0 then xs else (0, 0, 0, 0)
    | 1 => match f7 with
      | 1 => (0, 0, a, 64 + b)
      | 3 => (64 + rd, 0, a, 0)
      | _ => xs
    | 2 | 4 => xs
    | 3 => if f7 = 0 ∨ f7 = 3 then (rd, 0, a, 0) else xs
    | _ => (0, 0, 0, 0)
  | 0x2B => match f3 with
    | 0 | 2 => (rd, 0, a, 0)
    | 1 => (0, 0, a, b)
    | 3 => xs
    | 4 => if f7 / 8 = 1 then (rd, 0, a, 64 + b) else xs
    | 6 => match f7 with
      | 0 => (64 + rd, 0, a, 0)
      | 1 => (0, 0, a, 64 + b)
      | _ => (64 + rd, 0, a, 64 + b)
    | _ => (0, 0, 0, 0)
  | 0x5B =>
    let cmp := decide (0x10 ≤ f7 ∧ f7 ≤ 0x13)
    let d := if cmp then 0 else 64 + rd
    let s1 := if f7 = 0x1A then 0 else 64 + a
    match f3 with
    | 0 => (d, 0, s1, 64 + b)
    | 1 => (d, 0, s1, b)
    | 2 => (d, 0, s1, 32 + b)
    | 3 => (d, 0, s1, 0)
    | 4 => (64 + rd, 0, 64 + a, 0)
    | 5 => (if f7 / 64 = 1 then 32 + rd else rd, 0, 64 + a, if f7 % 64 = 3 then b else 0)
    | 6 => (0, 0, a, 0)
    | _ => if f7 = 0 then (0, 0, 64 + a, b) else (64 + rd, 0, 0, b)
  | 0x7B => match f3 with
    | 0 => (0, 32 + c, a, b)
    | 1 => (0, 32 + c, 0, b)
    | 2 => if f7 = 0 then (0, 0, a, 64 + b) else if f7 = 1 then (0, 0, a, 0) else (0, 0, 0, 0)
    | _ => xs
  | _ => (0, 0, 0, 0)

/-- R75: one step of the signature. -/
def sigStep (s : Nat) (w : Code) : Nat :=
  let (d, c, a, b) := sigIds w
  let t := (d * 512 ^^^ c * 4096 ^^^ a * 16 ^^^ b) % 65536
  ((s * 2 ||| s / 32768) % 65536) ^^^ t

/-- R288: `trapval` of a signature mismatch. -/
def SigBlock.value (g : SigBlock) : Word :=
  BitVec.ofNat 64 ((if g.br then 2 ^ 40 else 0) + g.len * 2 ^ 32 + g.sig * 2 ^ 16 + g.s)

/-- R76: a mismatch kills the slot at its next issue cycle, or is a precise trap there. -/
def State.sigMismatch (s : State) (k : Nat) (g : SigBlock) : State :=
  if (s.core (slotCore k)).sigKill then
    let t := if (s.slot k).lastIssue = some s.now then s.now + 1 else s.now
    (s.modSlot k fun v => { v with sig := none, killReq := some 5, got := some g.value }).post (s.nextIssue k t) (.slotKill k)
  else s.modSlot k fun v => { v with sig := none, trapNow := some (0x0D, g.value) }

/-- R75, R76: the block of slot v, if its last counted instruction is the `exit` that is about to complete and the
signature differs. -/
def Slot.badAtExit (v : Slot) : Option SigBlock :=
  v.sig.bind fun g =>
    let g' := { g with s := sigStep g.s v.word, count := g.count + 1 }
    if g'.count = g.len ∧ (g'.s ≠ g.sig ∨ g'.br) then some g' else none

/-- Conditional branches are the words of opcode 0x63 (R37). -/
def isBranch (w : Code) : Bool := w.toNat % 128 == 0x63

/-- R75, R76: the checker counts a completed instruction. Where rule 2 makes the block a mismatch, the model finds it
at that instruction, with S over the instructions counted so far: R76 gives no time. DESIGN CHOICE, log 56. -/
def State.sigCount (s : State) (k : Nat) (old new : Word) : State :=
  let v := s.slot k
  match v.sig with
  | none => s
  | some g =>
    let g' := { g with s := sigStep g.s v.word, count := g.count + 1, br := g.br || (v.shadow && isBranch v.word) }
    let s := s.modSlot k fun v => { v with sig := some g', shadow := v.shadow && !isBranch v.word }
    if g'.count < g.len then if new = old + 4 then s else s.sigMismatch k g'
    else if g'.s = g.sig ∧ !g'.br then s.modSlot k fun v => { v with sig := none }
    else s.sigMismatch k g'

/-! Completing, waiting and requesting (R30, R101, R102). -/

/-- R102, R306, R308: an instruction of slot k issues now, unless it issued when it sent for its block. -/
def State.issued (s : State) (k : Nat) : State :=
  if (s.slot k).block.isSome then s
  else ((s.modSlot k fun v => { v with lastIssue := some s.now }).traceIssue k).count k 1 1

/-- The instruction of slot k is complete: the next one is at pc and issues from clk t on. -/
def State.completeAt (s : State) (k : Nat) (pc : Word) (t : Nat) : State :=
  let old := (s.slot k).pc
  (s.modSlot k fun v => { v with
    pc := pc, due := some (s.nextIssue k t), wait := .ready, park := none, walk := none, moved := false,
    got := none, block := none, first := false, bpSkip := if v.level = .user then none else v.bpSkip }).sigCount k old pc

/-- A reply completes the instruction of slot k, which issued earlier; the next one is at PC + 4. -/
def State.complete (s : State) (k : Nat) : State := s.completeAt k ((s.slot k).pc + 4) s.now

/-- The instruction of the current slot issues and completes, with the PC at `pc`. -/
def State.jump (s : State) (pc : Word) : State := (s.issued s.cur).completeAt s.cur pc (s.now + 1)

/-- The instruction of the current slot issues and completes, with the PC at PC + 4. -/
def State.retire (s : State) : State := s.jump (s.me.pc + 4)

/-- R101, R102: the instruction is not ready; the slot tries again at its next issue cycle. Log 9. -/
def State.notReady (s : State) (w : Wait) : State :=
  s.modMe fun v => { v with wait := w, due := some (s.nextIssue s.cur (s.now + 1)) }

/-- R60, R133, R235, R286: a wait that is the instruction's own operation: it issues at its first cycle and holds the slot
(`block` = some []). A report that arrives before the wait is over is taken first. Log 9. -/
def State.holdUntil (s : State) (ready : Bool) (next : State → State) : State :=
  if ready then next s
  else ((s.issued s.cur).modMe fun v => { v with block := if v.imp.isSome ∨ v.pend ≠ [] then none else some [] }).notReady .memory

/-- Completes as `retire` does; after a wait the next instruction may issue in this cycle. -/
def State.retireHeld (s : State) : State :=
  if s.me.block = some [] then s.completeAt s.cur (s.me.pc + 4) s.now else s.retire

/-- The instruction has issued and waits for an event. -/
def State.await (s : State) (w : Wait) : State := s.modMe fun v => { v with wait := w, due := none }

/-- Slot k issues again, from clk t on. -/
def State.wakeAt (s : State) (k t : Nat) : State :=
  s.modSlot k fun v => if v.mode = .active then { v with due := some (s.nextIssue k t), wait := .ready }
    else { v with wait := .ready }

/-- A reply brought a precise trap: slot k takes it at its next issue cycle. -/
def State.trapLater (s : State) (k cause : Nat) (val : Word) : State :=
  (s.modSlot k fun v => { v with trapNow := some (cause, val) }).wakeAt k s.now

/-! Packets (R315 to R319, R326). -/

/-- R325: crossing into a halved field takes 24 clk, else 12. -/
def State.crossings (s : State) (f : Nat) : List (Nat × Nat) → Nat
  | [] => 0
  | (x, y) :: ps =>
    let g := coreField ((coreAt x y).getD 0)
    (if g = f then 0 else if (s.field g).half then 24 else 12) + s.crossings g ps

/-- R326, R353: the time of a path of routers entered, from a core; a hop takes two cycles of the field it enters. -/
def State.pathTime (s : State) (src : Nat) (p : List (Nat × Nat)) : Nat :=
  s.clk (coreField src) 4 + (p.map fun q => s.clk (coreField ((coreAt q.1 q.2).getD 0)) 2).sum + s.crossings (coreField src) p

/-- R317, R326: the time of the default route between two cores; none where the packet must be relayed. -/
def State.travel (s : State) (src dst : Nat) : Option Nat :=
  if src = dst then some (s.clk (coreField src) 4) else (route s.module.boot src dst).map (s.pathTime src)

def State.newId (s : State) : Nat × State := (s.nextId, { s with nextId := s.nextId + 1 })

/-- The time of a packet between two cores, over the relay where it must (R319). -/
def State.pathClk (s : State) (src dst : Nat) : Nat :=
  match s.travel src dst with
  | some d => d
  | none =>
    let g := s.module.boot.relayOf src
    (s.travel src g).getD 0 + s.clk (coreField g) 20 + (s.travel g dst).getD 0

/-- Replies and acknowledgements, which drain from a fenced field (R303). -/
def isReply : Instr → Bool
  | .loadReply _ | .acknowledgement _ | .versionedReply _ => true
  | _ => false

/-- R303: a fenced field's ports refuse the packet. -/
def State.refused (s : State) (src dst : Nat) (i : Instr) : Bool :=
  s.fields.any (·.2.fenced) && !isReply i &&
    ((s.field (coreField src)).fenced || (s.field (coreField dst)).fenced ||
      ((route s.module.boot src dst).getD []).any fun p => (coreAt p.1 p.2).any fun c => (s.field (coreField c)).fenced)

/-- The flight whose arrival at a home an event is, of the requests of slots for storage. -/
def storageRequest : Instr → Option Nat
  | .farLoadAtHome id | .farStoreAtHome id | .atomicAtHome id | .versionedLoadAtHome id | .versionedStoreAtHome id
  | .vrclAtHome id => some id
  | _ => none

/-- R203: an access that arrives at a slice is served after the other requesters of its clk. -/
def State.arrivalRank (s : State) (i : Instr) : Nat :=
  match (storageRequest i).bind (Tab.find? s.flights) with
  | some f => if 2 ^ 44 ≤ f.key then 4 else 1
  | none => 1

/-- Sends the packet of flight id from src to dst at clk t: its arrival is posted, or the relay's acceptance (R319). -/
def State.carry (s : State) (id src dst t : Nat) (i : Instr) : State :=
  if s.refused src dst i then s
  else match s.travel src dst with
  | some d => s.postRank (t + d) (s.arrivalRank i) i
  | none =>
    let s := match Tab.find? s.flights id with
      | some f => { s with flights := Tab.set s.flights id { f with relayTo := dst } }
      | none => s
    s.post (t + (s.travel src (s.module.boot.relayOf src)).getD 0) (.relayAccept id)

/-- R223, R353: what a bucket gains in one clk, of a token of 512 parts; the clock of a halved field ticks every other clk. -/
def Bucket.gain (b : Bucket) (half : Bool) : Nat := b.rate.toNat * if half then 1 else 2
/-- R223: a bucket filled up to clk t. Log 17. -/
def Bucket.fill (b : Bucket) (half : Bool) (t : Nat) : Bucket :=
  { b with credit := min (b.credit + b.gain half * (t - b.filled)) (512 * (b.burst.toNat + 1)), filled := t }
/-- R223: the clk until a bucket holds a token. -/
def Bucket.clks (b : Bucket) (half : Bool) : Nat :=
  if b.rate = 0 ∨ 512 ≤ b.credit then 0 else (512 - b.credit + b.gain half - 1) / b.gain half
/-- R223: the bucket of a core, and that of a cluster's copy engine, up to now. -/
def State.meterNow (s : State) (core : Nat) : Bucket := (s.core core).meter.fill (s.field (coreField core)).half s.now
def State.engMeterNow (s : State) (cl : Nat) : Bucket := (s.cluster cl).engMeter.fill (s.field (clusterField cl)).half s.now

/-- R315, R326: the flits behind the first one of a packet that carries n bytes. -/
def extraFlits (n : Nat) : Nat := if n ≤ 8 then 0 else (n + 63) / 64

/-- The flits behind the first one of a request: those of the bytes that a store or a message carries. -/
def Flight.flits (f : Flight) : Nat :=
  match f.next with
  | .messageArrival _ | .farStoreAtHome _ => extraFlits f.size
  | _ => 0

/-- The packet leaves its source at clk t, on its static route if it has one (R324). It has arrived with its last flit
(R326). -/
def State.leave (s : State) (id t : Nat) (f : Flight) : State :=
  let t := t + s.clk (coreField f.src) f.flits
  match f.via with
  | some d => if s.refused f.src f.dst f.next then s else s.postRank (t + d) (s.arrivalRank f.next) f.next
  | none => s.carry id f.src f.dst t f.next

/-- R246: the requests of one slot leave in order, flit behind flit. -/
def State.leaveInOrder (s : State) (id t : Nat) (f : Flight) : State :=
  let t := max t (s.slot f.slot).inject
  (s.modSlot f.slot fun v => { v with inject := t + s.clk (coreField f.src) (f.flits + 1) }).leave id t f

/-- R173, R223: the requests for which a flight stands: a far `vrest` sends 32 row loads. -/
def Flight.tokens (f : Flight) : Nat := if f.size = 4096 then 32 else 1

/-- A request of a slot leaves at clk t, or, into the mesh, waits for the tokens of its core's bucket that it still needs,
for each of which it stands once in the bucket's list (R223). -/
def State.depart (s : State) (id t : Nat) (metered : Bool) (f : Flight) : State :=
  let b := s.meterNow f.src
  let paid := if b.waiting = [] then min f.tokens (b.credit / 512) else 0
  let b := { b with credit := b.credit - 512 * paid }
  if metered = false then s.leave id t f
  else if b.rate = 0 ∨ f.dst = f.src then s.leaveInOrder id t f
  else if paid = f.tokens then (s.modCore f.src fun c => { c with meter := b }).leaveInOrder id t f
  else
    let s := s.modCore f.src fun c => { c with meter := { b with waiting := b.waiting ++ List.replicate (f.tokens - paid) id } }
    if b.waiting = [] then s.post (s.now + b.clks (s.field (coreField f.src)).half) (.meterAdmit f.src) else s

/-- A new flight. -/
def State.register (s : State) (mk : Nat → Instr) (f : Flight) : Nat × State :=
  let (id, s) := s.newId
  (id, { s with flights := Tab.set s.flights id { f with next := mk id } })

/-- A metered request that leaves its core once the listed flights of its ember are done (R142, R246). -/
def State.requestAfter (s : State) (waits : List Nat) (mk : Nat → Instr) (f : Flight) : Nat × State :=
  let (id, s) := s.register mk f
  if waits = [] then (id, s.depart id s.now true { f with next := mk id })
  else (id, s.modCore f.src fun c => { c with held := c.held ++ [(id, waits)] })

/-- A new packet under way from its source. -/
def State.sendAt (s : State) (t : Nat) (metered : Bool) (mk : Nat → Instr) (f : Flight) : Nat × State :=
  let (id, s) := s.register mk f
  (id, s.depart id t metered { f with next := mk id })

/-- A metered request of the current slot, sent now. -/
def State.request (s : State) (mk : Nat → Instr) (f : Flight) : Nat × State := s.sendAt s.now true mk f
/-- A reply or other unmetered packet, sent at clk t. -/
def State.sendFree (s : State) (t : Nat) (mk : Nat → Instr) (f : Flight) : State := (s.sendAt t false mk f).2

/-- The flight is over. -/
def State.land (s : State) (id : Nat) : State := { s with flights := Tab.erase s.flights id }
def State.flight? (s : State) (id : Nat) : Option Flight := Tab.find? s.flights id

/-- R326: the time in which the home of a key answers, with the bank's open row moved. -/
def State.service (s : State) (key : Nat) : Nat × State :=
  let f := coreField (keyCore key)
  if 2 ^ 44 ≤ key then (s.clk f 4, s)
  else
    let h := keyHome key
    let row := key / 2048
    let t := match Tab.find? (s.home h).openRow (keyBank key) with
      | none => 65
      | some r => if r = row then 40 else 90
    (s.clk f t, s.modHome h fun v => { v with openRow := Tab.set v.openRow (keyBank key) row })

/-- R326: an access leaves its row open. -/
def State.openRow (s : State) (key : Nat) : State := (s.service key).2

/-- R296, R326: what a walk's reads leave: rows open, and errors corrected. -/
def State.walked (s : State) (root : Nat) (va : Word) : State :=
  if va.toNat / 2 ^ 16 * 2 ^ 16 = fabricPage then s
  else (s.walkReads va 4 root).foldl (fun t a => (t.openRow a).scrub a 8) s

/-! Outstanding counts (R285). -/

/-- A request counts by itself, unless it is the twin of one that is out. -/
def Slot.counted (v : Slot) (o : Pending) : Bool := !o.twin.any fun t => v.outs.any (·.id == t)
def Slot.loads (v : Slot) : Nat := (v.outs.filter fun o => !o.store && v.counted o).length
def Slot.stores (v : Slot) : Nat := (v.outs.filter fun o => o.store && v.counted o).length
/-- The request of flight id is outstanding. -/
def State.addOut (s : State) (k : Nat) (o : Pending) : State := s.modSlot k fun v => { v with outs := v.outs ++ [o] }
def State.dropOut (s : State) (k id : Nat) : State :=
  s.modSlot k fun v => { v with outs := v.outs.filter (fun o => o.id != id) }

/-- R108: the ember of the slot is bound. -/
def Slot.bound (v : Slot) : Bool := v.accHeld || decide (v.copies ≠ 0) || decide (v.tiles ≠ 0)

/-- Continues once no store or message of the slot is unacknowledged (R72 and others: not ready on memory). -/
def State.afterStores (s : State) (next : State → State) : State :=
  if s.me.stores = 0 then next s else s.notReady .memory

/-- R150: the ember has row accesses in the sequence buffer. -/
def Slot.rowsQueued (v : Slot) : Bool :=
  v.vbuf.any fun e => e.op == .lr || e.op == .sr || e.op == .lrg || e.op == .qnt || e.op == .dqnt

/-- R248: a release waits until every earlier row access has left the buffer, every earlier load has returned and every
store and message is acknowledged. -/
def State.release (s : State) (next : State → State) : State :=
  if !s.me.rowsQueued && s.me.outs.isEmpty then next s else s.notReady .memory

/-- R25: an instruction that supervisor level may not execute. -/
def State.userOnly (s : State) (next : State → State) : State := if s.me.level = .supervisor then s.illegal else next s
/-- R25: an instruction of supervisor level. -/
def State.supervisorOnly (s : State) (next : State → State) : State := if s.me.level = .user then s.illegal else next s

/-- R14: flags accrue in `fcsr` of slot k. -/
def State.accrue (s : State) (k : Nat) (fl : BitVec 5) : State := s.modSlot k fun v => { v with fflags := v.fflags ||| fl }

end Sys2Proof.Machine
end

