-- ==== Sys2Proof/Machine/Operands.lean ====
section
/-! DEFINITION. The operand forms of the vector and matrix units: lanes of a row (R147), masks (R148), the four forms of
an operand (R45), algebra tables (R263), operand descriptors and planes (R87, R167, R260, R261). -/

namespace Sys2Proof.Machine

/-! Lanes (R147). -/

/-- R147: bytes of a lane, and lanes of a row, of an element type; 6 and 7 are reserved. -/
def etW (et : Nat) : Nat := [4, 2, 2, 4, 2, 1].getD et 1
def etL (et : Nat) : Nat := 128 / etW et
/-- R147: the floating-point format of an element type. -/
def etFmt (et : Nat) : Option Fmt := if et = 0 then some fp32 else if et = 1 then some bf16 else if et = 2 then some fp16 else none

/-- Lane i of width w of a row. -/
def laneAt (r : Row) (w i : Nat) : Nat := bits r.toNat (8 * w * i) (8 * w)
/-- The row with the given lanes of width w. -/
def rowOf (w : Nat) (l : List Nat) : Row := BitVec.ofNat 1024 (l.foldr (fun v a => v % 2 ^ (8 * w) + 2 ^ (8 * w) * a) 0)
def lanes (r : Row) (w : Nat) : List Nat := (List.range (128 / w)).map (laneAt r w)
/-- A lane as a signed integer. -/
def laneInt (w v : Nat) : Int := (BitVec.ofNat (8 * w) v).toInt

/-! The mask (R148). -/

/-- R148: lane i is enabled. -/
def Slot.enabled (v : Slot) (i : Nat) : Bool := if i < 64 then v.vmk.getLsbD i else v.vmkh.getLsbD (i - 64)
/-- The row with lane i replaced by `f i` where it is enabled. -/
def Slot.merge (v : Slot) (old : Row) (w : Nat) (f : Nat → Nat) : Row :=
  rowOf w ((List.range (128 / w)).map fun i => if v.enabled i then f i else laneAt old w i)

/-! Fields of `vtype` (R20) captured by an entry. -/
def VEntry.et (e : VEntry) : Nat := e.vtype % 8
def VEntry.dv (e : VEntry) : Nat := 2 ^ bits e.vtype 3 2
def VEntry.aslot (e : VEntry) : Nat := bits e.vtype 5 3
def VEntry.sat (e : VEntry) : Bool := bits e.vtype 8 1 == 1
/-- R70: the captured rounding mode; RNE stands for the invalid ones, with which no word that rounds issues (R152). -/
def VEntry.rm (e : VEntry) : Rm := (rmOf e.frm).getD .rne

/-! The second operand (R45, the introduction to R153). -/

/-- The bit pattern of lane i of operand b on integer lanes and in the logic group; shifts take the constant of the .vi
form unsigned. -/
def VEntry.bLane (e : VEntry) (row2 : Row) (shift : Bool) (w i : Nat) : Nat :=
  match e.form with
  | .vv => laneAt row2 w i
  | .vi => if shift then e.b.toNat % 32 else ((e.b.setWidth 5).signExtend 64).toNat % 2 ^ (8 * w)
  | _ => e.b.toNat % 2 ^ (8 * w)

/-- The value of lane i of operand b on FP lanes: a lane of the row, or F[rs2] unconverted. -/
def VEntry.bNum (e : VEntry) (row2 : Row) (f : Fmt) (w i : Nat) : Num :=
  match e.form with
  | .vf => unpack fp32 (e.b.toNat % 2 ^ 32)
  | _ => unpack f (laneAt row2 w i)

/-- R77: an exact integer delivered to width w, wrapped or saturated. -/
def deliver (sat : Bool) (w : Nat) (v : Int) : Nat :=
  let lim : Int := 2 ^ (8 * w - 1)
  let v := if sat then (if v < -lim then -lim else if lim - 1 < v then lim - 1 else v) else v
  (BitVec.ofInt (8 * w) v).toNat

/-! Structure-constant tables (R263). -/

/-- An entry of a table: output component, sign, exponent. -/
structure Coef where
  k   : Nat
  neg : Bool
  sh  : Int
deriving DecidableEq, Repr

/-- R263: the image of a table slot; slot 0 is real multiplication. -/
def Cluster.table (c : Cluster) (slot : Nat) : Row := if slot = 0 then BitVec.ofNat 1024 (0x80 * 2 ^ 64) else Tab.get c.tables slot 0

def tableByte (t : Row) (i : Nat) : Nat := bits t.toNat (8 * i) 8
/-- R263: d of a table. -/
def tableD (t : Row) : Nat := 2 ^ (tableByte t 0 % 4)
/-- R263: entry (p, q), if it is valid. -/
def tableCoef (t : Row) (p q : Nat) : Option Coef :=
  let b := tableByte t (8 + 8 * p + q)
  if b < 128 ∨ tableD t ≤ p ∨ tableD t ≤ q then none
  else some ⟨bits b 4 3, bits b 3 1 == 1, (BitVec.ofNat 3 b).toInt⟩
/-- R263: s_p is −1. -/
def tableConj (t : Row) (p : Nat) : Bool := decide (p < tableD t) && bits (tableByte t 72) p 1 == 1

/-- R263: an image is valid. -/
def tableOk (t : Row) : Bool :=
  let d := tableD t
  decide (tableByte t 0 < 4) && (List.range 7).all (fun i => tableByte t (1 + i) == 0)
    && (List.range 64).all (fun i =>
      let b := tableByte t (8 + i)
      if d ≤ i / 8 ∨ d ≤ i % 8 then b == 0 else decide (b < 128) || (decide (bits b 4 3 < d) && b % 8 != 4))
    && decide (tableByte t 72 < 2 ^ d) && (List.range 55).all (fun i => tableByte t (73 + i) == 0)

/-- c · v. -/
def Coef.apply (c : Coef) (v : Num) : Num :=
  match v with
  | .fin n m e => .fin (n != c.neg) m (e + c.sh)
  | v => if c.neg then v.neg else v

/-! Planes in the cluster store (R87, R167). -/

/-- R167: the core that a cluster-store address names, as a core of cluster cl. -/
def planeCore (cl a : Nat) : Nat := 8 * cl + bits a 19 3
/-- The storage key of byte `off` of the slice that a cluster-store address names. -/
def planeKey (cl a off : Nat) : Nat := sliceKey (planeCore cl a) + off

/-- R87: element i of a block of m-bit mantissas that starts at a bit of a little-endian integer. -/
def mantissa (v m i : Nat) : Int := (BitVec.ofNat m (v / 2 ^ (m * i))).toInt
/-- R87: 32 mantissas as 4m bytes. -/
def packBlock (m : Nat) (l : List Int) : Nat :=
  l.foldr (fun v a => (BitVec.ofInt m v).toNat + 2 ^ m * a) 0

/-! Operand descriptors (R260). -/

/-- R260. -/
structure Desc where
  n      : Nat
  conj   : Bool
  gather : Bool
  dir    : Bool
  m      : Nat
  stride : Nat
  eoff   : Nat
  a      : Nat
  zero   : Bool
deriving DecidableEq, Repr

def descOf (d : Word) : Desc :=
  let v := d.toNat
  { n := bits v 59 3 + 1, conj := bits v 58 1 == 1, gather := bits v 57 1 == 1, dir := bits v 56 1 == 1, m := bits v 52 4 + 1,
    stride := bits v 40 12, eoff := bits v 24 16, a := v % 2 ^ 24, zero := v / 2 ^ 62 == 0 }

/-- R261: slice offsets of the first mantissa byte and of the bytes of storage row q. -/
def Desc.rowAt (d : Desc) (q : Nat) : Nat := d.a % 2 ^ 19 + 32 * d.stride * q
/-- R261: bytes of a storage row, and the number of storage rows of R operand rows. -/
def Desc.rowBytes (d : Desc) (r : Nat) : Nat := if d.dir then (r * d.m + 7) / 8 else 4 * d.m * d.n
def Desc.rowCount (d : Desc) (r : Nat) : Nat := if d.dir then 32 * d.n else r
/-- R261: slice offset of the exponents of operand row ρ. -/
def Desc.expAt (d : Desc) (r : Nat) : Nat := d.a % 2 ^ 19 + 64 * d.eoff + 8 * r

/-- The byte ranges (offset, length) that an operand of R rows reads. -/
def Desc.ranges (d : Desc) (r : Nat) : List (Nat × Nat) :=
  (List.range (d.rowCount r)).map (fun q => (d.rowAt q, d.rowBytes r)) ++ (List.range r).map fun p => (d.expAt p, d.n)

/-- R262: the offset of the first byte outside the slice, in the order of the ranges. -/
def firstOutside : List (Nat × Nat) → Option Nat
  | [] => none
  | (a, n) :: l => if a + n ≤ 2 ^ 19 then firstOutside l else some (max a (2 ^ 19))

end Sys2Proof.Machine
end

