-- ==== Sys2Proof/Machine/Translate.lean ====
section
/-! DEFINITION. Translation: the permissions of leaves (R211), the translation caches (R212 to R214), and the checks of
an access in the order of R32. -/

namespace Sys2Proof.Machine

/-- The kinds of access whose permissions and page classes differ (R211, R224). -/
inductive Acc where
  | load | fetch | store | versionedLoad | versionedStore | both | append | seal | roam
deriving DecidableEq, Repr

/-- What the checks of an access find. -/
inductive Xlat where
  | ok (key : Nat) (t : Option TlbEntry)
  | trap (cause : Nat) (val : Word)
  | miss
deriving DecidableEq, Repr

/-- R211, R224: the checks of a leaf, in the order of R32: U, permission, peer page, store to a sealable page. -/
def leafCheck (acc : Acc) (user : Bool) (e : Word) : Option Nat :=
  let r := leafR e; let w := leafW e; let c := leafClass e
  if user && !leafU e then some 5
  else if !(match acc with
      | .load | .versionedLoad | .roam => r
      | .fetch => leafX e
      | .store | .versionedStore | .append | .seal => w
      | .both => r && w) then some 5
  else if c = 3 then some 7
  else match acc with
    | .store | .versionedStore | .both => if c = 1 then some 8 else none
    | .append | .seal => if c = 1 then none else some 5
    | _ => none

/-- R346: whether the index of a peer-remote leaf is one of the 65,536 of the peer map, the place of the entry that it names,
and whether that is valid. -/
def peerListed (leaf : Word) : Bool := decide (leafFrame leaf / 2 ^ 16 < 65536)
def State.peerEntry (s : State) (leaf : Word) : Nat :=
  (s.module.pmap.toNat % 2 ^ 44) / 16 * 16 + 16 * (leafFrame leaf / 2 ^ 16)
def State.peerValid (s : State) (leaf : Word) : Bool := peerListed leaf && (s.read64 (s.peerEntry leaf)).getLsbD 63

/-- R211, R346: the checks of a leaf; a peer-remote one whose peer-map entry is not valid is a page fault, and one whose entry
cannot be read an uncorrectable error (R296, R304). -/
def State.leafFault (s : State) (acc : Acc) (user : Bool) (e : Word) : Option Nat :=
  match leafCheck acc user e with
  | some 7 => some (if peerListed e && (s.badWord (s.peerEntry e) 16).isSome then 0x0F else if s.peerValid e then 7 else 5)
  | c => c

/-- R32, steps 7 to 15, for an access of slot k of the given size: canonical, aligned, store space, ASID entry, page
fault, peer page, sealable page. -/
def State.access (s : State) (k : Nat) (acc : Acc) (va : Word) (size : Nat) : Xlat :=
  let v := s.slot k
  if !translated va && !inStore va then .trap 0x14 va
  else if va.toNat % size ≠ 0 then .trap 0x03 va
  else if inStore va then
    match acc with
    | .fetch => .trap 0x05 va
    | _ => match s.storeKey va with
      | none => .trap 0x13 va
      | some key => if acc = .append ∨ acc = .seal then .trap 0x05 va else .ok key none
  else match s.asidRoot v.asid.toNat v.owner with
    | none => .trap 0x10 va
    | some _ =>
      let judge (t : TlbEntry) : Xlat :=
        match s.leafFault acc (v.level == .user) t.leaf with
        | some c => .trap c va
        | none => .ok (t.key va) (some t)
      match (s.core (slotCore k)).tlb.find? (fun t => t.hits v.asid.toNat va && !t.bad) with
      | some t => judge t
      | none => match v.walk with
        | some a =>
          match a.entry with
          | some t => if t.hits v.asid.toNat va then judge t else .miss
          | none => if a.asid = v.asid.toNat ∧ a.va.toNat / 2 ^ 16 = va.toNat / 2 ^ 16 then .trap a.cause va else .miss
        | none => .miss

/-- R213: least-recently-used order of the L1 TLB. -/
def State.touch (s : State) (k : Nat) (t : Option TlbEntry) : State :=
  match t with
  | none => s
  | some t => s.modCore (slotCore k) fun c =>
      if c.tlb.contains t then { c with tlb := t :: c.tlb.filter (· != t) } else c

/-- R296: a lookup that meets a parity error in a cache discards the entry, recorded as corrected: in the L1 of a slot's
core or the cache of the cluster's engine, in the L2 and in the last level. -/
def State.discardBad (s : State) (engine : Bool) (k : Nat) (asid : Nat) (va : Word) : State :=
  let bad (t : TlbEntry) : Bool := t.bad && t.hits asid va
  let c := slotCore k
  let cl := coreCluster c
  let note (s : State) (n : Nat) : State := s.corrected (coreField c) n (coreloc k) [va]
  let s := if engine then
      if (s.cluster cl).engTlb.any bad then
        note (s.modCluster cl fun v => { v with engTlb := v.engTlb.filter (!bad ·) }) (5 * nCores + cl) else s
    else if (s.core c).tlb.any bad then
      note (s.modCore c fun v => { v with tlb := v.tlb.filter (!bad ·) }) (2 * nCores + c) else s
  let s := if (s.cluster cl).l2.any bad then
      note (s.modCluster cl fun v => { v with l2 := v.l2.filter (!bad ·) }) (3 * nCores + cl) else s
  if (s.field (coreField c)).llTlb.any bad then
    note (s.modField (coreField c) fun v => { v with llTlb := v.llTlb.filter (!bad ·) }) (4 * nCores) else s

/-- R213: a lookup misses the L1: the slot waits, not ready on memory, for the L2 (8 clk), the last level or the walk. -/
def State.lookup (s : State) (va : Word) : State :=
  let k := s.cur
  let v := s.me
  let s := ((s.count k 11 1).discardBad false k v.asid.toNat va).modSlot k fun v => { v with walking := some va }
  if (s.cluster (slotCluster k)).l2.any (·.hits v.asid.toNat va) then
    (s.await .memory).post (s.now + s.clk (slotField k) 8) (.pageWalk k va)
  else
    let (d, s) := (s.count k 12 1).openTime
    (s.await .memory).post (s.now + 1 + d) (.pageWalk k va)

/-- An access of the current slot: its trap, its lookup, or its continuation with the storage key and the leaf. -/
def State.withAccess (s : State) (acc : Acc) (va : Word) (size : Nat)
    (next : State → Nat → Option TlbEntry → State) : State :=
  match s.access s.cur acc va size with
  | .trap c v => s.trap c v
  | .miss => s.lookup va
  | .ok key t => next (s.touch s.cur t) key t

/-- R213: a cache takes an entry; `n` is its size. Log 15. -/
def tlbFill (l : List TlbEntry) (n victim : Nat) (t : TlbEntry) : List TlbEntry :=
  if l.contains t then l else t :: (if l.length < n then l else l.eraseIdx (victim % l.length))

/-- R213: the 8-way L2 of a cluster takes an entry. Log 15. -/
def l2Fill (l : List TlbEntry) (victim : Nat) (t : TlbEntry) : List TlbEntry :=
  let set_ (t : TlbEntry) : Nat := Config.l2Set t.big (t.page / (if t.big then 2 ^ 26 else 2 ^ 16)) % 128
  let mine := l.filter fun x => set_ x == set_ t
  l.filter (fun x => set_ x != set_ t) ++ tlbFill mine 8 victim t

/-- R213: the L2 of a cluster and the last level of its field take an entry. -/
def State.fillShared (s : State) (cl : Nat) (t : TlbEntry) : State :=
  let v := Config.victim s.free
  let s := { s with free := s.free + 1 }
  let s := s.modCluster cl fun c => { c with l2 := l2Fill c.l2 v t }
  s.modField (clusterField cl) fun f => { f with llTlb := tlbFill f.llTlb 12288 v t }

/-- R213: an answer of the walker fills the three caches; the L1 is LRU. -/
def State.fill (s : State) (k : Nat) (t : TlbEntry) : State :=
  (s.modCore (slotCore k) fun c => { c with tlb := (t :: c.tlb.filter (· != t)).take 32 }).fillShared (slotCluster k) t

/-- R210: the walker reports a malformed entry to the field controller. -/
def State.badEntry (s : State) (f cause entry : Nat) : State :=
  if cause = 5 then s.modField f fun d => { d with badEntries := d.badEntries ++ [entry] } else s

/-- R299: an uncorrectable entry quarantines its node; every fault at a quarantined node writes a record. -/
def State.quarantine (s : State) (f : Nat) (owner : BitVec 8) (asid : BitVec 12) (unit : Word) (ember : Nat) (va : Word)
    (node level : Nat) : State :=
  let s := s.errorRecord f 3 5 owner asid unit ember (nodeRange va node level)
  if (s.field f).quarantine.contains node then s
  else if (s.field f).quarantine.length < 16 then s.modField f fun d => { d with quarantine := d.quarantine ++ [node] }
  else s.post s.now (.fatalError f)

/-- The field of the first core of the region that has a context. -/
def State.contextField (s : State) (asid : Nat) : Nat :=
  (s.regions.findSome? fun p => if p.2.asid.toNat = asid then p.2.cores.head?.map coreField else none).getD 0

/-- R210, R299: what a walk that the hardware or the kernel makes for its own access leaves: the report of a malformed
entry, a quarantine with its record. -/
def State.noteWalk (s : State) (asid : BitVec 12) (va : Word) : State :=
  let f := s.contextField asid.toNat
  let o := s.contextOwner asid.toNat
  match (if translated va then s.asidRoot asid.toNat o else none) with
  | none => s
  | some root =>
    let end_ := s.walk asid.toNat root va
    let s := s.walked root va
    match end_ with
    | .fault c a => s.badEntry f c a
    | .bad node level => s.quarantine f o asid (BitVec.ofNat 64 (f * 2 ^ 16)) 0 va node level
    | _ => s

/-- What the hardware finds where it has to read n bytes at a virtual address: their key, a wait for zeroing at a key
(R220), or nothing that can be read, as behind a quarantined node or in error (R296, R299). -/
inductive Reads where
  | at_ (key : Nat)
  | wait (key : Nat)
  | lost
deriving DecidableEq, Repr

def State.hwReads (s : State) (asid : BitVec 12) (va : Word) (n : Nat) : Reads :=
  match s.vaKey asid.toNat va with
  | some key => if s.zeroing key then .wait key else if (s.badWord key n).isSome then .lost else .at_ key
  | none => match (if translated va then s.asidRoot asid.toNat (s.contextOwner asid.toNat) else none) with
    | none => .lost
    | some root => match s.walk asid.toNat root va with
      | .busy a => .wait a
      | _ => .lost

/-- R213: removes from a cache every entry that the scope of `tlbinv` names (R73). -/
def tlbKeep (allAsid allVa : Bool) (asid : Nat) (va : Word) (t : TlbEntry) : Bool :=
  !((allAsid || t.asid == asid) && (allVa || t.hits t.asid va))

end Sys2Proof.Machine
end

