-- ==== Sys2Proof/Machine/Ember.lean ====
section
/-! DEFINITION. Embers: records and save areas (R103 to R106), ready queues (R109 to R112), parks and wakes (R111,
R126, R135), the dispenser's waiting slots, leaving a slot (R106, R145, R185, R228, R253), death (R133, R197, R297). -/

namespace Sys2Proof.Machine

/-- The slot that holds an ember. -/
def State.slotOf (s : State) (e : Nat) : Option Nat :=
  if e = 0 then none else (List.find? (fun p => p.2.ember == e) s.slots).map (·.1)

/-- R226: n places of a watch table fell free: as many of the requests held at the home, the oldest first, are judged
afresh; they keep their order in `requests` until they are performed. -/
def State.retryWatch (s : State) (h n : Nat) : State :=
  ((s.home h).requests.take n).foldl (fun t f => t.post t.now (.versionedLoadAtHome f)) s

/-- R126: the condition of an ember's park is met, whether its slot still holds it or not. -/
def State.meet (s : State) (e : Nat) : State :=
  let f (p : Option Park) : Option Park := p.map fun p => { p with met := true }
  match s.slotOf e with
  | some k => s.modSlot k fun v => { v with park := f v.park }
  | none => s.modInfo e fun i => { i with park := f i.park }

/-! Writes at a home (R204, R227, R244). -/

/-- The kind of reply that serves a watch entry (in `Flight.op`). -/
def opServed : Nat := 9

/-- R227: serves the watch entries of one word. The park of a served ember is over when the value, or the notice that its
home keeps the value, has come to the core (R121, R126; log 68). -/
def State.serveWord (s : State) (w : Nat) : State :=
  let t := s.tag w
  if t.getLsbD 3 = false then s
  else
    let h := keyHome w
    let g := (t &&& 7).toNat
    let v := s.read64 w
    let mine := (s.home h).watch.filter fun e => e.key = w ∧ e.gen = g ∧ e.served = none
    let takes := (mine.filter (·.take)).take 1
    let served := mine.filter (fun e => !e.take) ++ takes
    if served = [] then s
    else
      let s := if takes = [] then s else s.setTag w (t &&& 7)
      let freed := (served.filter (·.res)).length
      let give (e : Watch) : Watch := if served.contains e then { e with served := some v } else e
      let s := s.modHome h fun d => { d with watch := (d.watch.filter fun e => !(e.res && served.contains e)).map give }
      let s := served.foldl (fun t e =>
        t.sendFree t.now .versionedReply
          { next := .versionedReply 0, slot := e.slot, ember := e.ember, src := keyCore w, dst := e.src, key := w,
            data := v.setWidth 1024, rd := e.rd, isF := e.res, op := opServed, aux := if e.take then 1 else 0 }) s
      s.retryWatch h freed

/-- R227: serves the watch table for every word of a range. -/
def State.serve (s : State) (a n : Nat) : State := (wordsOf a n).foldl (fun t w => t.serveWord w) s

/-- R204, R227: a write of any kind but a versioned store is performed at its home. -/
def State.homeWrite (s : State) (a n v : Nat) : State := (s.poke a n v).serve a n

/-- R326: a write of the hardware or the kernel at a key, which leaves its row open. -/
def State.ownWrite (s : State) (a n v : Nat) : State := (s.openRow a).homeWrite a n v

/-! Records (R103 to R106). -/

/-- R103: codes of STATE. -/
def stReady : Nat := 0
def stRunning : Nat := 1
def stVersion : Nat := 2
def stMessage : Nat := 3
def stConsumer : Nat := 4
def stWork : Nat := 5
def stMigrating : Nat := 6
def stStopped : Nat := 7
def stDead : Nat := 8

/-- The storage key of an ember's record under a context. -/
def State.recordKey (s : State) (asid : BitVec 12) (e : Nat) : Option Nat := s.vaKey asid.toNat (BitVec.ofNat 64 (64 * e))

/-- The context of an ember: that of its region. -/
def State.emberAsid (s : State) (e : Nat) : BitVec 12 :=
  ((Tab.find? s.regions (s.info e).region).map (·.asid)).getD 0

/-- R220: a write of the hardware to storage that is being zeroed waits at its home. -/
def State.writeLater (s : State) (owner : BitVec 8) (key n v : Nat) : State :=
  let (id, s) := s.register .farStoreAtHome
    { next := .farStoreAtHome 0, src := keyCore key, dst := keyCore key, key := key, size := n, data := BitVec.ofNat 1024 v, owner := owner }
  s.holdZero key (.farStoreAtHome id)

/-- R204, R227: the hardware writes n bytes at a virtual address; nothing is written where the translation or the owner
forbids it. -/
def State.hwWrite (s : State) (asid : BitVec 12) (va : Word) (n v : Nat) : State :=
  match s.vaKeyFor false asid.toNat va with
  | some key =>
    if s.zeroing key then s.writeLater (s.contextOwner asid.toNat) key n v else s.ownWrite key n v
  | none => s.noteWalk asid va
/-- The value of n bytes that the hardware reads; storage that is being zeroed reads as it will then (R220). -/
def State.hwRead (s : State) (asid : BitVec 12) (va : Word) (n : Nat) : Nat :=
  match s.vaKey asid.toNat va with
  | some key => if s.zeroing key then 0 else s.read key n
  | none => 0

/-- R103: word 1 of a record. -/
def recordWord1 (form st asid frm fl : Nat) (bound noroam : Bool) (live : Nat) : Nat :=
  form * 2 ^ 62 + st * 2 ^ 58 + asid * 2 ^ 46 + frm * 2 ^ 43 + fl * 2 ^ 38 + (if bound then 2 ^ 37 else 0)
    + (if noroam then 2 ^ 36 else 0) + live

/-- R112: writes STATE (and BOUND) of a resident or waiting ember's record. -/
def State.setState (s : State) (asid : BitVec 12) (e st : Nat) (bound : Bool) : State :=
  let va := BitVec.ofNat 64 (64 * e + 8)
  let w := s.hwRead asid va 8
  s.hwWrite asid va 8
    (w / 2 ^ 62 * 2 ^ 62 + st * 2 ^ 58 + bits w 38 20 * 2 ^ 38 + (if bound then 2 ^ 37 else 0) + w % 2 ^ 37)

/-- R19: register ID i: x0 to x31 then f0 to f31. -/
def Slot.liveValue (v : Slot) (id : Nat) : Nat := if id < 32 then (v.xr id).toNat else (v.fr (id - 32)).toNat

/-- R103, R104: writes the compact record of slot k's ember. -/
def State.writeCompact (s : State) (k st : Nat) (pc : Word) : State :=
  let v := s.slot k
  let a := BitVec.ofNat 64 (64 * v.ember)
  let live := v.livemap.toNat
  let s := s.hwWrite v.asid a 8 (v.stage.toNat * 2 ^ 56 + pc.toNat % 2 ^ 56)
  let s := s.hwWrite v.asid (a + 8) 8 (recordWord1 0 st v.asid.toNat v.frm.toNat v.fflags.toNat false v.noroam live)
  (List.range 6).foldl (fun t i => t.hwWrite v.asid (a + 16 + BitVec.ofNat 64 (8 * i)) 8 (v.liveValue (bits live (6 * i) 6))) s

/-- R104, R105: writes the full record and its save area; `spill` goes to offset 440. -/
def State.writeFull (s : State) (k st : Nat) (pc : Word) (area spill : Word) : State :=
  let v := s.slot k
  let a := BitVec.ofNat 64 (64 * v.ember)
  let put (t : State) (o n w : Nat) : State := t.hwWrite v.asid (area + BitVec.ofNat 64 o) n w
  let s := s.hwWrite v.asid a 8 (v.stage.toNat * 2 ^ 56 + pc.toNat % 2 ^ 56)
  let s := s.hwWrite v.asid (a + 8) 8
    (recordWord1 1 st v.asid.toNat v.frm.toNat v.fflags.toNat false v.noroam v.livemap.toNat)
  let s := s.hwWrite v.asid (a + 16) 8 area.toNat
  let s := s.hwWrite v.asid (a + 24) 40 0
  let s := (List.range 32).foldl (fun t n => put t (8 * n) 8 (v.xr n).toNat) s
  let s := (List.range 32).foldl (fun t n => put t (256 + 4 * n) 4 (v.fr n).toNat) s
  let s := put s 384 8 v.vtype.toNat
  let s := put s 392 8 v.vmk.toNat
  let s := put s 400 8 v.vmkh.toNat
  let s := put s 408 8 v.tgroup.toNat
  let s := put s 416 8 v.tstatus.toNat
  let s := put s 424 8 v.parklimit.toNat
  let s := put s 432 8 v.livemap.toNat
  let s := put s 440 8 spill.toNat
  put s 448 64 0

/-! Ready queues (R109, R110). -/

/-- R302: no take-up, hand-over or dealing while dispatch is frozen. -/
def State.frozenAt (s : State) (f : Nat) : Bool := (s.field f).frozen || (s.field f).fenced

/-- The vacant slots of a core look for work at their next issue cycle; a core that the boot image does not enable has
none (R3, R4). -/
def State.offer (s : State) (c : Nat) : State :=
  if !s.module.boot.enabled c then s
  else (List.range 8).foldl (fun t i =>
    let k := 8 * c + i
    if (t.slot k).mode = .vacant then t.postTakeup k t.now else t) s

/-- R109: enters an ember at the tail of a core's ready queue. -/
def State.queueCore (s : State) (c e : Nat) : State :=
  ((s.modInfo e fun i => { i with queued := true }).modCore c
    fun v => { v with ready := v.ready ++ [(e, s.now)] }).offer c

/-- R109: enters an ember at the tail of a cluster's ready queue. -/
def State.queueCluster (s : State) (cl e : Nat) : State :=
  let s := (s.modInfo e fun i => { i with queued := true }).modCluster cl
    fun v => { v with ready := v.ready ++ [(e, s.now)] }
  (List.range 8).foldl (fun t i => t.offer (8 * cl + i)) s

/-- R103, R108: the ember's record says NOROAM. -/
def State.pinned (s : State) (e : Nat) : Bool :=
  s.hwRead (s.emberAsid e) (BitVec.ofNat 64 (64 * e + 8)) 8 / 2 ^ 36 % 2 == 1

/-- R109: an ember out of a slot becomes ready: the core queue if pinned, else the cluster queue, of the last core. -/
def State.makeReady (s : State) (e : Nat) : State :=
  let s := s.setState (s.emberAsid e) e stReady false
  let c := (s.info e).core
  if s.pinned e then s.queueCore c e else s.queueCluster (coreCluster c) e

/-- R109: an ember out of a slot becomes ready in the queue of a core. -/
def State.makeReadyAt (s : State) (c e : Nat) : State := (s.setState (s.emberAsid e) e stReady false).queueCore c e

/-! Parks (R111, R126). -/

/-- R76, R106: the park suspends the ember, in its slot or out of it; a wait for a round (R336, R337) only holds it. -/
def ParkKind.suspends : ParkKind → Bool
  | .round _ => false
  | _ => true

/-- R76, R126: a park that began at clk t0 is checked at the first clk from t0 + L on at which the field counter is a multiple
of 256. A park that is already under way keeps its start. A suspension abandons an open signature block. -/
def State.beginParkAt (s : State) (k t0 : Nat) (kind : ParkKind) : State :=
  let v := s.slot k
  match v.park with
  | some p => s.modSlot k fun v => { v with park := some { p with kind := kind, met := false }, first := false }
  | none =>
    let z := (s.field (slotField k)).zero
    let due := z + (t0 + v.parklimit.toNat - z + 255) / 256 * 256
    (s.modSlot k fun v => { v with
      park := some ⟨kind, t0, v.parklimit.toNat, false⟩, first := false,
      sig := if kind.suspends then none else v.sig }).postRank due 6
      (.parkTimeout v.ember t0)
def State.beginPark (s : State) (k : Nat) (kind : ParkKind) : State := s.beginParkAt k s.now kind

/-- R102: the class in which a resident wait is counted. -/
def ParkKind.wait : ParkKind → Wait
  | .work => .parked
  | _ => .message

/-- The ember waits in its slot. -/
def State.parkHere (s : State) (k : Nat) (kind : ParkKind) : State :=
  (s.beginPark k kind).modSlot k fun v => { v with wait := kind.wait, due := none }

/-- R126, R288: cause and `trapval` of a park's timeout. -/
def ParkKind.timeout : ParkKind → Nat × Word
  | .queue _ d => (0x0B, d)
  | .bell => (0x0B, 0)
  | .version a _ => (0x0A, a)
  | .answer h _ => (0x0B, h)
  | .work => (0x0B, 0)
  | .group g => (0x0B, BitVec.ofNat 64 g)
  | .round d => (0x0B, d)

/-- The state that a parked ember's record receives (R112). -/
def ParkKind.state : ParkKind → Nat
  | .version .. => stVersion
  | .answer .. => stConsumer
  | .work => stWork
  | _ => stMessage

/-- R106, R112: a bound ember suspends in its slot: its record receives STATE and BOUND. When BOUND clears no rule says:
the model writes BOUND = 1 also with STATE running when such an ember runs again, and BOUND = 0 for an unbound ember that
`wfw` parks in its slot. DESIGN CHOICE, log 20. -/
def State.seat (s : State) (k : Nat) : State :=
  let v := s.slot k
  match v.park with
  | some p => (s.setState v.asid v.ember p.kind.state true).modSlot k fun v => { v with seated := true }
  | none => s

/-- R112: an ember that was suspended in its slot runs again. Log 20. -/
def State.unseated (s : State) (k : Nat) : State :=
  let v := s.slot k
  if v.seated then (s.setState v.asid v.ember stRunning v.bound).modSlot k fun v => { v with seated := false } else s

/-- A slot becomes vacant and looks for work at its next issue cycle (R110, R133). What its ember takes with it stays by
the ember's ID: its item, its park, and the report and timeouts it has still to take (R290). -/
def State.vacate (s : State) (k : Nat) : State :=
  let v := s.slot k
  let s := s.modSlot k fun v => { v with
    mode := .vacant, ember := 0, seated := false, due := none, wait := .ready, outs := [], sig := none, park := none, walk := none,
    moved := false, got := none, block := none, pend := [], trapNow := none, ahead := [], item := none, rep := none, imp := none, leaving := false,
    walking := none, stopReq := false, stepping := false, stepDone := false, cmdBusy := false, bpSkip := none,
    first := false, toCore := false, told := false, rowPend := [], vacated := some s.now }
  let s := s.modInfo v.ember fun i => { i with
    core := slotCore k, item := v.item, pend := v.pend, park := v.park, imp := v.imp, first := v.first }
  s.postTakeup k (s.now + 1)

/-- R253: the ember may leave its slot: every load returned, every store and message acknowledged. -/
def Slot.drained (v : Slot) : Bool := v.outs.isEmpty

/-- R106, R107: takes a save area of the ember's region. -/
def State.takeSave (s : State) (e : Nat) : Option (Word × State) :=
  let r := (s.info e).region
  match Tab.find? s.regions r with
  | none => none
  | some g => match g.saves with
    | [] => none
    | a :: rest => some (a, s.modRegion r fun g => { g with saves := rest, usedSaves := (e, a) :: g.usedSaves })

/-- R19, R106: the live map that states that more than six registers are live. -/
def fullMap : Nat := 0xFFFFFFFFF

/-- R106: writes the record of slot k's unbound ember and vacates the slot; none while the save-area list is empty. -/
def State.writeBack (s : State) (k st : Nat) (pc : Word) : Option State :=
  let v := s.slot k
  if v.livemap.toNat = fullMap then (s.takeSave v.ember).map fun (a, s) => (s.writeFull k st pc a 0).vacate k
  else some ((s.writeCompact k st pc).vacate k)

/-- A suspension: writes the ember back once it is drained and a form is to be had, else SUSPEND_WRITEBACK tries again
at the slot's next issue cycle (R107, R253). -/
def State.suspend (s : State) (k : Nat) : State :=
  (s.modSlot k fun v => { v with wait := .memory, due := none, leaving := true }).post s.now (.suspendWriteback k)

/-! Waits on queues (R125, R135, R143, R145). -/

def State.queue (s : State) (c q : Nat) : RQueue := Tab.get (s.core c).rq q {}
def State.modQueue (s : State) (c q : Nat) (f : RQueue → RQueue) : State :=
  s.modCore c fun v => { v with rq := Tab.set v.rq q (f (Tab.get v.rq q {})) }

/-- R145: an ember leaves every waiter list of a core; its message returns to the head, free. -/
def RQueue.leave (r : RQueue) (e : Nat) : RQueue :=
  let back (l : List Msg) : List Msg := (l.filter (·.dest == e)).map fun m => { m with dest := 0 }
  { r with
    hw := back r.hw ++ back r.ring ++ r.hw.filter (fun m => m.dest != e), ring := r.ring.filter (fun m => m.dest != e),
    waiters := r.waiters.filter (· != e), later := r.later.filter (· != e) }

/-- R111, R125: the wait of an ember on a core is met: a resident one re-executes at its next issue cycle, one being
written back is woken once its record is written, one that was written back enters the core's queue. -/
def State.wakeOn (s : State) (c e : Nat) : State :=
  match s.slotOf e with
  | some k =>
    let s := s.meet e
    if (s.slot k).leaving then s.modSlot k fun v => { v with toCore := true } else s.wakeAt k (s.now + 1)
  | none => (s.meet e).makeReadyAt c e

/-- The oldest later receiver takes a waiter place that freed (R125); an unbound one is then written back. -/
def State.promote (s : State) (c q : Nat) : State :=
  let r := s.queue c q
  match r.later with
  | e :: rest =>
    if r.waiters.length < 8 then
      let s := s.modQueue c q fun r => { r with waiters := r.waiters ++ [e], later := rest }
      match s.slotOf e with
      | some k => if (s.slot k).bound then s.seat k else s.suspend k
      | none => s
    else s
  | [] => s

/-- A message that becomes free while waiters are listed goes to the oldest of them (R125, R143). -/
def State.reserve (s : State) (c q : Nat) : State :=
  let r := s.queue c q
  match r.waiters with
  | [] => s
  | e :: rest =>
    let give (l : List Msg) : List Msg :=
      match l.findIdx? (·.dest == 0) with
      | some i => l.modify i fun m => { m with dest := e }
      | none => l
    if r.hw.any (·.dest == 0) then (s.modQueue c q fun r => { r with hw := give r.hw, waiters := rest }).wakeOn c e
    else if r.ring.any (·.dest == 0) then (s.modQueue c q fun r => { r with ring := give r.ring, waiters := rest }).wakeOn c e
    else s

/-- R177: the cluster of a group's home: cluster 0 of its home region. -/
def State.groupHome (s : State) (v : Group) : Option Nat := (Tab.find? s.regions v.region).bind fun r => r.clusters.head?

/-- R194: what a slice reports to a group home. -/
def repCreated : Nat := 0
def repListed : Nat := 1
def repUnlisted : Nat := 2
def repPublished : Nat := 3
def repFreed : Nat := 4
def repHeld : Nat := 5
def repTaken : Nat := 6
/-- R298: an answer has been lost; the counts stay. -/
def repLost : Nat := 7

/-- R183, R194, R195: slice cl sends its next report on group g about ember e. -/
def State.tellGroup (s : State) (cl g kind e : Nat) : State :=
  match Tab.find? s.groups g with
  | none => s
  | some v => match s.groupHome v with
    | none => s
    | some h =>
      if s.refused (s.module.boot.hub cl) (s.module.boot.hub h) (.groupReport 0) then s
      else
      let n := Tab.get (s.cluster cl).answers.reports g 0 + 1
      let s := s.modAnswers cl fun a => { a with reports := Tab.set a.reports g n }
      let src := s.module.boot.hub cl
      let dst := s.module.boot.hub h
      let (id, s) := s.register .groupReport
        { next := .groupReport 0, src := src, dst := dst, aux := g, op := kind, ember := e, rd := n, key := cl,
          tval := BitVec.ofNat 64 v.born }
      s.post (if h = cl then s.now else s.now + s.pathClk src dst) (.groupReport id)

/-- R182: a consumer cell fell free: the oldest request held for one is judged afresh. -/
def State.retryCell (s : State) (cl : Nat) : State :=
  match (s.cluster cl).answers.held with
  | [] => s
  | r :: _ => s.post s.now (.tcallAtHome r)

/-- R185: the ember leaves the consumer lists of a slice, and its cell frees. -/
def State.unlist (s : State) (cl e : Nat) : State :=
  let mine := (s.cluster cl).answers.entries.filter fun p => p.2.consumers.contains e
  let s := s.modAnswers cl fun a => { a with
    entries := a.entries.map fun (i, v) => (i, { v with consumers := v.consumers.filter (· != e) }),
    cells := Tab.erase a.cells e }
  (mine.foldl (fun t p => t.tellGroup cl p.2.group repUnlisted e) s).retryCell cl

/-- A versioned load of an ember that its home holds, or the reply to one that is on its way. -/
def Flight.awaits (f : Flight) (e : Nat) (held : List Nat) : Bool :=
  f.ember == e && !f.dead &&
    match f.next with
    | .versionedLoadAtHome id => held.contains id
    | .versionedReply _ => true
    | _ => false

/-- R121, R228: the reply carries the value that a `vtake` has taken, which is not yet in the ember's register. -/
def Flight.untaken (f : Flight) : Bool :=
  f.aux == 1 && f.cause == 0 && f.args != [1] &&
    match f.next with
    | .versionedReply _ => f.op != opServed || f.isF
    | _ => false

/-- R145: messages that are reserved for an ember on a core return to the heads of their queues, free. -/
def State.freeReserved (s : State) (c e : Nat) : State :=
  (List.range 8).foldl (fun t q =>
    if ((t.queue c q).hw ++ (t.queue c q).ring).any (·.dest == e) then ((t.modQueue c q (·.leave e)).reserve c q).promote c q
    else t) s

/-- R145, R185, R228, R336: the ember leaves whatever holds its wait. A value delivered to its `vtake` entry goes back
to the word. -/
def State.leaveWaits (s : State) (c e : Nat) (p : Option Park) : State :=
  match p with
  | none => s
  | some p => match p.kind with
    | .queue q _ => ((s.modQueue c q (·.leave e)).reserve c q).promote c q
    | .bell => s.modCore c fun v => { v with bells := v.bells.filter (· != e) }
    | .version _ h =>
      let mine := (s.home h).watch.filter (·.ember == e)
      let going := s.flights.filter fun p => p.2.awaits e (s.home h).requests
      let s := s.modHome h fun v => { v with
        watch := v.watch.filter (fun w => w.ember != e),
        requests := v.requests.filter (fun r => !going.any (·.1 == r)) }
      let s := mine.foldl (fun t w => match w.served with
        | some v => if w.take then t.homeWrite w.key 8 v.toNat else t
        | none => t) s
      (going.foldl (fun t p =>
        let t := t.land p.1
        if p.2.untaken then t.homeWrite p.2.key 8 (p.2.data.toNat % 2 ^ 64) else t) s).retryWatch h mine.length
    | .answer _ cl => s.unlist cl e
    | .work => s.modDisp (coreCluster c) fun d => { d with waiting := d.waiting.filter (fun k => (s.slot k).ember != e) }
    | .group g => s.modGroup g fun v => { v with sealers := v.sealers.filter (fun k => (s.slot k).ember != e) }
    | .round _ => s

/-- R293, R145: the slot stops before its next instruction; its ember leaves whatever holds its wait. Rule 4 of R76 does
not name a stop: the model lets it abandon an open signature block, as a pre-emption does. DESIGN CHOICE, log 56. -/
def State.stopNow (s : State) (k : Nat) : State :=
  let v := s.slot k
  let s := (s.leaveWaits (slotCore k) v.ember v.park).freeReserved (slotCore k) v.ember
  (s.setState v.asid v.ember stStopped v.bound).modSlot k fun v => { v with
    mode := .stopped, due := none, stopReq := false, stepping := false, stepDone := false, cmdBusy := false, wait := .parked,
    park := none, leaving := false, seated := false, sig := none }

/-- R293: a stop that was asked for takes a slot that begins to wait. -/
def State.stopIfAsked (s : State) (k : Nat) : State :=
  let v := s.slot k
  if v.stopReq && v.mode == .active && v.level == .user then s.stopNow k else s

/-- The record of a waiting ember resumes behind its parking instruction. -/
def State.bumpPc (s : State) (e : Nat) : State :=
  let a := BitVec.ofNat 64 (64 * e)
  s.hwWrite (s.emberAsid e) a 8 (s.hwRead (s.emberAsid e) a 8 + 4)

/-- R135: a doorbell event on a core wakes every ember parked by `park` there. -/
def State.doorbell (s : State) (c : Nat) : State :=
  let listed := (s.core c).bells
  let s := s.modCore c fun v => { v with bells := [] }
  let s := listed.foldl (fun t e => if (t.slotOf e).isSome then t else (t.bumpPc e).wakeOn c e) s
  (List.range 8).foldl (fun t i =>
    let k := 8 * c + i
    match (t.slot k).park with
    | some p =>
      if p.kind ≠ .bell ∨ p.met then t
      else if (t.slot k).leaving then
        t.modSlot k fun v => { v with pc := v.pc + 4, park := some { p with met := true }, toCore := true }
      else if (t.slot k).mode = .active then t.completeAt k ((t.slot k).pc + 4) (t.now + 1) else t
    | none => t) s

/-- R230: a versioned store is performed at its home; into a slice it is a doorbell (R135). -/
def State.homeVst (s : State) (a v g : Nat) : State :=
  let s := ({ s with mem := memWrite s.mem a 8 v, bad := s.bad.filter fun w => !covers a 8 w }).setTag a (BitVec.ofNat 4 (8 + g % 8))
  let s := s.serveWord a
  if 2 ^ 44 ≤ a then s.doorbell (keyCore a) else s

/-! Work items (R113 to R116, R119). -/

/-- R118, R119: an item of a launch is finished. -/
def State.itemDone (s : State) (i : Option ItemRef) : State :=
  match i with
  | none => s
  | some r => match Tab.find? s.launches r.launch with
    | none => s
    | some l => match Tab.find? l.chunks r.chunk with
      | none => s
      | some c =>
        -- an item of an issue that was replaced counts for nothing
        if r.turn ≠ c.turn then s
        else
        let c := { c with finished := c.finished + 1 }
        let s := { s with launches := Tab.set s.launches r.launch { l with chunks := Tab.set l.chunks r.chunk c } }
        if c.finished = c.items then
          let (d, s) := s.openTime
          s.post (s.now + d % 65536) (.chunkFinished r.launch r.chunk)
        else s

/-- R120, R140: stops the deadline counter of an ember and frees its entry. -/
def State.stopDeadline (s : State) (e : Nat) : State :=
  { s with fields := s.fields.map fun (f, d) => (f, { d with deadlines := d.deadlines.filter (fun x => x.ember != e) }) }

/-- R120: the armed counter of an ember, with its field. -/
def State.deadlineOf (s : State) (e : Nat) : Option (Nat × Deadline) :=
  s.fields.findSome? fun (f, d) => (d.deadlines.find? (·.ember == e)).map fun x => (f, x)

/-- R114, R115: the dispenser of a cluster looks for a hand-over now. -/
def State.dispense (s : State) (cl : Nat) : State := s.post s.now (.dispenserHandover cl)

/-- R133, R255: the requests of a dead ember that are under way are performed, and what they bring is discarded; a place
that a home has given it in a list of consumers, of which the notice is still under way, falls free (R185). -/
def State.orphan (s : State) (k e : Nat) : State :=
  let mine (f : Flight) : Bool := f.slot == k && f.ember == e && !f.dead
  let listed (f : Flight) : Bool := mine f && f.cause == 4 &&
    match f.next with
    | .tcallReply _ => true
    | _ => false
  let s := (s.flights.filter fun p => listed p.2).foldl (fun t p => t.unlist p.2.aux e) s
  { s with flights := s.flights.map fun p => if mine p.2 then (p.1, { p.2 with dead := true }) else p }

/-- R183: the clk from a core to the effect of a request at a cluster's home unit. -/
def State.homeClk (s : State) (src cl : Nat) : Nat :=
  if coreCluster src = cl then s.clk (coreField src) 10
  else s.pathClk src (s.module.boot.hub cl) + s.clk (clusterField cl) 6

/-- R197: the PRODUCING and HELD entries of a dead ember are killed at their slices. No rule gives the time from the death
to its effect there: the model takes that of a request of the slot (R183), so that what the ember has sent comes first
(R255). DESIGN CHOICE, log 69. A request that the ember had sent before it died finds its own way (`orphan`). -/
def State.killProducer (s : State) (k e : Nat) : State :=
  s.clusters.foldl (fun t (cl, v) =>
    if v.answers.entries.any (fun p => (p.2.state == .producing && p.2.producer == e) || (p.2.state == .held && p.2.heldFor == e))
    then t.sendFree t.now .producerKillAtHome
      { next := .producerKillAtHome 0, slot := k, ember := e, src := slotCore k, dst := t.module.boot.hub cl, aux := cl,
        via := some (t.homeClk (slotCore k) cl) }
    else t) s

/-- R133: an ember's record is dead and returns to its region's pool. -/
def State.retireRecord (s : State) (e : Nat) : State :=
  let r := (s.info e).region
  let s := s.setState (s.emberAsid e) e stDead false
  let s := s.modRegion r fun g => { g with records := g.records ++ [BitVec.ofNat 64 (64 * e)] }
  { s with embers := Tab.erase s.embers e }

/-- R272: matrix entries leave a core's queue ungranted; the reads of the next one may begin. -/
def State.dropTiles (s : State) (c : Nat) (gone : Tile → Bool) : State :=
  if (s.core c).mq.any gone then
    (s.modCore c fun v => { v with mq := v.mq.filter (!gone ·) }).postRank s.now 2 (.matrixOperandArrival c)
  else s

/-- R272, R280: a slot's ungranted matrix entries are removed, its copy entries not started are discarded. -/
def State.dropEngineWork (s : State) (k : Nat) : State :=
  let cut (q : CopyQueue) : CopyQueue :=
    { q with entries := q.entries.map fun e => if e.slot = k ∧ !e.started then { e with cut := true } else e }
  (s.dropTiles (slotCore k) (·.slot == k)).modCore (slotCore k) fun c => { c with cq0 := cut c.cq0, cq1 := cut c.cq1 }

end Sys2Proof.Machine
end

