-- ==== Sys2Proof/Machine/Integer.lean ====
section
/-! DEFINITION. The integer instructions without memory (spec/03, R55 to R58). -/

namespace Sys2Proof.Machine

/-- The instruction writes v to rd and completes. -/
def State.alu (s : State) (rd : Reg) (v : Word) : State := (s.setX rd v).retire

/-- R55: sext32 of bits [31:0]. -/
def sext32 (v : Word) : Word := (v.setWidth 32).signExtend 64
/-- R35: the sign-extended I immediate. -/
def immWord (imm : BitVec 12) : Word := imm.signExtend 64
/-- R35: the U immediate, sign-extended. -/
def upper (imm : BitVec 20) : Word := (imm ++ 0#12).signExtend 64
def flag (b : Bool) : Word := if b then 1 else 0

/-- R58: signed division; divisor 0 gives −1, overflow the dividend. -/
def divS {w : Nat} (a b : BitVec w) : BitVec w := if b = 0 then BitVec.allOnes w else BitVec.ofInt w (a.toInt.tdiv b.toInt)
/-- R58: signed remainder; divisor 0 gives the dividend, overflow 0. -/
def remS {w : Nat} (a b : BitVec w) : BitVec w := if b = 0 then a else BitVec.ofInt w (a.toInt.tmod b.toInt)
/-- R58: unsigned division and remainder. -/
def divU {w : Nat} (a b : BitVec w) : BitVec w := if b = 0 then BitVec.allOnes w else BitVec.ofNat w (a.toNat / b.toNat)
def remU {w : Nat} (a b : BitVec w) : BitVec w := if b = 0 then a else BitVec.ofNat w (a.toNat % b.toNat)

/-- A 32-bit operation on [31:0], sign-extended (R56). -/
def op32 (f : BitVec 32 → BitVec 32 → BitVec 32) (a b : Word) : Word := (f (a.setWidth 32) (b.setWidth 32)).signExtend 64

/-- R29, R56: PC ← target, or the misaligned-fetch trap with the instruction having no effect. -/
def State.goto (s : State) (target : Word) (f : State → State) : State :=
  if target.toNat % 4 ≠ 0 then s.trap 0x02 target else (f s).jump target

/-- R56: a conditional branch. -/
def State.branch (s : State) (c : Bool) (imm : BitVec 12) : State :=
  if c then s.goto (s.me.pc + (imm ++ 0#1).signExtend 64) id else s.retire

/-- R56: LUI. -/
def execLui (rd : Reg) (imm20 : BitVec 20) (s : State) : Out State :=
  .next (s.alu rd (upper imm20))

/-- R56: AUIPC. -/
def execAuipc (rd : Reg) (imm20 : BitVec 20) (s : State) : Out State :=
  .next (s.alu rd (s.me.pc + upper imm20))

/-- R56: JAL. -/
def execJal (rd : Reg) (imm20 : BitVec 20) (s : State) : Out State :=
  .next (s.goto (s.me.pc + (imm20 ++ 0#1).signExtend 64) (·.setX rd (s.me.pc + 4)))

/-- R56: JALR. -/
def execJalr (rd rs1 : Reg) (imm12 : BitVec 12) (s : State) : Out State :=
  .next (s.goto ((s.x rs1 + immWord imm12) &&& ~~~ 1) (·.setX rd (s.me.pc + 4)))

/-- R56: BEQ. -/
def execBeq (rs1 rs2 : Reg) (imm12 : BitVec 12) (s : State) : Out State :=
  .next (s.branch (s.x rs1 == s.x rs2) imm12)

/-- R56: BNE. -/
def execBne (rs1 rs2 : Reg) (imm12 : BitVec 12) (s : State) : Out State :=
  .next (s.branch (s.x rs1 != s.x rs2) imm12)

/-- R56: BLT. -/
def execBlt (rs1 rs2 : Reg) (imm12 : BitVec 12) (s : State) : Out State :=
  .next (s.branch ((s.x rs1).slt (s.x rs2)) imm12)

/-- R56: BGE. -/
def execBge (rs1 rs2 : Reg) (imm12 : BitVec 12) (s : State) : Out State :=
  .next (s.branch (!(s.x rs1).slt (s.x rs2)) imm12)

/-- R56: BLTU. -/
def execBltu (rs1 rs2 : Reg) (imm12 : BitVec 12) (s : State) : Out State :=
  .next (s.branch ((s.x rs1).ult (s.x rs2)) imm12)

/-- R56: BGEU. -/
def execBgeu (rs1 rs2 : Reg) (imm12 : BitVec 12) (s : State) : Out State :=
  .next (s.branch (!(s.x rs1).ult (s.x rs2)) imm12)

/-- R56: ADDI. -/
def execAddi (rd rs1 : Reg) (imm12 : BitVec 12) (s : State) : Out State :=
  .next (s.alu rd (s.x rs1 + immWord imm12))

/-- R56: SLTI. -/
def execSlti (rd rs1 : Reg) (imm12 : BitVec 12) (s : State) : Out State :=
  .next (s.alu rd (flag ((s.x rs1).slt (immWord imm12))))

/-- R56: SLTIU. -/
def execSltiu (rd rs1 : Reg) (imm12 : BitVec 12) (s : State) : Out State :=
  .next (s.alu rd (flag ((s.x rs1).ult (immWord imm12))))

/-- R56: XORI. -/
def execXori (rd rs1 : Reg) (imm12 : BitVec 12) (s : State) : Out State :=
  .next (s.alu rd (s.x rs1 ^^^ immWord imm12))

/-- R56: ORI. -/
def execOri (rd rs1 : Reg) (imm12 : BitVec 12) (s : State) : Out State :=
  .next (s.alu rd (s.x rs1 ||| immWord imm12))

/-- R56: ANDI. -/
def execAndi (rd rs1 : Reg) (imm12 : BitVec 12) (s : State) : Out State :=
  .next (s.alu rd (s.x rs1 &&& immWord imm12))

/-- R56: ADDIW. -/
def execAddiw (rd rs1 : Reg) (imm12 : BitVec 12) (s : State) : Out State :=
  .next (s.alu rd (sext32 (s.x rs1 + immWord imm12)))

/-- R56, R57: SLLI. -/
def execSlli (rd rs1 : Reg) (sh6 : BitVec 6) (s : State) : Out State :=
  .next (s.alu rd (s.x rs1 <<< sh6.toNat))

/-- R56, R57: SRLI. -/
def execSrli (rd rs1 : Reg) (sh6 : BitVec 6) (s : State) : Out State :=
  .next (s.alu rd (s.x rs1 >>> sh6.toNat))

/-- R56, R57: SRAI. -/
def execSrai (rd rs1 : Reg) (sh6 : BitVec 6) (s : State) : Out State :=
  .next (s.alu rd ((s.x rs1).sshiftRight sh6.toNat))

/-- R56, R57: SLLIW. -/
def execSlliw (rd rs1 : Reg) (sh5 : BitVec 5) (s : State) : Out State :=
  .next (s.alu rd (((s.x rs1).setWidth 32 <<< sh5.toNat).signExtend 64))

/-- R56, R57: SRLIW. -/
def execSrliw (rd rs1 : Reg) (sh5 : BitVec 5) (s : State) : Out State :=
  .next (s.alu rd (((s.x rs1).setWidth 32 >>> sh5.toNat).signExtend 64))

/-- R56, R57: SRAIW. -/
def execSraiw (rd rs1 : Reg) (sh5 : BitVec 5) (s : State) : Out State :=
  .next (s.alu rd ((((s.x rs1).setWidth 32).sshiftRight sh5.toNat).signExtend 64))

/-- R56: ADD. -/
def execAdd (rd rs1 rs2 : Reg) (s : State) : Out State :=
  .next (s.alu rd (s.x rs1 + s.x rs2))

/-- R56: SUB. -/
def execSub (rd rs1 rs2 : Reg) (s : State) : Out State :=
  .next (s.alu rd (s.x rs1 - s.x rs2))

/-- R56: SLL. -/
def execSll (rd rs1 rs2 : Reg) (s : State) : Out State :=
  .next (s.alu rd (s.x rs1 <<< ((s.x rs2).toNat % 64)))

/-- R56: SLT. -/
def execSlt (rd rs1 rs2 : Reg) (s : State) : Out State :=
  .next (s.alu rd (flag ((s.x rs1).slt (s.x rs2))))

/-- R56: SLTU. -/
def execSltu (rd rs1 rs2 : Reg) (s : State) : Out State :=
  .next (s.alu rd (flag ((s.x rs1).ult (s.x rs2))))

/-- R56: XOR. -/
def execXor (rd rs1 rs2 : Reg) (s : State) : Out State :=
  .next (s.alu rd (s.x rs1 ^^^ s.x rs2))

/-- R56: SRL. -/
def execSrl (rd rs1 rs2 : Reg) (s : State) : Out State :=
  .next (s.alu rd (s.x rs1 >>> ((s.x rs2).toNat % 64)))

/-- R56: SRA. -/
def execSra (rd rs1 rs2 : Reg) (s : State) : Out State :=
  .next (s.alu rd ((s.x rs1).sshiftRight ((s.x rs2).toNat % 64)))

/-- R56: OR. -/
def execOr (rd rs1 rs2 : Reg) (s : State) : Out State :=
  .next (s.alu rd (s.x rs1 ||| s.x rs2))

/-- R56: AND. -/
def execAnd (rd rs1 rs2 : Reg) (s : State) : Out State :=
  .next (s.alu rd (s.x rs1 &&& s.x rs2))

/-- R56: ADDW. -/
def execAddw (rd rs1 rs2 : Reg) (s : State) : Out State :=
  .next (s.alu rd (op32 (· + ·) (s.x rs1) (s.x rs2)))

/-- R56: SUBW. -/
def execSubw (rd rs1 rs2 : Reg) (s : State) : Out State :=
  .next (s.alu rd (op32 (· - ·) (s.x rs1) (s.x rs2)))

/-- R56: SLLW. -/
def execSllw (rd rs1 rs2 : Reg) (s : State) : Out State :=
  .next (s.alu rd (op32 (fun a b => a <<< (b.toNat % 32)) (s.x rs1) (s.x rs2)))

/-- R56: SRLW. -/
def execSrlw (rd rs1 rs2 : Reg) (s : State) : Out State :=
  .next (s.alu rd (op32 (fun a b => a >>> (b.toNat % 32)) (s.x rs1) (s.x rs2)))

/-- R56: SRAW. -/
def execSraw (rd rs1 rs2 : Reg) (s : State) : Out State :=
  .next (s.alu rd (op32 (fun a b => a.sshiftRight (b.toNat % 32)) (s.x rs1) (s.x rs2)))

/-- R56: MUL. -/
def execMul (rd rs1 rs2 : Reg) (s : State) : Out State :=
  .next (s.alu rd (s.x rs1 * s.x rs2))

/-- R56: MULH. -/
def execMulh (rd rs1 rs2 : Reg) (s : State) : Out State :=
  .next (s.alu rd (BitVec.ofInt 64 ((s.x rs1).toInt * (s.x rs2).toInt / 2 ^ 64)))

/-- R56: MULHSU. -/
def execMulhsu (rd rs1 rs2 : Reg) (s : State) : Out State :=
  .next (s.alu rd (BitVec.ofInt 64 ((s.x rs1).toInt * (s.x rs2).toNat / 2 ^ 64)))

/-- R56: MULHU. -/
def execMulhu (rd rs1 rs2 : Reg) (s : State) : Out State :=
  .next (s.alu rd (BitVec.ofNat 64 ((s.x rs1).toNat * (s.x rs2).toNat / 2 ^ 64)))

/-- R56, R58: DIV. -/
def execDiv (rd rs1 rs2 : Reg) (s : State) : Out State :=
  .next (s.alu rd (divS (s.x rs1) (s.x rs2)))

/-- R56, R58: DIVU. -/
def execDivu (rd rs1 rs2 : Reg) (s : State) : Out State :=
  .next (s.alu rd (divU (s.x rs1) (s.x rs2)))

/-- R56, R58: REM. -/
def execRem (rd rs1 rs2 : Reg) (s : State) : Out State :=
  .next (s.alu rd (remS (s.x rs1) (s.x rs2)))

/-- R56, R58: REMU. -/
def execRemu (rd rs1 rs2 : Reg) (s : State) : Out State :=
  .next (s.alu rd (remU (s.x rs1) (s.x rs2)))

/-- R56: MULW. -/
def execMulw (rd rs1 rs2 : Reg) (s : State) : Out State :=
  .next (s.alu rd (op32 (· * ·) (s.x rs1) (s.x rs2)))

/-- R56, R58: DIVW. -/
def execDivw (rd rs1 rs2 : Reg) (s : State) : Out State :=
  .next (s.alu rd (op32 divS (s.x rs1) (s.x rs2)))

/-- R56, R58: DIVUW. -/
def execDivuw (rd rs1 rs2 : Reg) (s : State) : Out State :=
  .next (s.alu rd (op32 divU (s.x rs1) (s.x rs2)))

/-- R56, R58: REMW. -/
def execRemw (rd rs1 rs2 : Reg) (s : State) : Out State :=
  .next (s.alu rd (op32 remS (s.x rs1) (s.x rs2)))

/-- R56, R58: REMUW. -/
def execRemuw (rd rs1 rs2 : Reg) (s : State) : Out State :=
  .next (s.alu rd (op32 remU (s.x rs1) (s.x rs2)))

end Sys2Proof.Machine
end

