-- ==== Sys2Proof/Machine/LoadStore.lean ====
section
/-! DEFINITION. Plain loads and stores (R59, R215 to R217), their requests, what their homes do (R219, R220, R243), and
the fences (R60, R235) and `waitc` (R286). -/

namespace Sys2Proof.Machine

/-- R150: waits until every earlier row access has left the buffer. -/
def State.afterRows (s : State) (next : State → State) : State :=
  if s.me.rowsQueued then s.notReady .memory else next s

/-- R224: the key lies in the slot's own slice. -/
def State.ownSlice (s : State) (key : Nat) : Bool := decide (2 ^ 44 ≤ key) && keyCore key == slotCore s.cur

/-- R219: the leaf lets owner 0's banks be read. -/
def readOnly (t : Option TlbEntry) : Bool := t.any fun t => !leafW t.leaf

/-- An access that completes at the slot's own slice at issue: takes the precise traps of the storage (R219, R296), and
waits out zeroing (R220). -/
def State.atOwnSlice (s : State) (key n : Nat) (va : Word) (next : State → State) : State :=
  if !s.ownerOk key s.me.owner false then s.trap 0x10 va
  else if s.zeroing key then s.notReady .memory
  else match s.badWord key n with
    | some w => s.trap 0x0F (va + BitVec.ofNat 64 (w - key))
    | none => next (s.scrub key n)

/-- The loaded value: the low n bytes, sign- or zero-extended. -/
def loadValue (v n : Nat) (sx : Bool) : Word :=
  if sx then (BitVec.ofNat (8 * n) v).signExtend 64 else BitVec.ofNat 64 (v % 2 ^ (8 * n))

/-- Kinds of read request, in `Flight.op`: what its reply does. -/
def opScalar : Nat := 0
def opRow : Nat := 1
def opGather : Nat := 2
def opBlock : Nat := 3
def opTag : Nat := 4
def opDequant : Nat := 5
def opWindow : Nat := 6
/-- The read or the write of a chunk for a peer (R347). -/
def opPeer : Nat := 11

/-- R285: counts a request to the home of a key as outstanding. -/
def State.track (s : State) (k id : Nat) (store : Bool) (key : Nat) : State := s.addOut k ⟨id, store, keyCore key, none, false, none⟩

/-- R285: a count never exceeds 63. -/
def State.countRoom (s : State) (store : Bool) (n : Nat) : Bool :=
  decide ((if store then s.me.stores else s.me.loads) + n ≤ 63)

/-- The flight of a request of the current slot. -/
def State.flightOf (s : State) (va : Word) (key : Nat) : Flight :=
  let v := s.me
  { next := .loadReply 0, slot := s.cur, ember := v.ember, src := slotCore s.cur, dst := keyCore key, va := va, key := key,
    asid := v.asid, owner := v.owner }

/-- Counts a far access of slot k (R308, events 7 and 8): one whose home is another core's slice or flue. -/
def State.countFarOf (s : State) (k key ev : Nat) : State := if keyCore key = slotCore k then s else s.count k ev 1
def State.countFar (s : State) (key ev : Nat) : State := s.countFarOf s.cur key ev

/-- R240: a field's last level counts a read through this leaf of a sealed page homed outside the field; the threshold
starts a copy. -/
def State.countReplica (s : State) (f : Nat) (leaf : Word) : State :=
  let frame := leafFrame leaf
  if leafSealed leaf ∧ leafClass leaf = 1 ∧ coreField (keyCore frame) ≠ f then
    let n := Tab.get (s.field f).reads frame 0 + 1
    let s := s.modField f fun d => { d with reads := Tab.set d.reads frame n }
    if n = (s.field f).threshold then s.post s.now (.replicaCreate f frame) else s
  else s

/-- R240: the current slot reads through a leaf. -/
def State.replicaRead (s : State) (t : Option TlbEntry) : State :=
  match t with
  | none => s
  | some t => s.countReplica (slotField s.cur) t.leaf

/-- R240, R313: a read of one word through the leaf of a sealed page of which the field of the slot's core holds a replica
goes to the replica, which counts it; the other reads go home, as the rule allows. -/
def State.toReplica (s : State) (t : Option TlbEntry) (f : Flight) : Flight × State :=
  let d := slotField f.slot
  match t.bind fun t => (s.field d).replicas.find? fun r => r.done && leafSealed t.leaf && leafClass t.leaf == 1 && r.frame == leafFrame t.leaf with
  | some r =>
    if f.op = opScalar ∨ f.op = opTag then
      let key := f.key - r.frame + r.copy
      ({ f with key := key, dst := keyCore key, served := true }, s.modField d fun d => { d with
        replicas := d.replicas.map fun x => if x.frame = r.frame then { x with served := x.served + 1 } else x })
    else (f, s)
  | none => (f, s)

/-- R246: the far stores of a slot that its core still holds. -/
def State.storesHeld (s : State) (k : Nat) : Bool :=
  (s.core (slotCore k)).held.any fun e => (s.flight? e.1).any fun f => f.slot == k &&
    (match f.next with
    | .farStoreAtHome _ => true
    | _ => false)

/-- R246: the loads of a slot that have not returned; a later store waits for them. -/
def Slot.loadIds (v : Slot) : List Nat := (v.outs.filter (fun o => !o.store)).map (·.id)

/-- R246: an access that both reads and writes waits for earlier loads and held stores. -/
def State.inOrder (s : State) (next : State → State) : State :=
  if s.me.loadIds ≠ [] ∨ s.storesHeld s.cur then s.notReady .memory else next s

/-- R30, R217: a read whose data arrive later: the slot waits, not ready on memory. -/
def State.farRead (s : State) (t : Option TlbEntry) (f : Flight) : State :=
  if !s.countRoom false 1 || s.storesHeld s.cur then s.notReady .memory
  else
    let (f, s) := (((s.issued s.cur).countFar f.key 7).replicaRead t).toReplica t f
    let (id, s) := s.request .farLoadAtHome f
    (s.track s.cur id false f.key).await .memory

/-- R25, R215: a plain access at user level under this leaf moves the ember. -/
def State.attracts (s : State) (key : Nat) (t : Option TlbEntry) : Bool :=
  let v := s.me
  match t with
  | none => false
  | some t =>
    decide (keyCore key ≠ slotCore s.cur) && v.level == .user && leafAttract t.leaf
      && (leafClass t.leaf == 0 || (leafClass t.leaf == 1 && !leafSealed t.leaf))
      && !v.bound && v.livemap.toNat != fullMap && !v.noroam && !v.moved
      && (s.core (keyCore key)).region == (s.core (slotCore s.cur)).region && (s.core (slotCore s.cur)).region.isSome

/-- R216: the move waits for the slot's stores, then ATTRACTION_MOVE carries the ember to the core. -/
def State.attract (s : State) (c : Nat) : State :=
  if s.me.drained then
    ((s.modMe fun v => { v with got := some (BitVec.ofNat 64 c), moved := true }).await .memory).post s.now (.attractionMove s.cur)
  else s.notReady .memory

/-- R59: a plain load of n bytes into an x-register, or an f-register (FLW). -/
def State.plainLoad (s : State) (rd : Reg) (va : Word) (n : Nat) (sx isF : Bool) : State :=
  s.afterRows fun s => s.withAccess .load va n fun s key t =>
    if s.attracts key t then s.attract (keyCore key)
    else if s.ownSlice key then
      s.atOwnSlice key n va fun s =>
        let v := s.read key n
        (if isF then s.setFp rd (BitVec.ofNat 32 v) else s.setX rd (loadValue v n sx)).retire
    else s.farRead t { s.flightOf va key with size := n, rd := rd.toNat, isF := isF, sext := sx, ro := readOnly t }

/-- R30, R255: a store that its home refuses has no effect there; the report is imprecise. -/
def State.report (s : State) (k e cause : Nat) (val : Word) : State := s.post s.now (.impreciseReport k e cause val)

/-- R290: a report that reaches no slot is written as a record. Log 28. -/
def State.lostReport (s : State) (k e act : Nat) (owner : BitVec 8) (asid : BitVec 12) (cause : Nat) (val : Word) : State :=
  s.errorRecord (slotField k) 14 act owner asid (coreloc k) e [BitVec.ofNat 64 (cause % 256), val]

/-- R296, R304: the first word of a write whose unit is in error and covered only in part, or of any write to DRAM after
an alarm erasure. -/
def State.partBadWord (s : State) (a n : Nat) : Option Nat :=
  (wordsOf a n).find? fun w => (!covers a n w || s.module.alarm == 2) && (s.badWord w 8).isSome
def State.partBad (s : State) (a n : Nat) : Bool := (s.partBadWord a n).isSome

/-- R288: the faulting address of a refused write: the first word in error where it writes several. -/
def State.writeTval (s : State) (cause : Nat) (va : Word) (a n : Nat) : Word :=
  if cause = 0x0F ∧ 8 < n then va + BitVec.ofNat 64 ((s.partBadWord a n).getD a - a) else va

/-- R59: a plain store of n bytes. -/
def State.plainStore (s : State) (va : Word) (n v : Nat) : State :=
  s.afterRows fun s => s.withAccess .store va n fun s key t =>
    if s.attracts key t then s.attract (keyCore key)
    else if s.ownSlice key then
      if s.me.loadIds ≠ [] ∨ s.ownerOk key s.me.owner false ∧ s.zeroing key then s.notReady .memory
      else if !s.ownerOk key s.me.owner false then (s.retire).report s.cur s.me.ember 0x10 va
      else if s.partBad key n then (s.retire).report s.cur s.me.ember 0x0F va
      else ((s.scrub key n).homeWrite key n v).retire
    else if !s.countRoom true 1 then s.notReady .memory
    else
      let (id, s) := (s.countFar key 8).requestAfter s.me.loadIds .farStoreAtHome { s.flightOf va key with size := n, data := BitVec.ofNat 1024 v }
      (s.track s.cur id true key).retire

/-! At the home. -/

/-- A reply of flight f under its own number, leaving its home at clk t. -/
def State.reply (s : State) (id t : Nat) (mk : Nat → Instr) (f : Flight) : State :=
  { s with flights := Tab.set s.flights id { f with next := mk id } }.carry id f.dst f.src t (mk id)

/-- What a home finds wrong with an access: the owner violation (R219), then an uncorrectable error (R296). -/
def State.storageFault (s : State) (f : Flight) (key n : Nat) : Option Nat :=
  if !s.ownerOk key f.owner f.ro then some 0x10 else if (s.badWord key n).isSome then some 0x0F else none

/-- R32: what the keys of a read of several words meet: the first owner violation, or else the first uncorrectable
error, with its place. -/
def State.keysFault (s : State) (owner : BitVec 8) (ro : Bool) (n : Nat) (keys : List Nat) : Option (Nat × Nat) :=
  match keys.findIdx? fun a => !s.ownerOk a owner ro with
  | some i => some (0x10, i)
  | none => (keys.findIdx? fun a => (s.badWord a n).isSome).map fun i => (0x0F, i)

/-- R245: the words that a read of several words takes, of a size each: its keys. -/
def Flight.words (f : Flight) : Nat × List Nat :=
  let at_ (n : Nat) : List Nat := (List.range n).map fun i => f.key + 8 * i
  if f.op = opRow then (8, at_ 16)
  else if f.op = opWindow then (8, at_ 512)
  else (if f.op = opBlock ∨ f.op = opPeer then 8 else if f.op = opGather then 4 else 1, f.args.map (·.toNat))

/-- The 16 words of a row, lowest first. -/
def rowOfWords (l : List Word) : Row := BitVec.ofNat 1024 (l.foldr (fun w n => n * 2 ^ 64 + w.toNat) 0)

/-- R245: how many of n words of an access are performed now; the others follow in the same clk, behind what else
arrives in it. Log 57. -/
def State.split (s : State) (n : Nat) : Nat × State :=
  let (d, s) := s.openTime
  (1 + d % n, s)

/-- The request of a flight writes. -/
def Flight.writes (f : Flight) : Bool :=
  match f.next with
  | .farLoadAtHome _ => false
  | .versionedLoadAtHome _ => f.aux == 1
  | _ => true

/-- The event waits for zeroing at the home of a key. -/
def State.heldAt (s : State) (key : Nat) (i : Instr) : Bool :=
  if 2 ^ 44 ≤ key then (s.core (keyCore key)).sliceHeld.contains i else (s.home (keyHome key)).zeroHeld.any (·.2 == i)

/-- The event is the arrival of a request at its home, or goes on with one there. -/
def atHome : Instr → Bool
  | .appendAtHome _ => true
  | i => (storageRequest i).isSome

/-- R246: an earlier store of the same ember at the home of f that is still to be performed: all of it, behind zeroing, if f
writes, or the rest of it. -/
def State.earlier (s : State) (f : Flight) : Option Flight :=
  (storageRequest f.next).bind fun id =>
    (List.find? (fun p => decide (p.1 < id) && p.2.slot == f.slot && p.2.ember == f.ember && p.2.writes
      && keyHome p.2.key == keyHome f.key && atHome p.2.next
      && (p.2.part != 0 || f.writes && (storageRequest p.2.next).isSome && s.heldAt p.2.key p.2.next)) s.flights).map (·.2)

/-- R220, R246: the request must wait until the storage of its key is zeroed, or behind an earlier store; one of another owner
fails at once. -/
def State.waitsZero (s : State) (f : Flight) : Bool :=
  s.ownerOk f.key f.owner f.ro && (s.zeroing f.key || (s.earlier f).isSome)

/-- Where such a request waits: for the zeroing of its own storage, or of that of the earlier store, or for the rest of that. -/
def State.holdHome (s : State) (f : Flight) (i : Instr) : State :=
  if s.zeroing f.key then s.holdZero f.key i
  else match s.earlier f with
    | some g => if s.heldAt g.key g.next then s.holdZero g.key i else s.postRank s.now 4 i
    | none => s

/-- R217: the value of a scalar read, or the tag, with what the home finds wrong. -/
def State.scalarReply (s : State) (f : Flight) : Flight :=
  if f.op = opTag then { f with data := (s.tag f.key).setWidth 1024, cause := (s.storageFault f f.key 8).getD 0, tval := f.va }
  else { f with
    data := BitVec.ofNat 1024 (s.read f.key f.size), cause := (s.storageFault f f.key f.size).getD 0, tval := f.va }

/-- R243, R288: the reply to a read of several words, which have all been taken. -/
def State.wordsReply (s : State) (f : Flight) : Flight :=
  let (n, keys) := f.words
  match s.keysFault f.owner f.ro n keys with
  | some (c, i) =>
    let a := keys.getD i 0
    { f with cause := c, tval := if f.op = opBlock then f.va + BitVec.ofNat 64 (8 * i)
      else if 2 ^ 44 ≤ a then storeAddr a else f.va + BitVec.ofNat 64 (a - f.key) }
  | none => { f with args := f.took, data := rowOfWords f.took, cause := 0, tval := f.va }

/-- R217, R243: a home takes the value of a read and replies; what a slot's own slice supplies is there at once, and after
35 clk where it fills the window (R173). -/
def State.serveRead (s : State) (flight : Nat) : State :=
  match s.flight? flight with
  | none => s
  | some f =>
    if s.waitsZero f then s.holdHome f (.farLoadAtHome flight)
    else if f.op = opScalar ∨ f.op = opTag then
      let (t, s) := (s.scrub f.key 8).service f.key
      s.reply flight (s.now + t + s.clk (coreField f.dst) (extraFlits f.size)) .loadReply (s.scalarReply f)
    else
      let (n, keys) := f.words
      let left := keys.drop f.took.length
      let (j, s) := if f.took = [] ∧ 1 < left.length then s.split left.length else (left.length, s)
      -- a word of 8 bytes is never split
      let j := j + ((left.drop j).takeWhile fun a => a / 8 == left.getD (j - 1) 0 / 8).length
      let s := (left.take j).foldl (fun t a => t.scrub a n) s
      let f := { f with took := f.took ++ (left.take j).map fun a => BitVec.ofNat 64 (s.read a n) }
      if j < left.length then
        { s with flights := Tab.set s.flights flight f }.postRank s.now (s.arrivalRank (.farLoadAtHome flight))
          (.farLoadAtHome flight)
      else if f.near then
        { s with flights := Tab.set s.flights flight { s.wordsReply f with next := .loadReply flight } }.post
          (s.now + if f.op = opWindow then s.clk (coreField f.src) 35 + 1 else 0) (.loadReply flight)
      else
        let (t, s) := s.service f.key
        let extra := if f.op = opWindow then 95 else extraFlits f.size
        s.reply flight (s.now + t + s.clk (coreField f.dst) extra) .loadReply (s.wordsReply f)

/-- R217, R243. -/
def execFarLoadAtHome (flight : Nat) (s : State) : Out State := .next (s.serveRead flight)

/-- R219, R296: what a home answers to a write of n bytes: 0, or the cause of its refusal. -/
def State.writeFault (s : State) (owner : BitVec 8) (a n : Nat) : Nat :=
  if !s.ownerOk a owner false then 0x10 else if s.partBad a n then 0x0F else 0

/-- R219, R296: a home performs a write, or answers the cause of its refusal. -/
def State.tryWrite (s : State) (owner : BitVec 8) (a n v : Nat) : Nat × State :=
  if s.writeFault owner a n = 0 then (0, (s.scrub a n).homeWrite a n v) else (s.writeFault owner a n, s)

/-- R345, R347: an acknowledgement goes back to a peer. -/
def State.sendFrame (s : State) (device : Nat) (ws : List Word) (data : Row) : State :=
  s.modModule fun m => { m with peerOut := m.peerOut ++ [(device, none, ws, data)] }

/-- R217, R219: a home performs or refuses a write, and acknowledges. A refused store has no effect. A store to the slot's
own slice needs no acknowledgement (R30). -/
def State.serveWrite (s : State) (flight : Nat) : State :=
  match s.flight? flight with
  | none => s
  | some f =>
    if s.waitsZero f then s.holdHome f (.farStoreAtHome flight)
    else
      let c := s.writeFault f.owner f.key f.size
      let tval := s.writeTval c f.va f.key f.size
      let left := (f.key % 8 + f.size + 7) / 8
      let (j, s) := if c = 0 ∧ f.part = 0 ∧ 1 < left then s.split left else (left, s)
      let n := if f.part = 0 then min (8 * j - f.key % 8) f.size else f.size - f.part
      let s := if c = 0 then
          (s.scrub f.key f.size).homeWrite (f.key + f.part) n (f.data.toNat / 2 ^ (8 * f.part)) else s
      if c = 0 ∧ f.part + n < f.size then
        { s with flights := Tab.set s.flights flight { f with part := f.part + n } }.postRank s.now
          (s.arrivalRank (.farStoreAtHome flight)) (.farStoreAtHome flight)
      else if f.near then
        if f.op = opPeer then (s.land flight).sendFrame f.aux [2, 0, s.module.devnum.setWidth 64, BitVec.ofNat 64 f.key] 0
        else if c = 0 then s.land flight else (s.land flight).report f.slot f.ember c tval
      else
        let (t, s) := s.service f.key
        s.reply flight (s.now + t) .acknowledgement { f with cause := c, tval := tval }

/-- R217, R219. -/
def execFarStoreAtHome (flight : Nat) (s : State) : Out State := .next (s.serveWrite flight)

/-- R142, R246: what a core holds leaves once everything it waits for is done, in the order issued. -/
def State.releaseHeld (s : State) (c id : Nat) : State :=
  let left := (s.core c).held.map fun (m, w) => (m, w.filter (· != id))
  let s := s.modCore c fun v => { v with held := left.filter fun e => e.2 != [] }
  (left.filter fun e => e.2 == []).foldl (fun t e =>
    match t.flight? e.1 with
    | some f => t.depart e.1 t.now true f
    | none => t) s

/-! The instructions of R59. -/

/-- R35: the effective address of a load or store. -/
def State.ea (s : State) (rs1 : Reg) (imm : BitVec 12) : Word := s.x rs1 + immWord imm

/-- R59: LB. -/
def execLb (rd rs1 : Reg) (imm12 : BitVec 12) (s : State) : Out State := .next (s.plainLoad rd (s.ea rs1 imm12) 1 true false)
/-- R59: LH. -/
def execLh (rd rs1 : Reg) (imm12 : BitVec 12) (s : State) : Out State := .next (s.plainLoad rd (s.ea rs1 imm12) 2 true false)
/-- R59: LW. -/
def execLw (rd rs1 : Reg) (imm12 : BitVec 12) (s : State) : Out State := .next (s.plainLoad rd (s.ea rs1 imm12) 4 true false)
/-- R59: LD. -/
def execLd (rd rs1 : Reg) (imm12 : BitVec 12) (s : State) : Out State := .next (s.plainLoad rd (s.ea rs1 imm12) 8 true false)
/-- R59: LBU. -/
def execLbu (rd rs1 : Reg) (imm12 : BitVec 12) (s : State) : Out State := .next (s.plainLoad rd (s.ea rs1 imm12) 1 false false)
/-- R59: LHU. -/
def execLhu (rd rs1 : Reg) (imm12 : BitVec 12) (s : State) : Out State := .next (s.plainLoad rd (s.ea rs1 imm12) 2 false false)
/-- R59: LWU. -/
def execLwu (rd rs1 : Reg) (imm12 : BitVec 12) (s : State) : Out State := .next (s.plainLoad rd (s.ea rs1 imm12) 4 false false)
/-- R62: FLW. -/
def execFlw (rd rs1 : Reg) (imm12 : BitVec 12) (s : State) : Out State := .next (s.plainLoad rd (s.ea rs1 imm12) 4 false true)
/-- R59: SB. -/
def execSb (rs1 rs2 : Reg) (imm12 : BitVec 12) (s : State) : Out State := .next (s.plainStore (s.ea rs1 imm12) 1 (s.x rs2).toNat)
/-- R59: SH. -/
def execSh (rs1 rs2 : Reg) (imm12 : BitVec 12) (s : State) : Out State := .next (s.plainStore (s.ea rs1 imm12) 2 (s.x rs2).toNat)
/-- R59: SW. -/
def execSw (rs1 rs2 : Reg) (imm12 : BitVec 12) (s : State) : Out State := .next (s.plainStore (s.ea rs1 imm12) 4 (s.x rs2).toNat)
/-- R59: SD. -/
def execSd (rs1 rs2 : Reg) (imm12 : BitVec 12) (s : State) : Out State := .next (s.plainStore (s.ea rs1 imm12) 8 (s.x rs2).toNat)
/-- R62: FSW. -/
def execFsw (rs1 rs2 : Reg) (imm12 : BitVec 12) (s : State) : Out State := .next (s.plainStore (s.ea rs1 imm12) 4 (s.fp rs2).toNat)

/-! Blocks that an instruction reads as loads (R138, R188, R270, R282). -/

/-- The keys of n consecutive 8-byte words, or the first trap or lookup. -/
def State.wordKeys (s : State) (va : Word) : Nat → Xlat × List Nat × Bool
  | 0 => (.miss, [], true)
  | n + 1 =>
    match s.access s.cur .load va 8 with
    | .ok key _ =>
      match s.wordKeys (va + 8) n with
      | (x, l, true) => (x, key :: l, true)
      | (x, l, false) => (x, l, false)
    | x => (x, [], false)

/-- R243: the reads of a block: its words by page, each with the index of its first word, its keys and its leaf. -/
def State.blockParts (s : State) (va : Word) (n : Nat) (keys : List Nat) : List (Nat × List Nat × Option TlbEntry) :=
  let first := min n ((2 ^ 16 - va.toNat % 2 ^ 16 + 7) / 8)
  let part (i : Nat) (l : List Nat) : Nat × List Nat × Option TlbEntry :=
    (i, l, match s.access s.cur .load (va + BitVec.ofNat 64 (8 * i)) 8 with
      | .ok _ t => t
      | _ => none)
  if first = n ∨ keyHome (keys.getD 0 0) = keyHome (keys.getD first 0) then [part 0 keys]
  else [part 0 (keys.take first), part first (keys.drop first)]

/-- R30, R243: the reads of a block whose words do not all stand in the slot's own slice go to the homes of the words, and
the slot waits, not ready on memory; what stands in the own slice is read at once. -/
def State.farBlock (s : State) (va : Word) (parts : List (Nat × List Nat × Option TlbEntry)) : State :=
  let near := parts.filter fun p => p.2.1.all s.ownSlice
  let far := parts.filter fun p => !p.2.1.all s.ownSlice
  if !s.countRoom false 1 || s.storesHeld s.cur then s.notReady .memory
  else
    let s := s.issued s.cur
    let flight (p : Nat × List Nat × Option TlbEntry) : Flight :=
      { s.flightOf (va + BitVec.ofNat 64 (8 * p.1)) (p.2.1.headD 0) with
        size := 8 * p.2.1.length, op := opBlock, args := p.2.1.map (BitVec.ofNat 64), aux := p.1, ro := readOnly p.2.2,
        bytes := (near.map fun q => q.2.1.map s.read64).flatten }
    let send (s : State) (p : Nat × List Nat × Option TlbEntry) (pair : Option Nat) : Nat × State :=
      let (id, s) := ((s.countFar (p.2.1.headD 0) 7).replicaRead p.2.2).request .farLoadAtHome { flight p with pair := pair }
      (id, s.addOut s.cur ⟨id, false, keyCore (p.2.1.headD 0), none, false, pair⟩)
    (match far with
      | [a, b] =>
        let (i, s) := send s a none
        let (j, s) := send s b (some i)
        { s with flights := match Tab.find? s.flights i with
          | some f => Tab.set s.flights i { f with pair := some j }
          | none => s.flights }
      | [a] => (send s a none).2
      | _ => s).await .memory

/-- Reads n words as loads, behind the ember's row accesses (R172); the instruction goes on with them once they have
arrived. A trap names the address of the word that takes it (R288). -/
def State.withBlock (s : State) (va : Word) (n : Nat) (next : State → List Word → State) : State :=
  match s.me.block with
  | some l => next s l
  | none => s.afterRows fun s =>
    match s.wordKeys va n with
    | (.trap c v, _, false) => s.trap c v
    | (_, _, false) =>
      let miss := (List.range n).find? fun i => s.access s.cur .load (va + BitVec.ofNat 64 (8 * i)) 8 == .miss
      s.lookup (va + BitVec.ofNat 64 (8 * miss.getD 0))
    | (_, keys, true) =>
      let mine := keys.filter s.ownSlice
      match s.keysFault s.me.owner false 8 mine with
      | some (c, i) =>
        if c ≠ 0x10 ∧ mine.any s.zeroing then s.notReady .memory
        else s.trap c (va + BitVec.ofNat 64 (8 * (keys.findIdx? (· == mine.getD i 0)).getD 0))
      | none =>
        if mine.any s.zeroing then s.notReady .memory
        else
          let s := mine.foldl (fun t a => t.scrub a 8) s
          if keys.all s.ownSlice then next s (keys.map s.read64) else s.farBlock va (s.blockParts va n keys)

/-! Fences and counts. -/

/-- R235: the homes within a scope of a core: 0 core, 1 cluster, 2 field, 3 the wafer. -/
def inScope (scope core home : Nat) : Bool :=
  if scope = 0 then core == home else if scope = 1 then core / 8 == home / 8
  else if scope = 2 then core / 1024 == home / 1024 else true

/-- R150, R235: a fence of a scope; `fnc.s` also waits for the copy count. -/
def State.fence (s : State) (scope : Nat) (copies : Bool) (next : State → State) : State :=
  s.afterRows fun s =>
    let v := s.me
    s.holdUntil (!(v.outs.any (fun o => inScope scope (slotCore s.cur) o.home) || (copies && decide (v.copies ≠ 0)))) next

/-- R60: FENCE. -/
def execFence (s : State) : Out State := .next (s.fence 3 false (·.retireHeld))
/-- R60: FENCE.I also discards the words fetched ahead. -/
def execFenceI (s : State) : Out State := .next (s.fence 3 false fun s => (s.modMe fun v => { v with ahead := [] }).retireHeld)
/-- R235: fnc.c. -/
def execFncC (s : State) : Out State := .next (s.fence 0 false (·.retireHeld))
/-- R235: fnc.l. -/
def execFncL (s : State) : Out State := .next (s.fence 1 false (·.retireHeld))
/-- R235: fnc.f. -/
def execFncF (s : State) : Out State := .next (s.fence 2 false (·.retireHeld))
/-- R235: fnc.w. -/
def execFncW (s : State) : Out State := .next (s.fence 3 false (·.retireHeld))
/-- R235: fnc.s. -/
def execFncS (s : State) : Out State := .next (s.fence 3 true (·.retireHeld))
/-- R286: waitc waits until every count is at or below its limit. The gloss beside the example of R41 ("leaves the other
three counts free (limit 7)") reads a limit of 7 as none at all; the model follows R286. DESIGN CHOICE, log 70. -/
def execWaitc (l s' c t : BitVec 3) (s : State) : Out State :=
  let v := s.me
  .next (s.holdUntil (decide (v.loads ≤ l.toNat ∧ v.stores ≤ s'.toNat ∧ v.copies ≤ c.toNat ∧ v.tiles ≤ t.toNat)) (·.retireHeld))

end Sys2Proof.Machine
end

