-- ==== Sys2Proof/Machine/Csr.lean ====
section
/-! DEFINITION. State registers and the CSR instructions (spec/01, R14 to R24; spec/03, R68 to R70). -/

namespace Sys2Proof.Machine

/-- R23: `devcap`; CLUSTERS and CORES follow from the map of the boot image. -/
def Module.devcap (m : Module) : Word :=
  BitVec.ofNat 64 (m.stepping.toNat * 2 ^ 48 + m.boot.clusters * 2 ^ 32 + m.boot.cores * 2 ^ 16
    + m.variant.toNat * 2 ^ 6 + (if m.peer then 32 else 0) + m.wafers.toNat)

/-- R14, R16: the value of a state register of the current slot; none for a number that does not exist. -/
def State.csrRead (s : State) (c : Nat) : Option Word :=
  let v := s.me
  let core := s.core (slotCore s.cur)
  let m := s.module
  match c with
  | 0x001 => some (v.fflags.setWidth 64)
  | 0x002 => some (v.frm.setWidth 64)
  | 0x003 => some ((v.frm ++ v.fflags).setWidth 64)
  | 0x800 => some (BitVec.ofNat 64 (slotIdx s.cur))
  | 0x801 => some (coreloc s.cur)
  | 0x802 => some (BitVec.ofNat 64 v.ember)
  | 0x803 => some (v.livemap.setWidth 64)
  | 0x804 => some (v.stage.setWidth 64)
  | 0x805 => some (v.vtype.setWidth 64)
  | 0x806 => some v.vmk
  | 0x807 => some v.vmkh
  | 0x808 => some (v.tgroup.setWidth 64)
  | 0x809 => some v.tstatus
  | 0x80A => some (v.parklimit.setWidth 64)
  | 0x80B => some (match s.deadlineOf v.ember with
    | some (_, d) => BitVec.ofNat 64 (2 ^ 63 + (d.ends - s.now) % 2 ^ 40)
    | none => 0)
  | 0x80C => some (BitVec.ofNat 64 (s.counter (slotField s.cur)))
  | 0x80D => some m.devcap
  | 0x5C0 => some (v.trapvec.setWidth 64)
  | 0x5C1 => some (v.trappc.setWidth 64)
  | 0x5C2 => some (v.trapcause.setWidth 64)
  | 0x5C3 => some v.trapval
  | 0x5C4 => some v.tscratch
  | 0x5C5 => some (v.asid.setWidth 64)
  | 0x5C6 => some (v.owner.setWidth 64)
  | 0x5C7 => some (BitVec.ofNat 64 ((if v.accHeld then 256 else 0) + v.accWin.toNat))
  | 0x5C8 => some (core.mweight.setWidth 64)
  | 0x5C9 => some (BitVec.ofNat 64 ((if core.sigKill then 2 else 0) + (if core.sigEn then 1 else 0)))
  | 0x5CA => some (BitVec.ofNat 64 ((if v.busy then 2 else 0) + (if v.pp = .supervisor then 1 else 0)))
  | _ => none

/-- R69: registers with no field that software may write. -/
def csrReadOnly (c : Nat) : Bool := [0x800, 0x801, 0x802, 0x804, 0x809, 0x80B, 0x80C, 0x80D, 0x5C6].contains c

/-- R146: another slot of the core holds the window. -/
def State.windowTaken (s : State) (k win : Nat) : Bool :=
  (List.range 8).any fun i =>
    let j := 8 * slotCore k + i
    j != k && (s.slot j).accHeld && (s.slot j).accWin.toNat == win

/-- R8, R17, R20, R24: a write of the RW fields of a state register of the current slot. -/
def State.csrWrite (s : State) (c : Nat) (w : Word) : State :=
  let k := slotCore s.cur
  match c with
  | 0x001 => s.modMe fun v => { v with fflags := w.setWidth 5 }
  | 0x002 => s.modMe fun v => { v with frm := w.setWidth 3 }
  | 0x003 => s.modMe fun v => { v with fflags := w.setWidth 5, frm := w.extractLsb' 5 3 }
  | 0x803 => s.modMe fun v => { v with livemap := w.setWidth 36 }
  | 0x805 => s.modMe fun v => { v with vtype := w.setWidth 9 }
  | 0x806 => s.modMe fun v => { v with vmk := w }
  | 0x807 => s.modMe fun v => { v with vmkh := w }
  | 0x808 => s.modMe fun v => { v with tgroup := w.setWidth 16 }
  | 0x80A => s.modMe fun v => { v with parklimit := w.setWidth 40 }
  | 0x5C0 => s.modMe fun v => { v with trapvec := w.setWidth 56 &&& ~~~ 3 }
  | 0x5C1 => s.modMe fun v => { v with trappc := w.setWidth 56 }
  | 0x5C2 => s.modMe fun v => { v with trapcause := w.setWidth 9 }
  | 0x5C3 => s.modMe fun v => { v with trapval := w }
  | 0x5C4 => s.modMe fun v => { v with tscratch := w, busy := false }
  | 0x5C5 => s.modMe fun v => { v with asid := w.setWidth 12, ahead := [] }
  | 0x5C7 =>
    if w.getLsbD 8 && s.windowTaken s.cur (w.toNat % 8) then s
    else s.modMe fun v => { v with accHeld := w.getLsbD 8, accWin := w.setWidth 3 }
  | 0x5C8 => s.modCore k fun x => { x with mweight := if w.toNat % 16 = 0 then 1 else w.setWidth 4 }
  | 0x5C9 =>
    let s := s.modCore k fun x => { x with sigKill := w.getLsbD 1, sigEn := w.getLsbD 0 }
    if w.getLsbD 0 then s
    else (List.range 8).foldl (fun t i => t.modSlot (8 * k + i) fun v => { v with sig := none }) s
  | 0x5CA => s.modMe fun v => { v with busy := w.getLsbD 1, pp := if w.getLsbD 0 then .supervisor else .user }
  | _ => s

/-- R150: `vmk`, `vmkh`, `fflags` and `fcsr` wait for the sequence buffer. -/
def csrWaits (c : Nat) : Bool := [0x806, 0x807, 0x001, 0x003].contains c

/-- R15, R68: one CSR instruction: reads, writes `f t` if `writes`, and writes the old value to rd. -/
def State.csrOp (s : State) (rd : Reg) (csr : BitVec 12) (writes : Bool) (f : Word → Word) : State :=
  let c := csr.toNat
  match s.csrRead c with
  | none => s.illegal
  | some t =>
    if s.me.level == .user && decide (0x5C0 ≤ c ∧ c ≤ 0x5FF) then s.illegal
    else if writes && csrReadOnly c then s.illegal
    else if csrWaits c && s.me.vbuf != [] then s.notReady .memory
    else ((if writes then s.csrWrite c (f t) else s).setX rd t).retire

/-- R68: CSRRW. -/
def execCsrrw (rd rs1 : Reg) (csr : BitVec 12) (s : State) : Out State :=
  .next (s.csrOp rd csr true fun _ => s.x rs1)
/-- R68: CSRRS. -/
def execCsrrs (rd rs1 : Reg) (csr : BitVec 12) (s : State) : Out State :=
  .next (s.csrOp rd csr (rs1 != 0) fun t => t ||| s.x rs1)
/-- R68: CSRRC. -/
def execCsrrc (rd rs1 : Reg) (csr : BitVec 12) (s : State) : Out State :=
  .next (s.csrOp rd csr (rs1 != 0) fun t => t &&& ~~~ s.x rs1)
/-- R68: CSRRWI. -/
def execCsrrwi (rd z : BitVec 5) (csr : BitVec 12) (s : State) : Out State :=
  .next (s.csrOp rd csr true fun _ => z.setWidth 64)
/-- R68: CSRRSI. -/
def execCsrrsi (rd z : BitVec 5) (csr : BitVec 12) (s : State) : Out State :=
  .next (s.csrOp rd csr (z != 0) fun t => t ||| z.setWidth 64)
/-- R68: CSRRCI. -/
def execCsrrci (rd z : BitVec 5) (csr : BitVec 12) (s : State) : Out State :=
  .next (s.csrOp rd csr (z != 0) fun t => t &&& ~~~ z.setWidth 64)

end Sys2Proof.Machine
end

