-- ==== Sys2Proof/Machine/EmberOps.lean ====
section
/-! DEFINITION. The ember, dispenser and message instructions (spec/06, R129 to R145) and the events of slots, ready
queues, dispensers, deadlines, parks and messages (spec/05). -/

namespace Sys2Proof.Machine

/-! spawn, exit, yield, park, roam. -/

/-- R132: creates a ready ember. -/
def execSpawn (rd rs1 rs2 : Reg) (s : State) : Out State :=
  .next (s.userOnly fun s =>
    let e := s.x rs1
    let v := s.me
    if e.toNat / 2 ^ 55 ≠ 0 then s.trap 0x14 e
    else if e.getLsbD 1 then s.trap 0x02 e
    else s.release fun s =>
      match s.regionOf (slotCore s.cur) with
      | none => (s.setX rd 0).retire
      | some (r, g) => match g.records with
        | [] => (s.setX rd 0).retire
        | a :: rest =>
          let id := a.toNat / 64
          let roam := e.getLsbD 0
          let t := s.modRegion r fun g => { g with records := rest }
          let t := t.hwWrite v.asid a 8 (v.stage.toNat * 2 ^ 56 + bits e.toNat 2 53 * 4)
          let t := t.hwWrite v.asid (a + 8) 8 (recordWord1 0 stReady v.asid.toNat v.frm.toNat 0 false roam 10)
          let t := t.hwWrite v.asid (a + 16) 8 (s.x rs2).toNat
          let t := t.hwWrite v.asid (a + 24) 40 0
          let t := t.modInfo id fun _ => { core := slotCore s.cur, region := r }
          let t := if roam then t.queueCore (slotCore s.cur) id else t.queueCluster (slotCluster s.cur) id
          (t.setX rd (BitVec.ofNat 64 id)).retire)

/-- R133, R285: an entry of the sequence buffer that will store, send or become a tile operation. -/
def VEntry.stores (e : VEntry) : Bool := e.op == .sr || e.op == .qnt || e.op == .sendV || e.op == .tile

/-- The rows of the window that an entry reads or writes. -/
def VEntry.rows (e : VEntry) : List Nat :=
  let b := if e.form = .vv then [e.vs2] else []
  match e.op with
  | .ceq | .cne | .clt | .cle => e.vs1 :: b
  | .bc | .lr | .dqnt | .recvV => [e.vd]
  | .rsum | .rmax | .rmin | .get | .qnt => [e.vs1]
  | .sr | .sendV => [e.vs2]
  | .lrg => [e.vd, e.vs2]
  | .perm | .amul => [e.vd, e.vs1, e.vs2]
  | .tile => match e.tile.kind with
    | .gth => [e.tile.vs]
    | .sct => []
    | _ => (List.range 16).map (16 * e.tile.half + ·)
  | _ => [e.vd, e.vs1] ++ b

/-- R161: a body entry in round j of its repetition. -/
def VEntry.advance (e : VEntry) (r : Repeat) : VEntry :=
  let adv (i n : Nat) : Nat := if r.mask / 2 ^ i % 2 = 1 then (n + r.round * r.stride) % 32 else n
  { e with vd := adv 0 e.vd, vs1 := adv 1 e.vs1, vs2 := adv 2 e.vs2 }

/-- The entry to execute next; none while the words of a repeat body have not all issued. -/
def Slot.head (v : Slot) : Option VEntry :=
  match v.vbuf, v.rep with
  | [], _ => none
  | e :: _, some r =>
    if !e.body then some e else if r.left ≠ 0 then none else (v.vbuf[r.place]?).map (·.advance r)
  | e :: _, none => some e

/-- R133, R149, R151: what stands in the sequence buffer delays an exit: what stores, sends or becomes a tile operation, and an
entry that the vector unit can execute, whose flags then stand in the cluster's union. What waits for the data of far loads
does not. -/
def Slot.holdsExit (v : Slot) : Bool :=
  v.vbuf.any (·.stores) || v.head.any fun e => !(v.rowPend.any (fun p => e.rows.contains p.2)
    || ([VOp.lr, .lrg, .dqnt].contains e.op && decide (63 ≤ v.loads)))

/-- R133: the ember of slot k leaves for good; what its loads still bring is discarded. -/
def State.exits (s : State) (k : Nat) : State :=
  let v := s.slot k
  let e := v.ember
  let s := ((s.itemDone v.item).freeReserved (slotCore k) e).orphan k e
  let s := (s.killProducer k e).modSlot k fun v => { v with accHeld := false, vbuf := [] }
  (s.vacate k).retireRecord e

/-- R133: retires the ember. Its stores, messages, copies and tile operations come first, and what its sequence buffer can
still execute, but not its far loads (R248); the counter stops at its first cycle (R140). A signature block whose last instruction
it is has been counted once the ember is gone (R76, rule 6): a mismatch kills the slot, or, since no instruction follows
that could trap, is only recorded. DESIGN CHOICE, log 56. -/
def execExit (s : State) : Out State :=
  .next (s.userOnly fun s =>
    let k := s.cur
    let s := s.stopDeadline s.me.ember
    let v := s.me
    s.holdUntil (decide (v.stores = 0 ∧ v.copies = 0 ∧ v.tiles = 0 ∧ v.imp = none ∧ v.pend = []) && !v.holdsExit) fun s =>
      let s := s.issued k
      match v.badAtExit with
      | none => s.exits k
      | some g =>
        if (s.core (slotCore k)).sigKill then
          ((s.exits k).modSlot k fun v => { v with
            mode := .stopped, killReq := some 5, got := some g.value, cmdBusy := true }).post (s.nextIssue k (s.now + 1)) (.slotKill k)
        else (s.slotRecord k 5 1 [g.value]).exits k)

/-- R134: lets the other queued embers go first. -/
def execYield (s : State) : Out State :=
  .next (s.userOnly fun s =>
    if s.me.bound then s.retire
    else
      let s := s.retire
      if s.me.trapNow.isSome ∨ s.me.killReq.isSome then s else s.suspend s.cur)

/-- R135: suspends the ember until a doorbell event. -/
def execPark (s : State) : Out State :=
  .next (s.userOnly fun s =>
    let c := slotCore s.cur
    let s := s.issued s.cur
    if s.me.bound ∨ 32 ≤ (s.core c).bells.length then (s.parkHere s.cur .bell).seat s.cur
    else ((s.modCore c fun v => { v with bells := v.bells ++ [s.me.ember] }).beginPark s.cur .bell).suspend s.cur)

/-- R136, R216: moves the ember to the core beneath the home of an address. -/
def execRoam (rs1 : Reg) (s : State) : Out State :=
  .next (s.userOnly fun s =>
    let a := s.x rs1
    s.withAccess .roam a 1 fun s key _ =>
      let v := s.me
      let c := keyCore key
      if v.bound ∨ v.livemap.toNat = fullMap then s.trap 0x06 a
      else if c ≠ slotCore s.cur ∧ ((s.core c).region ≠ (s.core (slotCore s.cur)).region ∨ (s.core c).region = none)
      then s.trap 0x06 a
      else if inStore a && !s.ownerOk key v.owner false then s.trap 0x10 a
      else if c = slotCore s.cur then s.retire
      else if v.drained then
        let s := s.retire
        if s.me.trapNow.isSome ∨ s.me.killReq.isSome then s
        else ((s.modMe fun v => { v with got := some (BitVec.ofNat 64 c) }).await .memory).post s.now (.attractionMove s.cur)
      else s.notReady .memory)

/-! wfw, dput, dlarm, dldone. -/

/-- R137: ends the current item and waits for the next one. -/
def execWfw (s : State) : Out State :=
  .next (s.userOnly fun s => s.release fun s =>
    let k := s.cur
    let v := s.me
    let s := ((s.issued k).stopDeadline v.ember).itemDone v.item
    let s := (s.modSlot k fun v => { v with item := none, seated := true }).setState v.asid v.ember stWork v.bound
    let s := s.parkHere k .work
    (s.modDisp (slotCluster k) fun d => { d with waiting := d.waiting.filter (· != k) ++ [k] }).dispense (slotCluster k))

/-- The region of a cluster's dispenser. -/
def State.clusterRegion (s : State) (cl : Nat) : Option (Nat × Region) :=
  (List.range 8).findSome? fun i => s.regionOf (8 * cl + i)

/-- R113: the items of a dispenser in the overflow rings of its region, in the order of arrival. -/
def State.ring (s : State) (cl : Nat) : List WorkItem :=
  match s.clusterRegion cl with
  | some (_, g) => (g.rings.filter (·.1 == cl)).map (·.2)
  | none => []

/-- Items queued at a stage of a dispenser (R116). The rule does not say whether those in an overflow ring, or held for
want of a page, count among them: the model counts both. DESIGN CHOICE, log 71. -/
def State.itemCount (s : State) (cl stage : Nat) : Nat :=
  let d := (s.cluster cl).disp
  ((d.queues.filter (·.stage == stage)).map (·.items.length)).sum
    + ((s.ring cl ++ d.held).filter (·.stage.toNat == stage)).length

/-- R116: the cluster of the region with the fewest items of the stage, the first in logical order on ties. -/
def State.fewest (s : State) (stage : Nat) : List Nat → Option (Nat × Nat)
  | [] => none
  | cl :: rest =>
    let n := s.itemCount cl stage
    match s.fewest stage rest with
    | some (m, c) => if n ≤ m then some (n, cl) else some (m, c)
    | none => some (n, cl)

/-- Sends an item to a dispenser, from a core at clk t (R138). -/
def State.sendItem (s : State) (src cl t : Nat) (stage : Nat) (target : Option Nat) (ws : List Word)
    (item : Option ItemRef) : State :=
  let tgt := match target with
    | some c => c + 1
    | none => 0
  let (l, ch, turn) := match item with
    | some r => (r.launch + 1, r.chunk, r.turn)
    | none => (0, 0, 0)
  let f : Flight :=
    { next := .dispenserItemArrival 0, src := src, dst := s.module.boot.hub cl, aux := cl, op := stage, rd := tgt, key := l,
      size := ch, part := turn, args := ws }
  if s.refused src f.dst f.next then s
  else
  let (id, s) := s.register .dispenserItemArrival f
  if coreCluster src = cl then s.post (t + s.clk (coreField src) 14) (.dispenserItemArrival id)
  else s.post (t + s.pathClk src f.dst + s.clk (clusterField cl) 4) (.dispenserItemArrival id)

/-- R138: posts one work item. -/
def execDput (rd rs1 rs2 : Reg) (s : State) : Out State :=
  .next (s.withBlock (s.x rs1) 5 fun s ws =>
    let k := (s.x rs2).toNat
    let c := slotCore s.cur
    let dest := bits k 32 2
    let lc := bits k 16 16
    let stage := k % 256
    let entry := ws.headD 0
    let cores := match s.regionOf c with
      | some (_, g) => g.cores
      | none => []
    if k / 2 ^ 34 ≠ 0 ∨ bits k 8 8 ≠ 0 ∨ dest = 3 ∨ (dest ≠ 0 ∧ cores.length ≤ lc) ∨ entry.toNat % 4 ≠ 0
    then (s.setX rd 1).retire
    else if s.me.outs ≠ [] then
      -- the words are read; the last reply or acknowledgement lets it go on (R138)
      (((s.issued s.cur).modMe fun v => { v with block := some ws }).await .memory)
    else if (s.cluster (coreCluster c)).poolEmpty then (s.setX rd 2).retire
    else
      let target := cores[lc]?
      let cl := if dest = 0 then
          match (s.regionOf c).bind fun p => s.fewest stage p.2.clusters with
          | some (_, cl) => cl
          | none => coreCluster c
        else coreCluster (target.getD c)
      ((s.sendItem c cl s.now stage (if dest = 2 then target else none) ws none).setX rd 0).retire)

/-- R120, R139: arms the deadline counter of the current item. -/
def execDlarm (rs1 : Reg) (s : State) : Out State :=
  .next (s.userOnly fun s =>
    let v := s.me
    let f := slotField s.cur
    let b := min (s.x rs1).toNat (2 ^ 40 - 1)
    if 16384 ≤ ((s.field f).deadlines.filter (fun d => d.ember != v.ember)).length then s.trap 0x0C (v.stage.setWidth 64)
    else
      let r := ((s.core (slotCore s.cur)).region).getD 0
      let s := (s.stopDeadline v.ember).modField f fun d =>
        { d with deadlines := d.deadlines ++ [⟨v.ember, v.stage, b, s.now + b, r⟩] }
      (s.postRank (s.now + b) 5 (.deadlineExpiry v.ember s.now)).retire)

/-- R139: stops the deadline counter. -/
def execDldone (s : State) : Out State :=
  .next (s.userOnly fun s => (s.stopDeadline s.me.ember).retire)

/-! Messages. -/

/-- R131: the checks of a send: the destination core, or a trap cause. -/
def State.sendCheck (s : State) (owner : BitVec 8) (d : Word) : Except Nat Nat :=
  match coreAt (bits d.toNat 47 9) (bits d.toNat 39 8) with
  | none => .error 0x13
  | some c =>
    if !s.module.boot.enabled c then .error 0x13
    else if (s.core c).owned = some owner then .ok c
    else .error 0x10

/-- R324: the time of the static route of a send, if its entry is valid and its path ends at the destination. -/
def State.staticRoute (s : State) (src dst : Nat) (r : Nat) : Option Nat :=
  let e := Tab.get (s.core src).routes r 0
  if e.getLsbD 63 = false then none
  else match entryPath s.module.boot (routeLegs e) (coreX src) (coreY src) with
    | none => none
    | some p => if p.getLastD (coreX src, coreY src) = (coreX dst, coreY dst) then some (s.pathTime src p) else none

/-- R141, R142, R248, R319: slot k sends n bytes to a queue of core dst. The message waits for every earlier load, store and
message of the ember, of which `before` names those still outstanding. -/
def State.sendMessage (s : State) (k dst : Nat) (d : Word) (n : Nat) (data : Row) (before : List Nat) : State :=
  let v := s.slot k
  let c := slotCore k
  let q := 8 * dst + bits d.toNat 36 3
  let via := s.staticRoute c dst (bits d.toNat 30 6)
  let r := if via.isSome then bits d.toNat 30 6 else 64
  let f : Flight :=
    { next := .messageArrival 0, slot := k, ember := v.ember, src := c, dst := dst, op := q % 8, size := n, data := data,
      via := via }
  let (id, s) := s.requestAfter before .messageArrival f
  s.addOut k ⟨id, true, dst, some (q, r), false, none⟩

/-- R141: sends 8 bytes. -/
def execSend (rs1 rs2 : Reg) (s : State) : Out State :=
  .next (s.afterRows fun s =>
    match s.sendCheck s.me.owner (s.x rs1) with
    | .error c => s.trap c (s.x rs1)
    | .ok dst =>
      if !s.countRoom true 1 then s.notReady .memory
      else (s.sendMessage s.cur dst (s.x rs1) 8 ((s.x rs2).setWidth 1024) (s.me.outs.map (·.id))).retire)

/-- Removes the first message reserved for an ember from a list, or else the first free one. -/
def takeFrom (dest : Nat) : List Msg → Option (Msg × List Msg)
  | [] => none
  | m :: l => if m.dest = dest then some (m, l) else (takeFrom dest l).map fun (x, l) => (x, m :: l)

/-- R143: the message that an ember's receive takes, and the queue without it. -/
def RQueue.take (r : RQueue) (e : Nat) : Option (Msg × RQueue) :=
  let go (d : Nat) : Option (Msg × RQueue) :=
    match takeFrom d r.hw with
    | some (m, l) => some (m, { r with hw := l })
    | none => (takeFrom d r.ring).map fun (m, l) => (m, { r with ring := l })
  match go e with
  | some x => some x
  | none => go 0

/-- R125, R143: a receive of the current slot on the queue of the descriptor: takes its message, or waits. -/
def State.receive (s : State) (d : Word) (next : State → Msg → State) : State :=
  let k := s.cur
  let c := slotCore k
  let q := bits d.toNat 36 3
  let e := s.me.ember
  let r := s.queue c q
  match r.take e with
  | some (m, r') =>
    let s := s.modQueue c q fun _ => r'
    next (if r'.ring = [] then s else s.post s.now (.queueRefill c q)) m
  | none =>
    let s := s.issued k
    if r.waiters.contains e then (s.parkHere k (.queue q d)).seat k
    else if r.later.contains e then s.parkHere k (.queue q d)
    else if r.waiters.length < 8 then
      let s := s.modQueue c q fun r => { r with waiters := r.waiters ++ [e] }
      if s.me.bound then (s.parkHere k (.queue q d)).seat k else (s.beginPark k (.queue q d)).suspend k
    else (s.modQueue c q fun r => { r with later := r.later ++ [e] }).parkHere k (.queue q d)

/-- R143: takes the message at the head of a queue. -/
def execRecv (rd rs1 : Reg) (s : State) : Out State :=
  .next (s.userOnly fun s => s.receive (s.x rs1) fun s m => (s.setX rd (m.data.setWidth 64)).retire)

/-- R144: examines a queue. -/
def execRpoll (rd rs1 : Reg) (s : State) : Out State :=
  let r := s.queue (slotCore s.cur) (bits (s.x rs1).toNat 36 3)
  let free := (r.hw ++ r.ring).filter (·.dest == 0)
  .next ((s.setX rd (match free with
    | [] => 0
    | m :: _ => BitVec.ofNat 64 (m.sx * 2 ^ 48 + m.sy * 2 ^ 40 + (if m.row then 2 ^ 32 else 0) + min free.length (2 ^ 32 - 1)))).retire)

/-! Slots and ready queues. -/

/-- The clk of a far load of n bytes by a core from the home of a key (R110, R326). -/
def State.farClk (s : State) (c key n : Nat) : Nat × State :=
  let (t, s) := s.service key
  (s.pathClk c (keyCore key) + t + s.pathClk (keyCore key) c + s.clk (coreField c) (extraFlits n), s)

/-- R228: the watch entry of an ember at a home. -/
def State.watchOf (s : State) (h e : Nat) : Option Watch := (s.home h).watch.find? fun w => w.ember == e

/-- R110: takes the earlier of the two queue heads; the record, and the cell or watch entry of the ember's wait, are
fetched. R184 says where a consumer cell stands and no rule how long its home takes: the model takes 4 clk, as for a
slice, and a reply of one flit. DESIGN CHOICE, log 58. -/
def execEmberTakeup (slot : Nat) (s : State) : Out State :=
  if nSlots ≤ slot then .fault .noSuchUnit
  else .next (
    let c := slotCore slot
    let cl := coreCluster c
    if (s.slot slot).mode ≠ .vacant ∨ s.frozenAt (coreField c) ∨ !s.module.boot.enabled c then s
    else if (s.slot slot).vacated = some s.now then s.postTakeup slot (s.now + 1)
    else
      let own := (s.core c).ready
      let shared := (s.cluster cl).ready
      let fromCore := match own, shared with
        | (_, a) :: _, (_, b) :: _ => decide (a ≤ b)
        | _ :: _, [] => true
        | [], _ => false
      match (if fromCore then own else shared) with
      | [] => s
      | (e, _) :: _ =>
        let s := if fromCore then s.modCore c fun v => { v with ready := v.ready.tail }
          else s.modCluster cl fun v => { v with ready := v.ready.tail }
        let s := s.modInfo e fun i => { i with queued := false }
        let asid := s.emberAsid e
        let w1 := s.hwRead asid (BitVec.ofNat 64 (64 * e + 8)) 8
        if 9 ≤ bits w1 58 4 ∨ 2 ≤ w1 / 2 ^ 62 then
          ((s.setState asid e stStopped false).errorRecord (coreField c) 8 0 (s.core c).sliceOwner asid (coreloc slot) e
            []).postTakeup slot (s.now + 1)
        else
          let s := s.setState asid e stRunning false
          let key := ((s.recordKey asid e).getD 0)
          let s := s.noteWalk asid (BitVec.ofNat 64 (64 * e))
          let (t, s) := s.farClk c key 64
          let (t', s) := match (s.info e).park with
            | some p => match p.kind with
              | .version _ h => match s.watchOf h e with
                | some w => s.farClk c w.key 8
                | none => (0, s)
              | .answer _ h =>
                let hub := s.module.boot.hub h
                (s.pathClk c hub + s.clk (clusterField h) 4 + s.pathClk hub c, s)
              | _ => (0, s)
            | none => (0, s)
          (s.modSlot slot fun v => { v with
            mode := .active, level := .user, ember := e, asid := asid, due := none, wait := .memory,
            got := some 0 }).post (s.now + max t t') (.emberRestore slot))

/-- R17, R103, R104: what a slot holds once it has read the record of its ember. A record holds 56 bits of the PC, and no
rule says how the 64-bit address of the fetch follows: the model extends them with zeros. DESIGN CHOICE, log 23. -/
def State.restored (s : State) (k : Nat) (e : Nat) : State :=
  let i := s.info e
  let asid := (s.slot k).asid
  let a := BitVec.ofNat 64 (64 * e)
  let w0 := s.hwRead asid a 8
  let w1 := s.hwRead asid (a + 8) 8
  let live := w1 % 2 ^ 36
  let put (v : Slot) (j : Nat) : Slot :=
    let id := bits live (6 * j) 6
    let w := s.hwRead asid (a + 16 + BitVec.ofNat 64 (8 * j)) 8
    if id < 32 then v.setX id (BitVec.ofNat 64 w) else v.setF (id - 32) (BitVec.ofNat 32 w)
  let v := { s.slot k with
    x := [], f := [], pc := BitVec.ofNat 64 (w0 % 2 ^ 56), stage := BitVec.ofNat 8 (w0 / 2 ^ 56),
    asid := BitVec.ofNat 12 (bits w1 46 12), frm := BitVec.ofNat 3 (bits w1 43 3), fflags := BitVec.ofNat 5 (bits w1 38 5),
    noroam := bits w1 36 1 == 1, livemap := BitVec.ofNat 36 live, vtype := 0, vmk := BitVec.allOnes 64,
    vmkh := BitVec.allOnes 64, tgroup := 0, tstatus := 0, parklimit := 0x1000000, moved := i.moving, pend := i.pend,
    imp := i.imp, first := i.first, item := i.item, park := none }
  (s.putSlot k ((List.range 6).foldl put v)).modInfo e fun i =>
    { i with moving := false, pend := [], imp := none, first := false }

/-- R105, R107: the full form: what the save area holds; the area returns to its region. -/
def State.restoredFull (s : State) (k : Nat) (e : Nat) : State :=
  let s := s.restored k e
  let asid := (s.slot k).asid
  let area := BitVec.ofNat 64 (s.hwRead asid (BitVec.ofNat 64 (64 * e + 16)) 8)
  let rd (o n : Nat) : Nat := s.hwRead asid (area + BitVec.ofNat 64 o) n
  let v := (List.range 32).foldl (fun v n => v.setX n (BitVec.ofNat 64 (rd (8 * n) 8))) { s.slot k with x := [], f := [] }
  let v := (List.range 32).foldl (fun v n => v.setF n (BitVec.ofNat 32 (rd (256 + 4 * n) 4))) v
  (s.putSlot k { v with
    vtype := BitVec.ofNat 9 (rd 384 8), vmk := BitVec.ofNat 64 (rd 392 8), vmkh := BitVec.ofNat 64 (rd 400 8),
    tgroup := BitVec.ofNat 16 (rd 408 8), tstatus := BitVec.ofNat 64 (rd 416 8), parklimit := BitVec.ofNat 40 (rd 424 8),
    livemap := BitVec.ofNat 36 (rd 432 8) }).modRegion (s.info e).region fun g => { g with
      saves := g.saves ++ [area], usedSaves := g.usedSaves.filter (fun p => p.1 != e) }

/-- R174: the window is claimed and filled from a spill area. -/
def State.fillWindow (s : State) (k : Nat) (asid : BitVec 12) (a : Word) : State :=
  (List.range 32).foldl (fun t r => t.setRow k r (BitVec.ofNat 1024 (s.hwRead asid (a + BitVec.ofNat 64 (128 * r)) 128)))
    ((s.modSlot k fun v => { v with accHeld := true }).dropLatch k)

/-- R184, R228: what the ember waited for and its home has kept for it: the answer or the value, behind its parking
instruction. A message is kept in its queue until the instruction has taken it (R145). -/
def State.collect (s : State) (k e : Nat) : State :=
  let p := (s.info e).park
  let s := s.modInfo e fun i => { i with park := none }
  match p with
  | none => s
  | some p => match p.kind with
    | .version _ h =>
      match s.watchOf h e with
      | none => s
      | some w =>
        let s := (s.modHome h fun d => { d with watch := d.watch.filter (fun x => x.ember != e) }).retryWatch h 1
        match w.served with
        | some x => s.modSlot k fun v => { v.setX w.rd x with pc := v.pc + 4, first := false }
        | none => s
    | .answer _ cl =>
      match Tab.find? (s.cluster cl).answers.cells e with
      | none => s
      | some c =>
        let s := (s.modAnswers cl fun a => { a with cells := Tab.erase a.cells e }).retryCell cl
        s.modSlot k fun v =>
          let v := match c.answer with
            | some (a0, a1) => (v.setX 10 a0).setX 11 a1
            | none => v
          { v with pc := v.pc + 4, first := false, tstatus := BitVec.ofNat 64 (c.reason.toNat * 2 ^ 8 + c.out) }
    | .queue .. => if p.met then s.modSlot k fun v => { v with park := some p } else s
    | _ => s

/-- R110: the record, then the save area, then the window have arrived; the ember issues. -/
def execEmberRestore (slot : Nat) (s : State) : Out State :=
  if nSlots ≤ slot then .fault .noSuchUnit
  else .next (
    let v := s.slot slot
    let e := v.ember
    let c := slotCore slot
    let go (s : State) : State := (s.collect slot e).modSlot slot fun v => { v with
      due := some (s.nextIssue slot (s.now + 1)), wait := .ready, got := none, block := none }
    if v.mode ≠ .active ∨ v.due ≠ none ∨ v.leaving then s
    else
      let a := BitVec.ofNat 64 (64 * e)
      let area := BitVec.ofNat 64 (s.hwRead v.asid (a + 16) 8)
      let spill := BitVec.ofNat 64 (s.hwRead v.asid (area + 440) 8)
      -- what is read: nothing goes on before it is zeroed (R220), and an ember that cannot be read is killed (R296), also
      -- where a walk cannot reach it (R299), for which no rule gives a take-up another end: DESIGN CHOICE, log 73
      let have_ (s : State) (va : Word) (n : Nat) (next : State → State) : State :=
        match s.hwReads v.asid va n with
        | .wait key => s.holdZero key (.emberRestore slot)
        | .at_ key => next (s.scrub key n)
        | .lost =>
          let key := (s.vaKey v.asid.toNat va).getD 0
          let s := s.slotRecord slot 8 3 [va, va + BitVec.ofNat 64 (n - 1), BitVec.ofNat 64 key, BitVec.ofNat 64 (key + n - 1)]
          let i := s.info e
          let s := ((s.leaveWaits i.core e i.park).freeReserved i.core e).stopDeadline e
          (((s.killProducer slot e).setState v.asid e stDead false).vacate slot).retireRecord e
      match v.got.map (·.toNat) with
      | some 0 =>
        have_ s a 64 fun s =>
        if s.hwRead v.asid (a + 8) 8 / 2 ^ 62 = 1 then
          let (t, s) := (s.noteWalk v.asid area).farClk c ((s.vaKey v.asid.toNat area).getD 0) 128
          (s.modSlot slot fun v => { v with got := some 1 }).post (s.now + t) (.emberRestore slot)
        else go (s.restored slot e)
      | some 1 =>
        have_ s area 512 fun s =>
        if spill = 0 then go (s.restoredFull slot e)
        else
          let key := (s.vaKey v.asid.toNat spill).getD 0
          let s := s.noteWalk v.asid spill
          let (t, s) := if 2 ^ 44 ≤ key ∧ keyCore key = c then (s.clk (coreField c) 35, s)
            else
              let (t, s) := s.farClk c key 8
              (t + s.clk (coreField c) 95, s)
          (s.modSlot slot fun v => { v with got := some 2 }).post (s.now + t) (.emberRestore slot)
      | some 2 => have_ s spill 4096 fun s => go ((s.fillWindow slot v.asid spill).restoredFull slot e)
      | _ => s)

/-- R109: the queue that an ember out of a slot enters when its park ends by limit or deadline: its core's after a receive
wait, else as its record says. A doorbell (R135) and a message wake into the core's queue (`wakeOn`). -/
def State.readyAfter (s : State) (e : Nat) (p : Park) : State :=
  match p.kind with
  | .queue .. => s.makeReadyAt (s.info e).core e
  | _ => s.makeReady e

/-- R290: a report for the slot's ember is on its way. -/
def State.reportComing (s : State) (k e : Nat) : Bool :=
  s.agenda.any fun p => match p.2 with
    | .impreciseReport k' e' _ _ => k' == k && e' == e
    | _ => false

/-- R107, R295: the field controller is told, once, of a slot whose ember finds no area to be saved in. Log 50. -/
def State.tellShort (s : State) (k : Nat) : State :=
  if (s.slot k).told then s else (s.modSlot k fun v => { v with told := true }).slotRecord k 8 0 []

/-- R106, R107, R111, R253: the record of an ember that suspends is written once it has drained; a wake that came before
is applied. -/
def execSuspendWriteback (slot : Nat) (s : State) : Out State :=
  if nSlots ≤ slot then .fault .noSuchUnit
  else .next (
    let v := s.slot slot
    let e := v.ember
    let again (s : State) : State := s.post (s.nextIssue slot (s.now + 1)) (.suspendWriteback slot)
    if v.leaving = false ∨ e = 0 then s
    else if v.trapNow.isSome ∨ v.killReq.isSome ∨ v.mode ≠ .active then
      (s.modSlot slot fun v => { v with leaving := false }).wakeAt slot (s.now + 1)
    else if !v.drained ∨ s.reportComing slot e then again s
    else
      let st := match v.park with
        | none => stReady
        | some p => if p.met then stReady else p.kind.state
      match s.writeBack slot st v.pc with
      | none => again (s.tellShort slot)
      | some s =>
        if st ≠ stReady then s
        else if v.toCore then s.makeReadyAt (slotCore slot) e else s.makeReady e)

/-- R216: the compact record is written and sent to the core that the slot's move names. -/
def execAttractionMove (slot : Nat) (s : State) : Out State :=
  if nSlots ≤ slot then .fault .noSuchUnit
  else .next (
    let v := s.slot slot
    match v.got with
    | none => s
    | some c =>
      if v.mode ≠ .active ∨ !v.drained ∨ v.bound ∨ v.ember = 0 ∨ nCores ≤ c.toNat then s
      else
        -- R303: a fenced field takes no migration; the ember stays
        if s.refused (slotCore slot) c.toNat (.migrationArrival c.toNat v.ember) then
          (s.modSlot slot fun v => { v with got := none }).wakeAt slot s.now
        else
        let t := s.pathClk (slotCore slot) c.toNat
        let s := ((s.count slot 9 1).writeCompact slot stMigrating v.pc).vacate slot
        (s.modInfo v.ember fun i => { i with moving := v.moved }).post (s.now + t) (.migrationArrival c.toNat v.ember))

/-- R109, R216: a migrating ember enters the queue of the core beneath the target. -/
def execMigrationArrival (core ember : Nat) (s : State) : Out State :=
  if nCores ≤ core then .fault .noSuchUnit
  else .next (
    if bits (s.hwRead (s.emberAsid ember) (BitVec.ofNat 64 (64 * ember + 8)) 8) 58 4 ≠ stMigrating then s
    else ((s.countIn core none 10 1).modInfo ember fun i => { i with core := core }).makeReadyAt core ember)

/-- R112: the kernel restarts a stopped ember that is in no slot. -/
def execEmberRestart (ember : Nat) (s : State) : Out State :=
  .next (if (s.slotOf ember).isSome
      ∨ bits (s.hwRead (s.emberAsid ember) (BitVec.ofNat 64 (64 * ember + 8)) 8) 58 4 ≠ stStopped then s
    else s.makeReady ember)

/-! Dispensers (R113 to R116, R138). -/

/-- R113: places an item in the queue bound to its stage, or binds a free queue. -/
def placeItem (w : WorkItem) : List StageQueue → Option (List StageQueue)
  | [] => some [⟨w.stage.toNat, [w]⟩]
  | q :: qs =>
    if q.stage = w.stage.toNat then
      if q.items.length < 64 then some ({ q with items := q.items ++ [w] } :: qs) else none
    else (placeItem w qs).map (q :: ·)

/-- R113: places an item if its queue has room and at most eight queues are bound. -/
def Dispenser.place (d : Dispenser) (w : WorkItem) : Option Dispenser :=
  match placeItem w d.queues with
  | some qs => if qs.length ≤ 8 then some { d with queues := qs } else none
  | none => none

/-- R113: the queues refill from the rings in the order of arrival; what finds no place stays. -/
def refillFrom (cl : Nat) : Dispenser → List (Nat × WorkItem) → Dispenser × List (Nat × WorkItem)
  | d, [] => (d, [])
  | d, (c, w) :: ws =>
    match (if c = cl then d.place w else none) with
    | some d' => refillFrom cl d' ws
    | none =>
      let (d', l) := refillFrom cl d ws
      (d', (c, w) :: l)

/-- Items that one 64 KiB page of an overflow ring holds. Log 18. -/
def ringItems : Nat := 1024

/-- R113: the pages that the overflow rings of a region hold, a ring to a stage. -/
def ringPages (l : List (Nat × WorkItem)) : Nat :=
  ((List.range 256).map fun st => ((l.filter (·.2.stage.toNat == st)).length + ringItems - 1) / ringItems).sum

/-- R138: the pool-empty flag of every cluster of a region. -/
def State.poolFlags (s : State) (r : Nat) : State :=
  match Tab.find? s.regions r with
  | none => s
  | some g => g.clusters.foldl (fun t cl => t.modCluster cl fun c => { c with poolEmpty := g.pages == 0 }) s

/-- R113, R138: an item without a place goes to its region's ring for the stage, which the region's pool extends, or is
held. -/
def State.ringItem (s : State) (cl : Nat) (w : WorkItem) : State :=
  let hold (s : State) : State := s.modDisp cl fun d => { d with held := d.held ++ [w] }
  if (s.cluster cl).disp.held.any (·.stage == w.stage) then hold s
  else match s.clusterRegion cl with
    | none => hold s
    | some (r, g) =>
      let rings := g.rings ++ [(cl, w)]
      let more := ringPages rings - ringPages g.rings
      if g.pages < more then hold s
      else (s.modRegion r fun g => { g with rings := rings, pages := g.pages - more }).poolFlags r

/-- R113, R138: an item reaches its dispenser. -/
def State.addItem (s : State) (cl : Nat) (w : WorkItem) : State :=
  let d := (s.cluster cl).disp
  if (s.ring cl ++ d.held).any (·.stage == w.stage) then s.ringItem cl w
  else match d.place w with
    | some d' => s.modDisp cl fun _ => d'
    | none => s.ringItem cl w

/-- R113, R138: the rings refill the queues, and the items held find their places; pages that fall free return. -/
def State.refillItems (s : State) (cl : Nat) : State :=
  let d := (s.cluster cl).disp
  let s := match s.clusterRegion cl with
    | some (r, g) =>
      let (d', rings) := refillFrom cl { d with held := [] } g.rings
      let freed := ringPages g.rings - ringPages rings
      let s := (s.modDisp cl fun _ => d').modRegion r fun g => { g with rings := rings, pages := g.pages + freed }
      if freed = 0 then s else s.poolFlags r
    | none => s.modDisp cl fun d => { d with held := [] }
  d.held.foldl (fun t w => t.addItem cl w) s

/-- R138: a posted item reaches its dispenser. -/
def execDispenserItemArrival (flight : Nat) (s : State) : Out State :=
  .next (match s.flight? flight with
  | none => s
  | some f =>
    let w : WorkItem := {
      stage := BitVec.ofNat 8 f.op, entry := f.args.headD 0, target := if f.rd = 0 then none else some (f.rd - 1),
      args := f.args.tail, item := if f.key = 0 then none else some ⟨f.key - 1, f.size, f.part⟩ }
    ((s.land flight).addItem f.aux w).dispense f.aux)

/-- R114: the waiting slot, first to wait, for which an item is eligible. -/
def WorkItem.taker (w : WorkItem) (waiting : List Nat) : Option Nat :=
  waiting.find? fun k => match w.target with
    | none => true
    | some c => slotCore k == c

/-- R114: the oldest eligible item of a queue with its slot, and the queue without it. -/
def pickItem (waiting : List Nat) : List WorkItem → Option (WorkItem × Nat × List WorkItem)
  | [] => none
  | w :: ws => match w.taker waiting with
    | some k => some (w, k, ws)
    | none => (pickItem waiting ws).map fun (x, k, l) => (x, k, w :: l)

/-- R115: the stages of queues with an eligible item, ascending. -/
def Dispenser.eligible (d : Dispenser) (waiting : List Nat) : List Nat :=
  ((d.queues.filter fun q => (pickItem waiting q.items).isSome).map (·.stage)).mergeSort (· ≤ ·)

/-- R115: the stage to serve, and the items given out of it so far. -/
def Dispenser.choose (d : Dispenser) (weight : Nat → Nat) (waiting : List Nat) : Option (Nat × Nat) :=
  let l := d.eligible waiting
  match d.current with
  | none => l.head?.map fun x => (x, 0)
  | some c =>
    if l.contains c ∧ d.given < weight c then some (c, d.given)
    else match l.find? (fun x => decide (c < x)) with
      | some x => some (x, 0)
      | none => l.head?.map fun x => (x, 0)

/-- R114: the hand-over of an item to a slot. -/
def State.handOver (s : State) (k : Nat) (w : WorkItem) : State :=
  let v := s.slot k
  let s := s.setState v.asid v.ember stRunning v.bound
  let s := s.modSlot k fun v =>
    let v := (List.range 4).foldl (fun (v : Slot) i => v.setX (10 + i) (w.args.getD i 0)) v
    { v with stage := w.stage, item := w.item, seated := false }
  s.completeAt k (if w.entry = 0 then v.pc + 4 else w.entry) (s.now + s.clk (slotField k) 8)

/-- R114, R115: the dispenser of a cluster hands over one item. -/
def execDispenserHandover (cluster : Nat) (s : State) : Out State :=
  if nClusters ≤ cluster then .fault .noSuchUnit
  else .next (
    if s.frozenAt (clusterField cluster) then s
    else
      let d := (s.cluster cluster).disp
      let waiting := d.waiting.filter fun k => (s.slot k).mode == .active
      let weight (st : Nat) : Nat := match s.clusterRegion cluster with
        | some (_, g) => (Tab.get g.stages st {}).weight
        | none => 1
      match d.choose weight waiting with
      | none => s.modDisp cluster fun d => { d with current := none, given := 0 }
      | some (st, given) =>
        match (d.queues.find? (·.stage == st)).bind fun q => pickItem waiting q.items with
        | none => s
        | some (w, k, rest) =>
          let qs := (d.queues.map fun q => if q.stage = st then { q with items := rest } else q).filter fun q => q.items != []
          let s := s.modDisp cluster fun d =>
            { d with queues := qs, waiting := d.waiting.filter (· != k), current := some st, given := given + 1 }
          ((s.refillItems cluster).handOver k w).dispense cluster)

/-- R138: the kernel adds a page to a region's pool. -/
def execPoolExtension (region : Nat) (_page : BitVec 64) (s : State) : Out State :=
  .next (match Tab.find? s.regions region with
  | none => s
  | some g =>
    let s := (s.modRegion region fun g => { g with pages := g.pages + 1 }).poolFlags region
    g.clusters.foldl (fun t cl => (t.refillItems cl).dispense cl) s)

/-! Deadlines and parks (R120 to R122, R126). -/

/-- R122: the storage key of a word of an event ring, if the ember's context may write it. -/
def State.ringKey (s : State) (asid : BitVec 12) (owner : BitVec 8) (va : Word) : Option Nat :=
  if inStore va then (s.storeKey va).filter fun k => s.ownerOk k owner false && (s.badWord k 8).isNone
  else if !translated va then none
  else (s.asidRoot asid.toNat owner).bind fun root => match s.walk asid.toNat root va with
    | .leaf t =>
      if (leafCheck .both true t.leaf).isSome then none
      else if s.ownerOk (t.key va) owner false && (s.badWord (t.key va) 8).isNone then some (t.key va) else none
    | _ => none

/-- R122: writes a record to an event ring; none where the ring cannot take it. -/
def State.eventRecord (s : State) (asid : BitVec 12) (owner : BitVec 8) (ring : Word) (ws : List Word) : Option State :=
  match s.ringKey asid owner ring, s.ringKey asid owner (ring + 8) with
  | some hd, some cw =>
    let cap := s.read cw 8
    if cap = 0 ∨ 2 ^ 20 < cap ∨ 2 ^ Nat.log2 cap ≠ cap then none
    else
      let i := s.read hd 8
      let at_ := ring + 64 + BitVec.ofNat 64 (32 * (i % cap))
      match (List.range 4).mapM fun j => s.ringKey asid owner (at_ + BitVec.ofNat 64 (8 * j)) with
      | none => none
      | some keys =>
        let s := (keys.zip ws).foldl (fun (t : State) p => t.ownWrite p.1 8 p.2.toNat) s
        some (s.homeVst hd (i + 1) 1)
  | _, _ => none

/-- R109: a receive wait. -/
def ParkKind.receives : ParkKind → Bool
  | .queue .. => true
  | _ => false

/-- R121, R126: an ember takes a held trap before its next user-level issue; if it is parked, its park ends without an
effect. A park whose condition has been met lets its instruction complete first. -/
def State.timeTrap (s : State) (e cause : Nat) (val : Word) : State :=
  match s.slotOf e with
  | some k =>
    let v := s.slot k
    let s := s.modSlot k fun v => { v with pend := v.pend ++ [(cause, val)] }
    match v.park with
    | none => s
    | some p =>
      if p.met then s.modSlot k fun v => { v with first := p.kind ≠ .bell || !v.leaving }
      else
        let s := (s.leaveWaits (slotCore k) e (some p)).modSlot k fun v => { v with park := none, got := none }
        if v.leaving then s.modSlot k fun v => { v with toCore := p.kind.receives } else s.wakeAt k (s.now + 1)
  | none =>
    let i := s.info e
    let s := s.modInfo e fun i => { i with pend := i.pend ++ [(cause, val)] }
    match i.park with
    | none => s
    | some p =>
      if p.met then s.modInfo e fun i => { i with first := p.kind ≠ .bell }
      else ((s.leaveWaits i.core e (some p)).modInfo e fun i => { i with park := none }).readyAfter e p

/-- R121: what follows when the counter d of a field has reached zero. -/
def State.expire (s : State) (f : Nat) (d : Deadline) : State :=
  let st := match Tab.find? s.regions d.region with
    | some g => Tab.get g.stages d.stage.toNat {}
    | none => {}
  let owner := match Tab.find? s.regions d.region with
    | some g => g.owner
    | none => 0
  let slot := s.slotOf d.ember
  let trap := s.timeTrap d.ember 0x0C (d.stage.setWidth 64)
  if st.event then
    let asid := match slot with
      | some k => (s.slot k).asid
      | none => s.emberAsid d.ember
    match s.eventRecord asid owner st.evr [BitVec.ofNat 64 (d.ends - (s.field f).zero), BitVec.ofNat 64 d.ember,
        (match slot with
          | some k => coreloc k
          | none => 0), BitVec.ofNat 64 d.budget] with
    | some s => s
    | none => trap.noteWalk asid st.evr
  else trap

/-- R121, R302: a deadline counter reached zero and its entry is freed; a frozen field delivers the expiry after its
restart. -/
def execDeadlineExpiry (ember armed : Nat) (s : State) : Out State :=
  .next (match s.deadlineOf ember with
  | none => s
  | some (f, d) =>
    if d.ends ≠ armed + d.budget ∨ s.now < d.ends then s
    else
      let s := s.stopDeadline ember
      if (s.field f).frozen then s.modField f fun x => { x with expired := x.expired ++ [d] } else s.expire f d)

/-- R126: the field controller's check of a park that has reached its limit. -/
def execParkTimeout (ember since : Nat) (s : State) : Out State :=
  let slot := s.slotOf ember
  let p := match slot with
    | some k => (s.slot k).park
    | none => (s.info ember).park
  let f := match slot with
    | some k => slotField k
    | none => coreField (s.info ember).core
  .next (match p with
  | none => s
  | some p =>
    if p.since ≠ since ∨ p.met then s
    else if (s.field f).frozen then s.postRank (s.now + 256) 6 (.parkTimeout ember since)
    else s.timeTrap ember p.kind.timeout.1 p.kind.timeout.2)

/-! Messages (R123 to R125). -/

/-- R123: places of a message in the hardware queue. -/
def Msg.places (m : Msg) : Nat := if m.row then 8 else 1
def RQueue.used (r : RQueue) : Nat := (r.hw.map (·.places)).sum

/-- R123 to R125, R135: a message enters a queue or its ring, and goes to the oldest waiter; the sender is acknowledged. -/
def execMessageArrival (flight : Nat) (s : State) : Out State :=
  .next (match s.flight? flight with
  | none => s
  | some f =>
    let c := f.dst
    let r := s.queue c f.op
    let m : Msg := { sx := coreX f.src, sy := coreY f.src, row := f.size == 128, data := f.data, dest := r.waiters.headD 0 }
    let fits := r.ring == [] && decide (r.used + m.places ≤ 16)
    let full := !fits && decide (4096 * r.pages < (r.ring.map (·.places)).sum + m.places)
    let s := s.modQueue c f.op fun r => { r with
      hw := if fits then r.hw ++ [m] else r.hw, ring := if fits then r.ring else r.ring ++ [m], waiters := r.waiters.tail }
    let s := if !full then s else match s.regionOf c with
      | none => s
      | some (i, g) =>
        if g.pages = 0 then (s.modRegion i fun g => { g with short := true }).post s.now (.regionStop i)
        else ((s.modRegion i fun g => { g with pages := g.pages - 1 }).poolFlags i).modQueue c f.op fun r =>
          { r with pages := r.pages + 1 }
    let s := match r.waiters with
      | e :: _ => (s.wakeOn c e).promote c f.op
      | [] => s
    let s := if fits then s else s.countIn c none 17 1
    (s.doorbell c).reply flight s.now .acknowledgement f)

/-- R124: the hardware queue refills from its ring in ring order. -/
def refillQueue (r : RQueue) : List Msg → RQueue
  | [] => { r with ring := [] }
  | m :: l => if r.used + m.places ≤ 16 then refillQueue { r with hw := r.hw ++ [m] } l else { r with ring := m :: l }

/-- R124. -/
def execQueueRefill (core q : Nat) (s : State) : Out State :=
  if nCores ≤ core ∨ 8 ≤ q then .fault .noSuchUnit
  else .next (s.modQueue core q fun r => refillQueue r r.ring)

/-! Reports and held traps (R30, R290). -/

/-- R290: a report reaches a slot, or is written as a record. -/
def execImpreciseReport (slot ember cause : Nat) (val : BitVec 64) (s : State) : Out State :=
  if nSlots ≤ slot then .fault .noSuchUnit
  else .next (
    let v := s.slot slot
    let lost (act : Nat) : State := s.lostReport slot ember act v.owner v.asid cause val
    if v.ember ≠ ember ∨ ember = 0 then lost 0
    else if v.imp.isSome then lost 4
    else s.modSlot slot fun v => { v with imp := some (cause, val) })

/-- R30, R32: the pending report, or else the oldest held timeout, is taken before the next user-level issue. -/
def execPendingTrapDelivery (slot : Nat) (s : State) : Out State :=
  if nSlots ≤ slot then .fault .noSuchUnit
  else .next (
    let v := s.slot slot
    if v.mode ≠ .active ∨ v.level ≠ .user then s
    else match v.imp, v.pend with
      | some (c, x), _ => (s.modSlot slot fun v => { v with imp := none }).trapAt slot true c x v.pc
      | none, (c, x) :: rest => (s.modSlot slot fun v => { v with pend := rest }).trapAt slot false c x v.pc
      | none, [] => s)

end Sys2Proof.Machine
end

