-- ==== Sys2Proof/Machine/Versioned.lean ====
section
/-! DEFINITION. Versioned words, atomics, appends, seals and replicas (spec/11, R224 to R242). -/

namespace Sys2Proof.Machine

/-- Kinds of request whose reply writes `data` to rd as it stands (atomics, appends). -/
def opValue : Nat := 7
/-- The same of an append: its merging into an uncorrectable unit is reported imprecisely (R289, R296). -/
def opAppend : Nat := 10

/-- R226: the places of a watch table. -/
def watchSize : Nat := 64

/-- The request of a flight of the current slot goes to its home, and the slot waits for the value; it counts as a far
load, and, where it also writes, as a far store (R246, R308). -/
def State.ask (s : State) (load store : Bool) (mk : Nat → Instr) (f : Flight) : State :=
  let s := s.issued s.cur
  let s := if load then s.countFar f.key 7 else s
  let s := if store then s.countFar f.key 8 else s
  ((s.request mk f).2).await .memory

/-! vld, vtake (R226 to R229). -/

/-- R228: slot k's ember waits on a watch entry at a home: a bound one in its slot, an unbound one written back. -/
def State.parkVersion (s : State) (k : Nat) (a : Word) (h t0 : Nat) : State :=
  (s.beginParkAt k t0 (.version a h)).modSlot k fun v => { v with wait := .message, due := none }

/-- R228: the waiter of a watch entry is unbound and leaves its slot; the home will keep its value. -/
def State.unseat (s : State) (k h e : Nat) : State :=
  (s.modHome h fun d => { d with watch := d.watch.map fun w => if w.ember = e then { w with res := false } else w }).suspend k

/-- R229: the value at a full word of generation g, and what `vtake` leaves. -/
def State.versioned (s : State) (key g : Nat) (take : Bool) : Option (Word × State) :=
  let t := s.tag key
  if t.getLsbD 3 && (t &&& 7).toNat == g then
    some (s.read64 key, if take then s.setTag key (t &&& 7) else s)
  else none

/-- R229: `vld` (or `vtake`) of the current slot. -/
def State.versionedLoad (s : State) (rd : Reg) (a : Word) (g : Nat) (take : Bool) : State :=
  let k := s.cur
  s.userOnly fun s => s.afterRows fun s =>
    s.withAccess (if take then .both else .versionedLoad) a 8 fun s key t => s.inOrder fun s =>
      let v := s.me
      let f : Flight := { s.flightOf a key with op := g, aux := if take then 1 else 0, rd := rd.toNat, ro := !take && readOnly t,
                                                 tval := BitVec.ofNat 64 s.now }
      if s.ownSlice key then
        s.atOwnSlice key 8 a fun s =>
          match s.versioned key g take with
          | some (w, s) => (s.setX rd w).retire
          | none =>
            let h := keyHome key
            let s := s.issued k
            if (s.home h).watch.length < watchSize ∧ (s.home h).requests = [] then
              let w : Watch := ⟨key, g, take, v.ember, k, rd.toNat, true, slotCore k, none⟩
              let s := (s.modHome h fun d => { d with watch := d.watch ++ [w] }).parkVersion k a h s.now
              if v.bound then s.seat k else s.unseat k h v.ember
            else
              let (id, s) := s.register .versionedLoadAtHome f
              (s.modHome h fun d => { d with requests := d.requests ++ [id] }).parkVersion k a h s.now
      else (if take then s else s.replicaRead t).ask true false .versionedLoadAtHome f

/-- R229: vld. -/
def execVld (rd rs1 : Reg) (off : BitVec 9) (g : BitVec 3) (s : State) : Out State :=
  .next (s.versionedLoad rd (s.x rs1 + off.signExtend 64 * 8) g.toNat false)
/-- R229: vtake. -/
def execVtake (rd rs1 : Reg) (off : BitVec 9) (g : BitVec 3) (s : State) : Out State :=
  .next (s.versionedLoad rd (s.x rs1 + off.signExtend 64 * 8) g.toNat true)

/-- R226: the request may take an entry: an entry is free for it behind the requests that came before it. -/
def State.watchRoom (s : State) (h flight : Nat) : Bool :=
  let d := s.home h
  decide ((d.requests.findIdx? (· == flight)).getD d.requests.length + d.watch.length < watchSize)

/-- R226: the request is held at its home no more; the next one is judged if an entry is free. -/
def State.unhold (s : State) (h flight : Nat) : State :=
  if (s.home h).requests.contains flight then
    let s := s.modHome h fun d => { d with requests := d.requests.filter (· != flight) }
    if (s.home h).watch.length < watchSize then s.retryWatch h 1 else s
  else s

/-- R226, R229: a home answers a versioned load that has not been answered, lists it, or holds it while every watch
entry is taken. R126 fixes the start of a park only for a request that is held, its issue; that of one which takes an
entry at once begins, in the model, in the clk in which its home lists it. DESIGN CHOICE, log 68. -/
def execVersionedLoadAtHome (flight : Nat) (s : State) : Out State :=
  .next (match s.flight? flight with
  | none => s
  | some f =>
    if f.next ≠ .versionedLoadAtHome flight then s
    else if s.waitsZero f then s.holdHome f (.versionedLoadAtHome flight)
    else
      let (t, s) := (s.scrub f.key 8).service f.key
      let h := keyHome f.key
      let answer (s : State) (f : Flight) : State := (s.reply flight (s.now + t) .versionedReply f).unhold h flight
      match s.storageFault f f.key 8 with
      | some c => answer s { f with cause := c, tval := f.va }
      | none =>
        match s.versioned f.key f.op (f.aux == 1) with
        | some (v, s) => answer s { f with data := v.setWidth 1024, args := [] }
        | none =>
          if (s.slot f.slot).ember ≠ f.ember ∨ f.dead then (s.land flight).unhold h flight
          else if s.watchRoom h flight then
            let w : Watch := ⟨f.key, f.op, f.aux == 1, f.ember, f.slot, f.rd, true, f.src, none⟩
            let s := (s.modHome h fun d => { d with watch := d.watch ++ [w] }).parkVersion f.slot f.va h s.now
            -- the slot learns that its request is listed
            answer s { f with args := [1] }
          else if (s.home h).requests.contains flight then s
          else ((s.modHome h fun d => { d with requests := d.requests ++ [flight] }).parkVersion f.slot f.va h f.tval.toNat).stopIfAsked
            f.slot)

/-- R228: a value, a trap, or the notice of being listed reaches the waiter; a served ember out of a slot is made
ready. -/
def execVersionedReply (flight : Nat) (s : State) : Out State :=
  .next (match s.flight? flight with
  | none => s
  | some f =>
    let s := s.land flight
    let k := f.slot
    let v := s.slot k
    let here := v.ember == f.ember && f.ember != 0 && !f.dead
    let h := keyHome f.key
    if f.args = [1] then
      let listed := (s.home h).watch.any fun w => w.ember == f.ember && w.key == f.key && w.res
      if here && listed && !v.leaving then (if v.bound then s.seat k else s.unseat k h f.ember).stopIfAsked k else s
    else if f.cause ≠ 0 then if here then s.trapLater k f.cause f.tval else s
    else if f.op = opServed ∧ !f.isF then
      -- the home keeps the value (R228), and one wake makes the ember ready (R111)
      if !(s.watchOf h f.ember).any (·.served.isSome) then s
      else if here then s.meet f.ember
      else if (s.info f.ember).park.any (!·.met) ∧ !(s.info f.ember).queued then (s.meet f.ember).makeReady f.ember else s
    else if here then
      (s.modSlot k fun v => v.setX f.rd (f.data.setWidth 64)).completeAt k (v.pc + 4)
        (if f.op = opServed then s.now + 1 else s.now)
    else s)

/-! vst, vtag, vrcl (R230 to R232). -/

/-- R230: vst. -/
def execVst (rs1 rs2 : Reg) (off : BitVec 9) (g : BitVec 3) (s : State) : Out State :=
  let a := s.x rs1 + off.signExtend 64 * 8
  .next (s.afterRows fun s => s.withAccess .versionedStore a 8 fun s key _ => s.release fun s =>
    if s.ownSlice key then
      if !s.ownerOk key s.me.owner false then (s.retire).report s.cur s.me.ember 0x10 a
      else if s.zeroing key then s.notReady .memory
      else ((s.scrub key 8).homeVst key (s.x rs2).toNat g.toNat).retire
    else
      let (id, s) := (s.countFar key 8).request .versionedStoreAtHome
        { s.flightOf a key with data := (s.x rs2).setWidth 1024, op := g.toNat }
      (s.track s.cur id true key).retire)

/-- R230: a home writes a versioned word and serves the watch table. -/
def execVersionedStoreAtHome (flight : Nat) (s : State) : Out State :=
  .next (match s.flight? flight with
  | none => s
  | some f =>
    if s.waitsZero f then s.holdHome f (.versionedStoreAtHome flight)
    else
      let (t, s) := (s.scrub f.key 8).service f.key
      let c := s.writeFault f.owner f.key 8
      let s := if c = 0 then s.homeVst f.key (f.data.setWidth 64).toNat f.op else s
      s.reply flight (s.now + t) .acknowledgement { f with cause := c, tval := f.va })

/-- R231: vtag. -/
def execVtag (rd rs1 : Reg) (s : State) : Out State :=
  let a := s.x rs1
  .next (s.afterRows fun s => s.withAccess .versionedLoad a 8 fun s key t =>
    if s.ownSlice key then s.atOwnSlice key 8 a fun s => (s.setX rd ((s.tag key).setWidth 64)).retire
    else s.farRead t { s.flightOf a key with op := opTag, rd := rd.toNat, ro := readOnly t })

/-- R232: every word of a range becomes empty. -/
def State.reclaim (s : State) (a n : Nat) : State :=
  { s with tags := s.tags.filter fun c => decide (8 * c.1 < a) || decide (a + n ≤ 8 * c.1) }

/-- R232: vrcl. -/
def execVrcl (rs1 rs2 : Reg) (s : State) : Out State :=
  let a := s.x rs1
  let l := s.x rs2
  .next (
    if l = 0 then s.retire
    else if a.toNat % 8 ≠ 0 ∨ l.toNat % 8 ≠ 0 ∨ a.toNat / 2 ^ 16 ≠ (a.toNat + l.toNat - 1) / 2 ^ 16 then
      if !translated a && !inStore a then s.trap 0x14 a else s.trap 0x03 a
    else s.afterRows fun s => s.withAccess .versionedStore a 8 fun s key _ => s.inOrder fun s =>
      if s.ownSlice key then
        if !s.ownerOk key s.me.owner false then (s.retire).report s.cur s.me.ember 0x10 a
        else if s.zeroing key then s.notReady .memory
        else (s.reclaim key l.toNat).retire
      else if !s.countRoom true 1 then s.notReady .memory
      else
        let (id, s) := (s.countFar key 8).request .vrclAtHome { s.flightOf a key with size := l.toNat }
        (s.track s.cur id true key).retire)

/-- R232: a home reclaims a range. After an alarm erasure DRAM takes no access (R304). -/
def execVrclAtHome (flight : Nat) (s : State) : Out State :=
  .next (match s.flight? flight with
  | none => s
  | some f =>
    if s.waitsZero f then s.holdHome f (.vrclAtHome flight)
    else
      let (t, s) := s.service f.key
      let c := if !s.ownerOk f.key f.owner false then 0x10 else if s.erased f.key then 0x0F else 0
      let s := if c = 0 then s.reclaim f.key f.size else s
      s.reply flight (s.now + t) .acknowledgement { f with cause := c, tval := f.va })

/-! Atomics (R233, R234). -/

/-- R233: the new value of an operation on width w; none for a failed compare. -/
def atomicNew {w : Nat} (op : Nat) (old b c : BitVec w) : Option (BitVec w) :=
  match op with
  | 0 => some (old + b)
  | 1 => some (if old.slt b then old else b)
  | 2 => some (if old.slt b then b else old)
  | 3 => some (if old.ult b then old else b)
  | 4 => some (if old.ult b then b else old)
  | 5 => some b
  | _ => if old = c then some b else none

/-- R233: the operation at its home: the old value as rd receives it. -/
def State.atomicAt (s : State) (key n op : Nat) (b c : Word) : Word × State :=
  if n = 4 then
    let old := BitVec.ofNat 32 (s.read key 4)
    (old.signExtend 64, match atomicNew op old (b.setWidth 32) (c.setWidth 32) with
      | some v => s.homeWrite key 4 v.toNat
      | none => s)
  else
    let old := s.read64 key
    (old, match atomicNew op old b c with
      | some v => s.homeWrite key 8 v.toNat
      | none => s)

/-- R233, R234: an atomic of the current slot. -/
def State.atomic (s : State) (op n : Nat) (rd rs1 rs2 : Reg) : State :=
  let a := s.x rs1
  let b := s.x rs2
  let c := s.x rd
  s.afterRows fun s => s.withAccess .both a n fun s key _ => s.inOrder fun s =>
    if s.ownSlice key then
      s.atOwnSlice key n a fun s =>
        let (old, s) := s.atomicAt key n op b c
        (s.setX rd old).retire
    else s.ask true true .atomicAtHome { s.flightOf a key with op := op, size := n, args := [b, c], rd := rd.toNat }

/-- R233: a home performs an atomic. -/
def execAtomicAtHome (flight : Nat) (s : State) : Out State :=
  .next (match s.flight? flight with
  | none => s
  | some f =>
    if s.waitsZero f then s.holdHome f (.atomicAtHome flight)
    else
      let (t, s) := (s.scrub f.key 8).service f.key
      match s.storageFault f f.key f.size with
      | some c => s.reply flight (s.now + t) .loadReply { f with op := opValue, cause := c, tval := f.va }
      | none =>
        let (old, s) := s.atomicAt f.key f.size f.op (f.args.getD 0 0) (f.args.getD 1 0)
        s.reply flight (s.now + t) .loadReply { f with op := opValue, data := old.setWidth 1024 })

/-- R233: amadd.w. -/
def execAmaddW (rd rs1 rs2 : Reg) (s : State) : Out State := .next (s.atomic 0 4 rd rs1 rs2)
/-- R233: amadd.d. -/
def execAmaddD (rd rs1 rs2 : Reg) (s : State) : Out State := .next (s.atomic 0 8 rd rs1 rs2)
/-- R233: amsmin.w. -/
def execAmsminW (rd rs1 rs2 : Reg) (s : State) : Out State := .next (s.atomic 1 4 rd rs1 rs2)
/-- R233: amsmin.d. -/
def execAmsminD (rd rs1 rs2 : Reg) (s : State) : Out State := .next (s.atomic 1 8 rd rs1 rs2)
/-- R233: amsmax.w. -/
def execAmsmaxW (rd rs1 rs2 : Reg) (s : State) : Out State := .next (s.atomic 2 4 rd rs1 rs2)
/-- R233: amsmax.d. -/
def execAmsmaxD (rd rs1 rs2 : Reg) (s : State) : Out State := .next (s.atomic 2 8 rd rs1 rs2)
/-- R233: amumin.w. -/
def execAmuminW (rd rs1 rs2 : Reg) (s : State) : Out State := .next (s.atomic 3 4 rd rs1 rs2)
/-- R233: amumin.d. -/
def execAmuminD (rd rs1 rs2 : Reg) (s : State) : Out State := .next (s.atomic 3 8 rd rs1 rs2)
/-- R233: amumax.w. -/
def execAmumaxW (rd rs1 rs2 : Reg) (s : State) : Out State := .next (s.atomic 4 4 rd rs1 rs2)
/-- R233: amumax.d. -/
def execAmumaxD (rd rs1 rs2 : Reg) (s : State) : Out State := .next (s.atomic 4 8 rd rs1 rs2)
/-- R233: amswap.w. -/
def execAmswapW (rd rs1 rs2 : Reg) (s : State) : Out State := .next (s.atomic 5 4 rd rs1 rs2)
/-- R233: amswap.d. -/
def execAmswapD (rd rs1 rs2 : Reg) (s : State) : Out State := .next (s.atomic 5 8 rd rs1 rs2)
/-- R233: amcas.w. -/
def execAmcasW (rd rs1 rs2 : Reg) (s : State) : Out State := .next (s.atomic 6 4 rd rs1 rs2)
/-- R233: amcas.d. -/
def execAmcasD (rd rs1 rs2 : Reg) (s : State) : Out State := .next (s.atomic 6 8 rd rs1 rs2)

/-! Appends (R236, R237). -/

/-- R146: an instruction that names a vector row or a tile half traps while another slot holds the window. -/
def State.withWindow (s : State) (next : State → State) : State :=
  if !s.me.accHeld && s.windowTaken s.cur s.me.accWin.toNat then s.illegal else next s

/-- R146, R269: the current slot claims its window, if it does not hold it: zero rows, and no gather latch. -/
def State.claim (s : State) : State :=
  let k := s.cur
  if s.me.accHeld then s
  else (List.range 32).foldl (fun t r => t.setRow k r 0) ((s.modSlot k fun v => { v with accHeld := true }).dropLatch k)

/-- R237: an append of n bytes to the page that a names. `prep` claims the window of `apnd.v` before the request leaves;
where its home then refuses it, the window stays claimed with zero rows. DESIGN CHOICE, log 62. -/
def State.append (s : State) (rd : Reg) (a : Word) (n : Nat) (prep : State → State) (data : State → Row) : State :=
  s.withAccess .append a 1 fun s _ t =>
    match t with
    | none => s.trap 0x05 a
    | some t =>
      if leafSealed t.leaf then s.trap 0x09 a
      else s.inOrder fun s =>
        let f := leafFrame t.leaf
        let s := prep s
        s.ask true true .appendAtHome { s.flightOf a f with size := n, data := data s, rd := rd.toNat }

/-- R237: apnd.d. -/
def execApndD (rd rs1 rs2 : Reg) (s : State) : Out State :=
  .next (s.afterRows fun s => s.append rd (s.x rs1) 8 id fun s => (s.x rs2).setWidth 1024)
/-- R237: apnd.v: bytes 0 to 16 (LLL + 1) − 1 of a row. -/
def execApndV (rd rs1 rs2 : Reg) (lll : BitVec 3) (s : State) : Out State :=
  .next (s.withWindow fun s =>
    if s.me.vbuf ≠ [] ∨ s.me.rowPend ≠ [] then s.notReady .memory
    else s.append rd (s.x rs1) (16 * (lll.toNat + 1)) (·.claim) fun s => s.row s.cur rs2.toNat)

/-- R236: a sealable frame without an entry is reported to its field's controller. -/
def State.noEntry (s : State) (frame : Nat) : State :=
  s.modField (coreField (keyCore frame)) fun d => { d with unlisted := d.unlisted ++ [frame] }

/-- R237: a home grants, refuses, or reports full. An append that would merge into an uncorrectable unit is not granted;
its offset is then open (log 59). -/
def execAppendAtHome (flight : Nat) (s : State) : Out State :=
  .next (match s.flight? flight with
  | none => s
  | some f =>
    let h := keyHome f.key
    let entry := Tab.find? (s.home h).appends f.key
    let size := if entry.any (·.big) then 2 ^ 26 else 2 ^ 16
    -- the storage concerned is what stands at the tail (R219)
    let tail0 := (entry.map (·.tail)).getD 0
    let at_ := f.key + min tail0 (size - 8)
    if s.zeroing at_ && s.ownerOk at_ f.owner false then s.holdZero at_ (.appendAtHome flight)
    else
      -- the answer counts from the row of the first word (R326)
      let row := if f.part = 0 then at_ else f.key + (f.args.headD 0).toNat
      let answerAs (s : State) (cause v : Nat) (a : Word) : State :=
        let (t, s) := s.service row
        s.reply flight (s.now + t) .loadReply { f with op := opAppend, cause := cause, tval := a, data := BitVec.ofNat 1024 v }
      let answer (s : State) (cause v : Nat) : State := answerAs s cause v f.va
      -- R288: the word that takes the fault
      let refuse (s : State) (cause w v : Nat) : State :=
        answerAs s cause v (BitVec.ofNat 64 (f.va.toNat / size * size + (w - f.key)))
      let put (s : State) (tail part n : Nat) : State := s.homeWrite (f.key + tail + part) n (f.data.toNat / 2 ^ (8 * part))
      -- R245: the rest of a long append whose first words are written
      if f.part ≠ 0 then
        let tail := (f.args.headD 0).toNat
        answer (put s tail f.part (f.size - f.part)) 0 tail
      else match entry with
        | none => answer (s.noEntry f.key) 0x05 0
        | some e =>
          let words := wordsOf (f.key + e.tail) f.size
          match (if size < e.tail + f.size then [at_] else words).find? fun w => !s.ownerOk w f.owner false with
          | some w => refuse s 0x10 w 0
          | none =>
          if e.closed then answer s 0x09 0
          else if size < e.tail + f.size then answer s 0 (2 ^ 64 - 1)
          else match s.partBadWord (f.key + e.tail) f.size with
          | some w =>
            let (x, s) := s.freeWord
            refuse s 0x0F w x.toNat
          | none =>
            let left := (e.tail % 8 + f.size + 7) / 8
            let (j, s) := if 1 < left then (s.scrub (f.key + e.tail) f.size).split left else (left, s.scrub (f.key + e.tail) f.size)
            let n := min (8 * j - e.tail % 8) f.size
            let s := (put s e.tail 0 n).modHome h fun d => { d with
              appends := Tab.set d.appends f.key { e with tail := e.tail + f.size } }
            if n = f.size then answer s 0 e.tail
            else
              let f : Flight := { f with part := n, args := [BitVec.ofNat 64 e.tail] }
              { s with flights := Tab.set s.flights flight f }.post s.now (.appendAtHome flight))

/-! seal (R239). -/

/-- R239: seal. Its walk ignores every cached entry: `got` = 1 asks PAGE_WALK for a walk. -/
def execSeal (rd rs1 : Reg) (s : State) : Out State :=
  let a := s.x rs1
  let v := s.me
  .next (s.afterRows fun s =>
    if !translated a && !inStore a then s.trap 0x14 a
    else if inStore a then s.trap (if (s.storeKey a).isNone then 0x13 else 0x05) a
    else if (s.asidRoot v.asid.toNat v.owner).isNone then s.trap 0x10 a
    else match (if v.got = some 1 then v.walk else none) with
      | none =>
        let (d, s) := ((s.issued s.cur).modMe fun v => { v with got := some 1, walk := none, walking := some a }).openTime
        (s.await .memory).post (s.now + d) (.pageWalk s.cur a)
      | some w =>
        match w.entry with
        | none => s.trap w.cause a
        | some t =>
          if !t.hits v.asid.toNat a then
            let (d, s) := (s.modMe fun v => { v with walk := none, walking := some a }).openTime
            (s.await .memory).post (s.now + d) (.pageWalk s.cur a)
          else match s.leafFault .seal (v.level == .user) t.leaf with
            | some c => s.trap c a
            | none => s.release fun s =>
              let (_, s) := (s.issued s.cur).sendAt s.now false .sealAtHome
                { s.flightOf a (leafFrame t.leaf) with rd := rd.toNat, aux := t.at_ }
              s.await .memory)

/-- R239: the frame's entry is sealed, and the tail goes with the request to the leaf. -/
def execSealAtHome (flight : Nat) (s : State) : Out State :=
  .next (match s.flight? flight with
  | none => s
  | some f =>
    if s.waitsZero f then s.holdHome f (.sealAtHome flight)
    else
      let h := keyHome f.key
      let (t, s) := s.service f.key
      let refuse (c : Nat) (s : State) : State := s.reply flight (s.now + t) .loadReply { f with op := opValue, cause := c, tval := f.va }
      if !s.ownerOk f.key f.owner false then refuse 0x10 s
      else match Tab.find? (s.home h).appends f.key with
        | none => refuse 0x05 (s.noEntry f.key)
        | some e =>
          let s := s.modHome h fun d => { d with appends := Tab.set d.appends f.key { e with closed := true } }
          let back := s.pathClk f.dst f.src + s.pathClk f.src (keyCore f.aux)
          { s with flights := Tab.set s.flights flight { f with data := BitVec.ofNat 1024 e.tail } }.post
            (s.now + t + back) (.leafSealOr flight))

/-- R239: SEALED is set in the leaf at the leaf's home, with owner 0's authority. Where the leaf's unit is in error the OR
reads it and is refused, which no rule of `seal` says. DESIGN CHOICE, log 14. -/
def execLeafSealOr (flight : Nat) (s : State) : Out State :=
  .next (match s.flight? flight with
  | none => s
  | some f =>
    if s.fencedKey f.aux then s
    else if s.zeroing f.aux then s.holdZero f.aux (.leafSealOr flight)
    else
    let (t, s) := (s.scrub f.aux 8).service f.aux
    if (s.badWord f.aux 8).isSome then
      s.reply flight (s.now + t) .loadReply { f with dst := keyCore f.aux, op := opValue, cause := 0x0F, tval := f.va }
    else
    let s := s.homeWrite f.aux 8 (s.read f.aux 8 ||| 0x80)
    let (d, s) := s.openTime
    s.post (s.now + t + s.pathClk (keyCore f.aux) f.src + d % 65536) (.sealReportAck flight))

/-- R239: the field controller has acknowledged the report; the tail is returned. -/
def execSealReportAck (flight : Nat) (s : State) : Out State :=
  .next (match s.flight? flight with
  | none => s
  | some f =>
    let s := s.land flight
    if (s.slot f.slot).ember ≠ f.ember ∨ f.dead then s
    else (s.modSlot f.slot fun v => v.setX f.rd (f.data.setWidth 64)).complete f.slot)

/-! Replicas (R240, R241). -/

/-- R240: the size of a sealable frame, from its append-table entry. -/
def State.frameBig (s : State) (frame : Nat) : Bool :=
  (Tab.find? (s.home (keyHome frame)).appends frame).any (·.big)

/-- R240, R241: starts a copy of a sealed page, if there is a frame for it and none is held. -/
def State.startReplica (s : State) (f frame : Nat) : State :=
  let d := s.field f
  let big := s.frameBig frame
  let owner := Tab.get (s.home (keyHome frame)).bankOwner (keyBank frame) 0
  if d.replicas.any (·.frame == frame) ∨ 256 ≤ d.replicas.length
    ∨ !(Tab.find? (s.home (keyHome frame)).appends frame).any (·.closed) then s
  else match d.pool.find? (fun p => p.1 == owner && p.2.1 == big) with
    | none => s
    | some p =>
      let (n, s) := s.openTime
      (s.modField f fun d => { d with
        pool := d.pool.erase p, replicas := d.replicas ++ [⟨frame, p.2.2, big, owner, false, 0, false⟩] }).post
          (s.now + (if big then 4194304 else 4096) + n) (.replicaCopyDone f frame)

/-- R241: srepl. -/
def execSrepl (rs1 rs2 : Reg) (s : State) : Out State :=
  let a := s.x rs1
  let n := (s.x rs2).toNat
  .next (
    if n / 64 ≠ 0 then s.illegal
    else s.afterRows fun s => s.withAccess .load a 1 fun s _ t =>
      if !t.any (fun t => leafClass t.leaf == 1) ∨ nFields ≤ n then s.retire
      else
        let frame := match t with
          | some t => leafFrame t.leaf
          | none => 0
        let f : Flight := { s.flightOf a frame with op := n }
        let (id, s) := (s.issued s.cur).register .sreplAccept f
        let (d, s) := s.openTime
        (s.await .memory).post (s.now + 1 + d % 65535) (.sreplAccept id))

/-- R241: the controller of the field accepts a request. -/
def execSreplAccept (flight : Nat) (s : State) : Out State :=
  .next (match s.flight? flight with
  | none => s
  | some f =>
    let s := (s.land flight).startReplica f.op f.key
    if (s.slot f.slot).ember ≠ f.ember ∨ f.dead then s else s.complete f.slot)

/-- R240: the threshold has been reached. -/
def execReplicaCreate (field frame : Nat) (s : State) : Out State :=
  if nFields ≤ field then .fault .noSuchUnit else .next (s.startReplica field frame)

/-- Copies n bytes of storage, with their tags; a unit in error is in error in the copy. -/
def State.copyRange (s : State) (src dst n : Nat) : State :=
  let inside (a k : Nat) : Bool := decide (a ≤ k) && decide (k < a + n)
  let cells := s.mem.filter fun c => inside src c.1
  let tags := s.tags.filter fun c => inside src (8 * c.1)
  let s := s.zeroRange dst n
  { s with mem := cells.foldl (fun m c => memSet m (c.1 - src + dst) c.2) s.mem,
           tags := tags.foldl (fun t c => Tab.set t (c.1 - src / 8 + dst / 8) c.2) s.tags,
           bad := s.bad.filter (!inside dst ·) ++ (s.bad.filter (inside src)).map fun a => a - src + dst }

/-- R240: the copy is finished. After an alarm erasure DRAM takes no access, and it never is (R304). -/
def execReplicaCopyDone (field frame : Nat) (s : State) : Out State :=
  if nFields ≤ field then .fault .noSuchUnit
  else .next (match (s.field field).replicas.find? (·.frame == frame) with
    | none => s
    | some r =>
      if r.done ∨ r.drop ∨ s.erased frame then s
      else (s.copyRange frame r.copy (if r.big then 2 ^ 26 else 2 ^ 16)).modField field fun d => { d with
        replicas := d.replicas.map fun x => if x.frame = frame then { x with done := true } else x })

/-- R240: the controller drops a replica, which serves no read from then on; its frame returns to the tail of the pool once
every read sent to it has been answered. -/
def execReplicaDrop (field frame : Nat) (s : State) : Out State :=
  if nFields ≤ field then .fault .noSuchUnit
  else .next (match (s.field field).replicas.find? (·.frame == frame) with
    | none => s
    | some r =>
      let inside (a : Nat) : Bool := decide (r.copy ≤ a) && decide (a < r.copy + if r.big then 2 ^ 26 else 2 ^ 16)
      if s.flights.any (fun p => p.2.served && inside p.2.key) then
        (s.modField field fun d => { d with
          replicas := d.replicas.map fun x => if x.frame = frame then { x with done := false, drop := true } else x }).post
            (s.now + 1) (.replicaDrop field frame)
      else s.modField field fun d => { d with
        replicas := d.replicas.filter (fun x => x.frame != frame), pool := d.pool ++ [(r.owner, r.big, r.copy)] })

/-- R240: the read counts of a field restart, every 2^16 clk of its counter. -/
def execReplicaPeriod (field : Nat) (s : State) : Out State :=
  if nFields ≤ field then .fault .noSuchUnit
  else .next ((s.modField field fun d => { d with reads := [] }).post
    (s.now + (65536 - s.counter field % 65536)) (.replicaPeriod field))

end Sys2Proof.Machine
end

