-- ==== Sys2Proof/Machine/Vector.lean ====
section
/-! DEFINITION. The vector unit (spec/07, R146 to R173): the sequence buffer, what each entry does when it executes, and
the instructions of custom-2, the row accesses, the row messages, `vsave` and `vrest`. -/

namespace Sys2Proof.Machine

/-! Legality at issue (R20, R152). -/

def VOp.special (op : VOp) : Bool := [VOp.rcp, .rsq, .exp2, .log2, .tanh].contains op
def VOp.compare (op : VOp) : Bool := [VOp.ceq, .cne, .clt, .cle].contains op
def VOp.logic (op : VOp) : Bool := [VOp.land, .lor, .lxor, .sll, .srl, .sra].contains op
def VOp.shift (op : VOp) : Bool := [VOp.sll, .srl, .sra].contains op
def VOp.reduction (op : VOp) : Bool := [VOp.rsum, .rmax, .rmin, .get].contains op

/-- R152: the word rounds in the captured `frm`; t is the target of `vcvt`. -/
def VOp.rounds (op : VOp) (form : VForm) (et t : Nat) : Bool :=
  let narrow := et == 1 || et == 2
  match op with
  | .add | .sub | .mul | .fma | .fnma | .rsum => decide (et ≤ 2)
  | .bc | .sel => form == .vf && narrow
  | .cvt => decide (et ≤ 2) || decide (t ≤ 2)
  | .rcp | .rsq | .exp2 | .log2 | .tanh => narrow
  | .had | .hadS | .amul | .norm | .qnt | .dqnt => true
  | _ => false

/-- R20, R152: a custom-2 word is legal under ET and FRM; t is the target of `vcvt`, `isF` the file of a reduction. -/
def VOp.legal (op : VOp) (form : VForm) (et frm t : Nat) (isF : Bool) : Bool :=
  let int := decide (3 ≤ et)
  decide (et ≤ 5)
    && !(form == .vf && int)
    && !((form == .vx || form == .vi) && !int && !op.logic && op != .rot)
    && !(op.special && int)
    && !([VOp.had, .hadS, .qnt, .dqnt].contains op && decide (et ≠ 0))
    && !([VOp.amul, .conj, .norm].contains op && decide (2 ≤ et))
    && !(op.reduction && isF == int)
    && !(op.rounds form et t && decide (5 ≤ frm))

/-! When an entry may execute (R149). -/

/-- R149: a tile operation of the slot's ember on a half has not completed. -/
def State.halfBusy (s : State) (k h : Nat) : Bool :=
  let v := s.slot k
  let m := (s.cluster (slotCluster k)).mx
  let mine (t : Tile) : Bool := t.slot == k && t.ember == v.ember && t.half == h && (t.kind == .mma || t.kind == .mmal || t.kind == .clr)
  (s.core (slotCore k)).mq.any mine || m.pending.any mine || (m.running.map (·.2)).any mine

/-- R149, R170: the entry waits for a tile operation on a half of one of its rows, or for the data of a row. -/
def State.rowsWait (s : State) (k : Nat) (e : VEntry) : Bool :=
  let rows := e.rows
  (e.op != .tile || e.tile.kind == .gth) && rows.any (fun r => s.halfBusy k (r / 16))
    || (s.slot k).rowPend.any (fun p => rows.contains p.2)

/-! Entering the buffer (R149, R150, R161). -/

/-- The head entry is looked at in a cycle of the slot from clk t on: an operation of the matrix unit leaves for its
queue (R257), any other executes. -/
def State.postEntry (s : State) (k t : Nat) (h : VEntry) : State :=
  s.postRank (s.nextIssue k t) 2 (if h.op = .tile then .matrixEnqueue k else .vectorEntryExecute k)

/-- R149: the first clk at which an entry may execute. -/
def State.entryClk (s : State) (k : Nat) (e : VEntry) : Nat := e.at_ + s.clk (slotField k) 8

/-- R161: a body word has issued; with the last one the body is whole, or is dropped when the count is 0. A body with the
count 0 keeps what its words did at issue: a window that they claimed stays held (R161 gives such a body no effect, R146
has the claim at issue). DESIGN CHOICE, log 62. -/
def Slot.bodyIssued (v : Slot) (now : Nat) (claimed : Bool) : Slot :=
  match v.rep with
  | none => v
  | some r =>
    if r.left = 0 then v
    else if r.left = 1 then
      if r.count = 0 then { v with rep := none, vbuf := v.vbuf.filter (fun e => !e.body) }
      else { v with
        rep := some { r with left := 0 }, vbuf := v.vbuf.map fun e => if e.body then { e with at_ := now } else e }
    else { v with rep := some { r with left := r.left - 1, claim := r.claim || claimed } }

/-- R70, R146, R149: the entry enters the buffer with the state that it captures. -/
def State.push (s : State) (e : VEntry) : State :=
  let k := s.cur
  let claimed := !s.me.accHeld && e.rows != []
  let s := if e.rows = [] then s else s.claim
  let v := s.me
  let e := { e with asid := v.asid, vtype := v.vtype.toNat, frm := v.frm.toNat, at_ := s.now, body := v.rep.any fun r => decide (0 < r.left) }
  let s := s.modMe fun v => ({ v with vbuf := v.vbuf ++ [e], vlive := true }).bodyIssued s.now claimed
  if v.vlive then s else s.postEntry k (s.entryClk k e) ((v.vbuf ++ [e]).headD e)

/-- R150: waits for a free entry. -/
def State.withRoom (s : State) (next : State → State) : State :=
  if 16 ≤ s.me.vbuf.length then s.notReady .memory else next s

/-- An instruction that names a row enters the buffer and leaves the integer pipeline. -/
def State.enqueue (s : State) (e : VEntry) : State := s.withWindow fun s => s.withRoom fun s => (s.push e).retire

/-- R150: an instruction of the reduction group waits until its entry has executed. -/
def State.enqueueWait (s : State) (e : VEntry) : State :=
  s.withWindow fun s => s.withRoom fun s => ((s.issued s.cur).push e).await .memory

/-! Lane operations (R153 to R159). Each answers the new row and the flags. -/

/-- R148: enabled lanes are replaced by `f i`, whose flags are raised; the others keep their values. -/
def Slot.onLanes (v : Slot) (old : Row) (w : Nat) (f : Nat → Nat × Fl) : Row × Fl :=
  let l := (List.range (128 / w)).map fun i => if v.enabled i then f i else (laneAt old w i, 0)
  (rowOf w (l.map (·.1)), l.foldl (fun a p => a ||| p.2) 0)

/-- R66, R153: min or max of a lane and an FP32 scalar that is not converted; a scalar that the lane format cannot hold
is delivered as `open_`. Log 16. -/
def minMaxScalar (f : Fmt) (max : Bool) (x y open_ : Nat) : Nat × Fl :=
  let a := unpack f x
  let b := unpack fp32 y
  let fl := nvEq a b
  let scalar : Nat :=
    let (r, fl) := roundTo f .rne b
    if fl = 0 then r else open_
  if a.isNan && b.isNan then (f.nan, fl)
  else if a.isNan then (scalar, fl)
  else if b.isNan then (x, fl)
  else
    let less := ltN a b || (eqN a b && a.isNeg && !b.isNeg)
    (if less != max then x else scalar, fl)

/-- R153: arithmetic on one FP lane. -/
def VEntry.fpLane (e : VEntry) (f : Fmt) (r1 r2 old : Row) (open_ i : Nat) : Nat × Fl :=
  let w := etW e.et
  let x := laneAt r1 w i
  let a := unpack f x
  let b := e.bNum r2 f w i
  let c := unpack f (laneAt old w i)
  let mm (max : Bool) : Nat × Fl :=
    if e.form = .vf ∧ f ≠ fp32 then minMaxScalar f max x (e.b.toNat % 2 ^ 32) open_
    else minMax f max x (if e.form = .vf then e.b.toNat % 2 ^ 32 else laneAt r2 w i)
  match e.op with
  | .add => fin2 f e.rm (sumN e.rm [a, b])
  | .sub => fin2 f e.rm (sumN e.rm [a, b.neg])
  | .mul => fin2 f e.rm (mulN a b)
  | .fma => fin2 f e.rm (fmaN e.rm false false a b c)
  | .fnma => fin2 f e.rm (fmaN e.rm true false a b c)
  | .min => mm false
  | _ => mm true

/-- R77, R153: arithmetic on one integer lane. -/
def VEntry.intLane (e : VEntry) (r1 r2 old : Row) (i : Nat) : Nat :=
  let w := etW e.et
  let a := laneInt w (laneAt r1 w i)
  let b := laneInt w (e.bLane r2 false w i)
  let c := laneInt w (laneAt old w i)
  deliver e.sat w (match e.op with
    | .add => a + b
    | .sub => a - b
    | .mul => a * b
    | .fma => c + a * b
    | .fnma => c - a * b
    | .min => if a < b then a else b
    | _ => if a < b then b else a)

/-- R154: one lane of the logic group. -/
def VEntry.logicLane (e : VEntry) (r1 r2 : Row) (i : Nat) : Nat :=
  let w := etW e.et
  let x := laneAt r1 w i
  let a := BitVec.ofNat (8 * w) x
  let b := e.bLane r2 e.op.shift w i
  let n := b % (8 * w)
  match e.op with
  | .land => x &&& b
  | .lor => x ||| b
  | .lxor => x ^^^ b
  | .sll => (a <<< n).toNat
  | .srl => (a >>> n).toNat
  | _ => (a.sshiftRight n).toNat

/-- R155: the truth and the flags of one lane of a compare. -/
def VEntry.compareLane (e : VEntry) (r1 r2 : Row) (i : Nat) : Bool × Fl :=
  let w := etW e.et
  match etFmt e.et with
  | some f =>
    let a := unpack f (laneAt r1 w i)
    let b := e.bNum r2 f w i
    match e.op with
    | .ceq => (eqN a b, nvEq a b)
    | .cne => (!eqN a b, nvEq a b)
    | .clt => (ltN a b, nvLt a b)
    | _ => (ltN a b || eqN a b, nvLt a b)
  | none =>
    let a := laneInt w (laneAt r1 w i)
    let b := laneInt w (e.bLane r2 false w i)
    (match e.op with
    | .ceq => decide (a = b)
    | .cne => decide (a ≠ b)
    | .clt => decide (a < b)
    | _ => decide (a ≤ b), 0)

/-- R156, R157: b in the lane format: a lane, a constant, X[rs2], or F[rs2], rounded on BF16 and FP16 lanes. -/
def VEntry.bValue (e : VEntry) (r2 : Row) (i : Nat) : Nat × Fl :=
  let w := etW e.et
  match e.form, etFmt e.et with
  | .vf, some f => if f = fp32 then (e.b.toNat % 2 ^ 32, 0) else convert fp32 f e.rm (e.b.toNat % 2 ^ 32)
  | _, _ => (e.bLane r2 false w i, 0)

/-- R156: `vsel`: every lane, and the flags of its one rounding. -/
def VEntry.select (e : VEntry) (v : Slot) (r1 r2 : Row) : Row × Fl :=
  let w := etW e.et
  (rowOf w ((List.range (128 / w)).map fun i => if v.enabled i then laneAt r1 w i else (e.bValue r2 i).1),
    if e.form = .vf then (e.bValue r2 0).2 else 0)

/-- R157: `vneg` and `vabs` of one lane. -/
def VEntry.signLane (e : VEntry) (r1 : Row) (i : Nat) : Nat :=
  let w := etW e.et
  let x := laneAt r1 w i
  match etFmt e.et with
  | some f => if e.op = .neg then x ^^^ f.sign else x % f.sign
  | none =>
    let a := laneInt w x
    deliver e.sat w (if e.op = .neg then -a else a.natAbs)

/-- R158: a special function of one lane. -/
def VEntry.specialLane (e : VEntry) (r1 : Row) (i : Nat) : Nat × Fl :=
  let w := etW e.et
  let f := (etFmt e.et).getD fp32
  let (x, fl) := if f = fp32 then (laneAt r1 w i, 0) else widen f (laneAt r1 w i)
  let (y, fl') := match e.op with
    | .rcp => rcpF x
    | .rsq => rsqF x
    | .exp2 => exp2F x
    | .log2 => log2F x
    | _ => tanhF x
  if f = fp32 then (y, fl')
  else
    let (z, fl'') := convert fp32 f e.rm y
    (z, fl ||| fl' ||| fl'')

/-- R159: the lane i of the target of `vcvt`; the target type is `b` [2:0] and the saturate bit `b` [3]. -/
def VEntry.convertLane (e : VEntry) (r1 : Row) (i : Nat) : Nat × Fl :=
  let t := e.b.toNat % 8
  let w := etW e.et
  let w' := etW t
  if 128 / w ≤ i then (0, 0)
  else
    let x := laneAt r1 w i
    let lim : Int := 2 ^ (8 * w' - 1)
    match etFmt e.et, etFmt t with
    | some f, some g => convert f g e.rm x
    | some f, none =>
      let (v, fl) := toInt e.rm (-lim) (lim - 1) (unpack f x)
      ((BitVec.ofInt (8 * w') v).toNat, fl)
    | none, some g => roundTo g e.rm (ofInt (laneInt w x))
    | none, none => (deliver (e.b.getLsbD 3) w' (laneInt w x), 0)

/-! The butterfly (R162). -/

/-- R162: one stage of the butterfly, for distance d. -/
def hadStage (rm : Rm) (d : Nat) (y : List Nat) : List Nat × Fl :=
  let l := (List.range 32).map fun i =>
    if i / d % 2 = 0 then addF fp32 rm (y.getD i 0) (y.getD (i + d) 0) else subF fp32 rm (y.getD (i - d) 0) (y.getD i 0)
  (l.map (·.1), l.foldl (fun a p => a ||| p.2) 0)

/-- R162: the five stages, and the scaling of `vhad.s`. -/
def hadamard (rm : Rm) (scaled : Bool) (y : List Nat) : List Nat × Fl :=
  let (y, fl) := [1, 2, 4, 8, 16].foldl (fun (p : List Nat × Fl) d =>
    let (z, fl) := hadStage rm d p.1
    (z, p.2 ||| fl)) (y, 0)
  if !scaled then (y, fl)
  else
    let l := y.map fun x => mulF fp32 rm x 0x3D000000
    (l.map (·.1), l.foldl (fun a p => a ||| p.2) fl)

/-! Algebra (R163 to R165). -/

/-- R163: component k of the product of two elements through a table. -/
def algebraMul (t : Row) (dv k : Nat) (a b : Nat → Num) (rm : Rm) : Num × Fl :=
  let d := min dv (tableD t)
  let terms := ((List.range d).flatMap fun p => (List.range d).filterMap fun q =>
    match tableCoef t p q with
    | some c => if c.k = k then some (let (x, fl) := mulN (a p) (b q); (c.apply x, fl)) else none
    | none => none)
  let (x, fl) := sumN rm (terms.map (·.1))
  (x, terms.foldl (fun f p => f ||| p.2) fl)

/-- R165: the quadratic form of an element. -/
def algebraNorm (t : Row) (dv : Nat) (a : Nat → Num) (rm : Rm) : Num × Fl :=
  let terms := (List.range (min dv (tableD t))).filterMap fun p =>
    match tableCoef t p p with
    | some c =>
      if c.k = 0 then
        let (x, fl) := mulN (a p) (a p)
        some (if tableConj t p then (c.apply x).neg else c.apply x, fl)
      else none
    | none => none
  let (x, fl) := sumN rm (terms.map (·.1))
  (x, terms.foldl (fun f p => f ||| p.2) fl)

/-- R163 to R165: the algebra instructions: elements whose lanes are all enabled are written. -/
def VEntry.algebra (e : VEntry) (v : Slot) (t r1 r2 old : Row) : Row × Fl :=
  let w := etW e.et
  let f := (etFmt e.et).getD fp32
  let d := e.dv
  let comp (r : Row) (i p : Nat) : Num := unpack f (laneAt r w (i / d * d + p))
  let one (i : Nat) : Nat × Fl :=
    let p := i % d
    match e.op with
    | .amul => fin2 f e.rm (algebraMul t d p (comp r1 i) (comp r2 i) e.rm)
    | .norm => if p = 0 then fin2 f e.rm (algebraNorm t d (comp r1 i) e.rm) else (0, 0)
    | _ => (if tableConj t p && !(unpack f (laneAt r1 w i)).isNan then laneAt r1 w i ^^^ f.sign else laneAt r1 w i, 0)
  let l := (List.range (128 / w)).map fun i =>
    if (List.range d).all fun p => v.enabled (i / d * d + p) then one i else (laneAt old w i, 0)
  (rowOf w (l.map (·.1)), l.foldl (fun a p => a ||| p.2) 0)

/-! Reductions and lane reads (R160). -/

/-- R160: the scalar result and the flags of the reduction group. -/
def VEntry.reduce (e : VEntry) (v : Slot) (r1 : Row) : Nat × Fl :=
  let w := etW e.et
  let n := 128 / w
  let on := (List.range n).filter v.enabled
  match etFmt e.et with
  | some f =>
    let wide (x : Nat) : Nat × Fl := if f = fp32 then (x, 0) else widen f x
    let wide' (p : Nat × Fl) : Nat × Fl := ((wide p.1).1, p.2 ||| (wide p.1).2)
    match e.op with
    | .get => wide (laneAt r1 w (e.b.toNat % n))
    | .rsum =>
      let l := (List.range n).map fun i => if v.enabled i then some (wide (laneAt r1 w i)) else none
      let (r, fl) := sumTree e.rm (Nat.log2 n) (l.map fun p => p.map (·.1))
      let a := unpack fp32 r
      let (r, fl) := if a.isNan then (fp32.nan, fl ||| nvEq a a) else (r, fl)
      (r, l.foldl (fun a p => a ||| (p.map (·.2)).getD 0) fl)
    | _ =>
      match on.map (laneAt r1 w) with
      | [] => (0, 0)
      | [x] =>
        let a := unpack f x
        wide' (if a.isNan then (f.nan, nvEq a a) else (x, 0))
      | x :: xs =>
        let (r, fl) := xs.foldl (fun (p : Nat × Fl) y =>
          let (z, fl) := minMax f (e.op == .rmax) p.1 y
          (z, p.2 ||| fl)) (x, 0)
        wide' (r, fl)
  | none =>
    let l := on.map fun i => laneInt w (laneAt r1 w i)
    let r : Int := match e.op with
      | .get => laneInt w (laneAt r1 w (e.b.toNat % n))
      | .rsum => l.sum
      | .rmax => l.foldl max (l.headD 0)
      | _ => l.foldl min (l.headD 0)
    ((BitVec.ofInt 64 r).toNat, 0)

/-! Executing an entry (R149 to R171). -/

/-- R151, R259: flags accrue in the ember's `fcsr` and in the cluster flag union. -/
def State.raise (s : State) (k : Nat) (fl : Fl) : State :=
  (s.accrue k fl).modCluster (slotCluster k) fun c => { c with flagUnion := c.flagUnion ||| fl }

/-- Writes a row of the slot and raises the flags. -/
def State.putRow (s : State) (k vd : Nat) (p : Row × Fl) : State := (s.setRow k vd p.1).raise k p.2

/-- R155: writes the mask bits of a compare. -/
def State.putMask (s : State) (k : Nat) (e : VEntry) (r1 r2 : Row) : State :=
  let v := s.slot k
  let n := etL e.et
  let l := (List.range n).map fun i => if v.enabled i then e.compareLane r1 r2 i else (v.enabled i, 0)
  let half (lo : Nat) (old : Word) : Word :=
    (List.range 64).foldl (fun (m : Word) i =>
      let bit : Word := 1 <<< i
      if lo + i < n then (if (l.getD (lo + i) (false, 0)).1 then m ||| bit else m &&& ~~~ bit) else m) old
  (s.modSlot k fun v => { v with vmk := half 0 v.vmk, vmkh := half 64 v.vmkh }).raise k (l.foldl (fun a p => a ||| p.2) 0)

/-- The report of a row access that a slice refuses (R30). -/
def State.rowReport (s : State) (k cause : Nat) (va : Word) : State := s.report k (s.slot k).ember cause va

/-- A request of slot k for a row access that has left the buffer. -/
def State.rowFlight (s : State) (k : Nat) (va : Word) (key : Nat) : Flight :=
  let v := s.slot k
  { next := .loadReply 0, slot := k, ember := v.ember, src := slotCore k, dst := keyCore key, va := va, key := key,
    asid := v.asid, owner := v.owner }

/-- The key lies in the slice of slot k's core. -/
def State.sliceOf (k key : Nat) : Bool := decide (2 ^ 44 ≤ key) && keyCore key == slotCore k

/-- R219, R220, R246: an access of slot k to its own slice cannot be performed yet. -/
def State.nearWaits (s : State) (k : Nat) (keys : List Nat) : Bool :=
  keys.any fun a => State.sliceOf k a && s.ownerOk a (s.slot k).owner false && s.zeroing a

/-- A row read (`vlr`, `vlrg`, `vdqnt`) of slot k sends for data, or takes them word by word from the own slice (R245);
later entries that name the row wait. -/
def State.rowRead (s : State) (k vd : Nat) (f : Flight) : Option State :=
  if State.sliceOf k f.key then
    if s.nearWaits k f.words.2 then none
    else
      let (id, s) := s.register .farLoadAtHome { f with rd := vd, near := true }
      some ((s.modSlot k fun v => { v with rowPend := v.rowPend ++ [(id, vd)] }).serveRead id)
  else
  let twin := f.pair.filter fun p => (s.slot k).outs.any (·.id == p)
  if twin = none ∧ 63 ≤ (s.slot k).loads ∨ s.storesHeld k then none
  else
    let (id, s) := (s.countFarOf k f.key 7).request .farLoadAtHome { f with rd := vd }
    some ((s.addOut k ⟨id, false, keyCore f.key, none, true, twin⟩).modSlot k fun v => { v with
      rowPend := v.rowPend ++ [(id, vd)] })

/-- A row store (`vsr`, `vqnt`) of slot k to another slice or to DRAM; a second one of the same instruction counts with
the first, `twin`. -/
def State.rowStore (s : State) (k : Nat) (twin : Option Nat) (f : Flight) : Option (Nat × State) :=
  if twin = none ∧ 63 ≤ (s.slot k).stores then none
  else
    let (id, s) := (s.countFarOf k f.key 8).requestAfter (s.slot k).loadIds .farStoreAtHome f
    some (id, s.addOut k ⟨id, true, keyCore f.key, none, true, twin⟩)

/-- R219, R220, R246: the own slice cannot take a store of slot k yet. -/
def State.nearStoreWaits (s : State) (k key : Nat) : Bool :=
  State.sliceOf k key && s.ownerOk key (s.slot k).owner false && (s.zeroing key || (s.slot k).loadIds != [])

/-- A row store of n bytes to the own slice: performed word by word (R245), or refused with a report. -/
def State.nearStore (s : State) (k : Nat) (va : Word) (key n v : Nat) : State :=
  let (id, s) := s.register .farStoreAtHome { s.rowFlight k va key with size := n, data := BitVec.ofNat 1024 v, near := true }
  s.serveWrite id

/-- R170: `vlr` leaves the buffer. -/
def State.runLoad (s : State) (k : Nat) (e : VEntry) : Option State :=
  s.rowRead k e.vd { s.rowFlight k e.b e.key with size := 128, op := opRow, ro := e.ro }

/-- R170: `vsr` leaves the buffer. -/
def State.runStore (s : State) (k : Nat) (e : VEntry) : Option State :=
  let data := s.row k e.vs2
  if s.nearStoreWaits k e.key then none
  else if State.sliceOf k e.key then some (s.nearStore k e.b e.key 128 data.toNat)
  else (s.rowStore k none { s.rowFlight k e.b e.key with size := 128, data := data }).map (·.2)

/-- R171: the lanes of a gather, each with the key of its word; or the first address outside the slice. -/
def State.gatherKeys (s : State) (k : Nat) (e : VEntry) : Except Word (List (Nat × Nat)) :=
  let v := s.slot k
  let off := e.key - sliceKey (keyCore e.key)
  let l := ((List.range 32).filter v.enabled).map fun i => (i, 4 * laneAt (s.row k e.vs2) 4 i)
  match l.find? fun p => decide (2 ^ 19 ≤ off + p.2) with
  | some p => .error (e.b + BitVec.ofNat 64 p.2)
  | none => .ok (l.map fun p => (p.1, e.key + p.2))

/-- Writes gathered words to the lanes of a mask. -/
def State.putWords (s : State) (k vd : Nat) (l : List (Nat × Nat)) : State :=
  let old := s.row k vd
  s.setRow k vd (rowOf 4 ((List.range 32).map fun i => (Tab.find? l i).getD (laneAt old 4 i)))

/-- R171: `vlrg` leaves the buffer. -/
def State.runGather (s : State) (k : Nat) (e : VEntry) : Option State :=
  match s.gatherKeys k e with
  | .error a => some (s.rowReport k 0x13 a)
  | .ok [] => some s
  | .ok l =>
    let f := s.rowFlight k e.b e.key
    let mask := l.foldl (fun m p => m + 2 ^ p.1) 0
    s.rowRead k e.vd { f with
      size := 4 * l.length, op := opGather, aux := mask, args := l.map fun p => BitVec.ofNat 64 p.2 }

/-- The lanes of a mask, lowest first. -/
def maskLanes (m : Nat) : List Nat := (List.range 32).filter fun i => m / 2 ^ i % 2 == 1

/-! Planes (R167 to R169). -/

/-- R167: the mantissa width and the keys of the mantissas and the exponent of a block, or the trap. R167 does not say
that a block or its exponent lies in the slice that A names: the model lets each fall in any slice of the cluster, and
traps where its bytes straddle the end of one. DESIGN CHOICE, log 62. -/
def State.plane (s : State) (k : Nat) (d : Word) : Except (Nat × Word) (Nat × Nat × Nat) :=
  let n := d.toNat
  let m := bits n 52 4 + 1
  let a := n % 2 ^ 24
  let j := bits n 40 12
  let cl := slotCluster k
  let at_ (x : Nat) : Word := storeAddrAt (planeCore cl x) (x % 2 ^ 19)
  let bad (x len : Nat) : Option Word :=
    if x / 2 ^ 22 ≠ 0 ∨ !s.module.boot.enabled (planeCore cl x) then some (at_ x)
    else if 2 ^ 19 < x % 2 ^ 19 + len then some (storeAddrAt (planeCore cl x) (2 ^ 19)) else none
  let mant := a + 4 * m * j
  let ex := a + 64 * bits n 24 16 + j
  if n / 2 ^ 56 ≠ 0 ∨ m = 1 then .error (0x01, s.me.word.setWidth 64)
  else if a % 4 ≠ 0 then .error (0x03, at_ a)
  else match bad mant (4 * m), bad ex 1 with
    | some x, _ => .error (0x13, x)
    | none, some x => .error (0x13, x)
    | none, none =>
      let km := planeKey cl mant (mant % 2 ^ 19)
      let ke := planeKey cl ex (ex % 2 ^ 19)
      let own := (s.slot k).owner
      if !s.ownerOk km own false then .error (0x10, at_ mant)
      else if !s.ownerOk ke own false then .error (0x10, at_ ex)
      else .ok (m, km, ke)

/-- R168: `vqnt` leaves the buffer: the planes are written as stores, each at its own home. -/
def State.runQuantise (s : State) (k : Nat) (e : VEntry) : Option State :=
  let m := e.vd
  let ke := e.b.toNat
  let (x, mant, fl) := quantise e.rm m (lanes (s.row k e.vs1) 4)
  let put (s : State) (twin : Option Nat) (key n v : Nat) : Option (Option Nat × State) :=
    if State.sliceOf k key then some (none, s.nearStore k (storeAddr key) key n v)
    else (s.rowStore k twin { s.rowFlight k (storeAddr key) key with size := n, data := BitVec.ofNat 1024 v }).map
      fun p => (some p.1, p.2)
  if s.nearStoreWaits k e.key || s.nearStoreWaits k ke then none
  else (put s none e.key (4 * m) (packBlock m mant)).bind fun p => (put p.2 p.1 ke 1 x).map fun q => q.2.raise k fl

/-- R89, R169: the block's values go to the lanes of a mask. -/
def State.putBlock (s : State) (k vd m : Nat) (rm : Rm) (mask : Nat) (bytes : List Nat) : State :=
  let v := (bytes.take (4 * m)).foldr (fun b a => b + 256 * a) 0
  let x := bytes.getD (4 * m) 0
  let l := (maskLanes mask).map fun i => (i, dequantise rm m x (mantissa v m i))
  (s.putWords k vd (l.map fun p => (p.1, p.2.1))).raise k (l.foldl (fun a p => a ||| p.2.2) 0)

/-- R169: the value of a block whose bytes have all come: the mantissas, then the exponent. -/
def State.putDequant (s : State) (k : Nat) (f : Flight) (bytes : List Word) : State :=
  let m := f.aux / 2 ^ 35
  let e : VEntry := { op := .dqnt, frm := f.aux / 2 ^ 32 % 8 }
  if bytes.length = 4 * m + 1 then s.putBlock k f.rd m e.rm (f.aux % 2 ^ 32) (bytes.map (·.toNat)) else s

/-- R169: the bytes that one of the two reads of a `vdqnt` brings, with those of the other: an exponent is one byte. -/
def Flight.dequantBytes (f : Flight) : List Word := if f.args.length = 1 then f.bytes ++ f.args else f.args ++ f.bytes

/-- R169: `vdqnt` leaves the buffer: the planes are read, each at its own home. -/
def State.runDequantise (s : State) (k : Nat) (e : VEntry) : Option State :=
  let m := e.vs1
  let ke := e.b.toNat
  let keys := (List.range (4 * m)).map (e.key + ·)
  let f : Flight := { s.rowFlight k (storeAddr e.key) e.key with
    op := opDequant, aux := (m * 8 + e.frm % 8) * 2 ^ 32 + (s.slot k).vmk.toNat % 2 ^ 32, rd := e.vd }
  let ask (s : State) (l : List Nat) (f : Flight) : Option State :=
    let a := l.headD 0
    s.rowRead k e.vd { f with
      va := storeAddr a, key := a, dst := keyCore a, size := l.length, args := l.map (BitVec.ofNat 64) }
  if keyCore e.key = keyCore ke then ask s (keys ++ [ke]) f
  else if s.nearWaits k (ke :: keys) then none
  else (ask s keys { f with pair := some (s.nextId + 1) }).bind fun t => ask t [ke] { f with pair := some s.nextId }

/-- R141, R142, R248: `send.v` leaves the buffer: its row goes out under the number that it took at issue, once the
accesses and messages before it are done: row accesses that have left the buffer, and what issued before it. -/
def State.runSend (s : State) (k : Nat) (e : VEntry) : Option State :=
  let v := s.slot k
  let c := slotCore k
  let via := s.staticRoute c e.rd (bits e.b.toNat 30 6)
  let q := 8 * e.rd + bits e.b.toNat 36 3
  let r := if via.isSome then bits e.b.toNat 30 6 else 64
  let waits := (v.outs.filter fun o => o.row || decide (o.id < e.key)).map (·.id)
  let f : Flight :=
    { next := .messageArrival e.key, slot := k, ember := v.ember, src := c, dst := e.rd, op := q % 8, size := 128,
      data := s.row k e.vs2, via := via }
  let s := { s with flights := Tab.set s.flights e.key f }
  let s := s.modSlot k fun v => { v with outs := v.outs.map fun o => if o.id = e.key then { o with queue := some (q, r) } else o }
  some (if waits = [] then s.depart e.key s.now true f
    else s.modCore c fun v => { v with held := v.held ++ [(e.key, waits)] })

/-- R143: a message's bytes in a row. -/
def Msg.row_ (m : Msg) : Row := if m.row then m.data else BitVec.ofNat 1024 (m.data.toNat % 2 ^ 64)

/-- R296: the rows that an entry names are accessed. -/
def State.correctRows (s : State) (k : Nat) (rows : List Nat) : State :=
  let c := slotCore k
  if s.soft = [] then s
  else rows.foldl (fun t r => t.correct (coreField c) (6 * nCores + c) k (softRow c (32 * (t.slot k).accWin.toNat + r % 32))) s

/-- What an entry does when it executes; none while it must wait for room or storage. -/
def State.runEntry (s : State) (k : Nat) (e : VEntry) : Option State :=
  let s := s.correctRows k e.rows
  let v := s.slot k
  let r1 := s.row k e.vs1
  let r2 := s.row k e.vs2
  let old := s.row k e.vd
  let w := etW e.et
  let put (p : Row × Fl) : Option State := some (s.putRow k e.vd p)
  match e.op with
  | .add | .sub | .mul | .min | .max | .fma | .fnma =>
    match etFmt e.et with
    | some f =>
      let open_ (i : Nat) : Nat := (Config.freeValue (s.free + i)).toNat % 2 ^ (8 * w)
      some (({ s with free := s.free + 128 } : State).putRow k e.vd
        (v.onLanes old w fun i => e.fpLane f r1 r2 old (open_ i) i))
    | none => put (v.onLanes old w fun i => (e.intLane r1 r2 old i, 0))
  | .land | .lor | .lxor | .sll | .srl | .sra => put (v.onLanes old w fun i => (e.logicLane r1 r2 i, 0))
  | .ceq | .cne | .clt | .cle => some (s.putMask k e r1 r2)
  | .sel => put (e.select v r1 r2)
  | .perm => put (v.onLanes old w fun i => (laneAt r1 w (laneAt r2 w i % (128 / w)), 0))
  | .rot =>
    let b : Int := if e.form = .vi then ((e.b.setWidth 5).toInt) else e.b.toInt
    put (v.onLanes old w fun i => (laneAt r1 w (((i : Int) - b) % ((128 / w : Nat) : Int)).toNat, 0))
  | .bc => put (v.onLanes old w fun i => e.bValue r2 i)
  | .mv => put (v.onLanes old w fun i => (laneAt r1 w i, 0))
  | .neg | .abs => put (v.onLanes old w fun i => (e.signLane r1 i, 0))
  | .rcp | .rsq | .exp2 | .log2 | .tanh => put (v.onLanes old w fun i => e.specialLane r1 i)
  | .cvt => put (v.onLanes old (etW (e.b.toNat % 8)) fun i => e.convertLane r1 i)
  | .amul | .conj | .norm => put (e.algebra v ((s.cluster (slotCluster k)).table e.aslot) r1 r2 old)
  | .had | .hadS =>
    let (y, fl) := hadamard e.rm (e.op == .hadS) (lanes r1 4)
    put (v.merge old 4 (fun i => y.getD i 0), fl)
  | .rsum | .rmax | .rmin | .get =>
    let (x, fl) := e.reduce v r1
    let s := (s.raise k fl).modSlot k fun v => if e.isF then v.setF e.rd (BitVec.ofNat 32 x) else v.setX e.rd (BitVec.ofNat 64 x)
    some (s.completeAt k (v.pc + 4) (s.now + 1))
  | .lr => s.runLoad k e
  | .sr => s.runStore k e
  | .lrg => s.runGather k e
  | .qnt => s.runQuantise k e
  | .dqnt => s.runDequantise k e
  | .sendV => s.runSend k e
  | .recvV => some (s.setRow k e.vd e.data)
  | .tile => some s

/-- R149, R161: the executed entry leaves the buffer, or its repetition goes on. -/
def Slot.dropHead (v : Slot) : Slot :=
  match v.vbuf, v.rep with
  | e :: rest, some r =>
    if !e.body then { v with vbuf := rest }
    else if r.place + 1 < r.size then { v with rep := some { r with place := r.place + 1 } }
    else if r.round + 1 < r.count then { v with rep := some { r with place := 0, round := r.round + 1 } }
    else { v with rep := none, vbuf := v.vbuf.drop r.size }
  | _ :: rest, none => { v with vbuf := rest }
  | [], _ => v

/-- The buffer's head is looked at again, at the slot's next cycle or when it may first execute. -/
def State.entryNext (s : State) (k : Nat) : State :=
  match (s.slot k).vbuf with
  | [] => s.modSlot k fun v => { v with vlive := false }
  | h :: _ => s.postEntry k (max (s.now + 1) (s.entryClk k h)) h

/-- R133, R237: `exit` and `apnd.v` wait for the buffer in their own operation. They go on in the clk in which its last
entry leaves it; what R150 lists waits for the next cycle. -/
def bufferWaits (w : Code) : Bool := w == 0x0600000B || (w.toNat % 128 == 0x2B && bits w.toNat 12 3 == 4 && bits w.toNat 28 4 == 1)
def State.bufferLeft (s : State) (k : Nat) : State :=
  let v := s.slot k
  if v.vbuf = [] ∧ v.wait = .memory ∧ v.due.isSome ∧ bufferWaits v.word then s.modSlot k fun v => { v with due := some s.now } else s

/-- R149, R150: the vector unit executes the head entry of a slot's buffer, in a cycle of the slot. -/
def execVectorEntryExecute (slot : Nat) (s : State) : Out State :=
  if nSlots ≤ slot then .fault .noSuchUnit
  else .next (match (s.slot slot).vbuf with
    | [] => s.modSlot slot fun v => { v with vlive := false }
    | h :: _ =>
      if h.op = .tile then s.postRank s.now 2 (.matrixEnqueue slot)
      else match (s.slot slot).head with
        | none => s.entryNext slot
        | some e =>
          if s.now < s.entryClk slot h ∨ s.rowsWait slot e then s.entryNext slot
          else match s.runEntry slot e with
            | none => s.entryNext slot
            | some s => (((s.count slot 4 1).modSlot slot (·.dropHead)).entryNext slot).bufferLeft slot)

/-! The instructions of custom-2. -/

/-- R45: a lane instruction in one of its forms; for `vcvt` the constant is the target type. -/
def State.vop (s : State) (op : VOp) (form : VForm) (rd rs1 rs2 : Reg) : State :=
  let v := s.me
  if !op.legal form (v.vtype.toNat % 8) v.frm.toNat (rs2.toNat % 8) false then s.illegal
  else s.enqueue {
    op := op, form := form, vd := rd.toNat, vs1 := rs1.toNat, vs2 := rs2.toNat,
    b := match form with
      | .vx => s.x rs2
      | .vf => (s.fp rs2).setWidth 64
      | _ => rs2.setWidth 64 }

/-- R160: the reduction group; `b` is X[rs2] for `vget`. -/
def State.vreduce (s : State) (op : VOp) (isF : Bool) (rd rs1 : Reg) (b : Word) : State :=
  let v := s.me
  if !op.legal .unary (v.vtype.toNat % 8) v.frm.toNat 0 isF then s.illegal
  else s.enqueueWait { op := op, rd := rd.toNat, isF := isF, vs1 := rs1.toNat, b := b }

/-- R161: vrep. -/
def execVrep (cnt : BitVec 4) (rs1 stride : BitVec 5) (adv : BitVec 3) (s : State) : Out State :=
  let v := s.me
  let n := (s.x rs1).toNat
  .next (if 6 ≤ v.vtype.toNat % 8 ∨ 2 ^ 16 ≤ n then s.illegal
    else if v.rep.isSome then s.notReady .memory
    else (s.modMe fun v => { v with
      rep := some ⟨cnt.toNat + 1, cnt.toNat + 1, n, stride.toNat, adv.toNat, 0, 0, false⟩ }).retire)

/-- R167, R168: vqnt. The entry holds m in `vd` and the exponent's key in `b`. -/
def execVqnt (rs1 rs2 : Reg) (s : State) : Out State :=
  let v := s.me
  .next (if !VOp.qnt.legal .unary (v.vtype.toNat % 8) v.frm.toNat 0 false then s.illegal
    else s.withWindow fun s => match s.plane s.cur (s.x rs2) with
      | .error (c, x) => s.trap c x
      | .ok (m, km, ke) => s.enqueue { op := .qnt, vs1 := rs1.toNat, vd := m, key := km, b := BitVec.ofNat 64 ke })

/-- R167, R169: vdqnt. The entry holds m in `vs1` and the exponent's key in `b`. -/
def execVdqnt (rd rs2 : Reg) (s : State) : Out State :=
  let v := s.me
  .next (if !VOp.dqnt.legal .unary (v.vtype.toNat % 8) v.frm.toNat 0 false then s.illegal
    else s.withWindow fun s => match s.plane s.cur (s.x rs2) with
      | .error (c, x) => s.trap c x
      | .ok (m, km, ke) => s.enqueue { op := .dqnt, vd := rd.toNat, vs1 := m, key := km, b := BitVec.ofNat 64 ke })

/-- R153: vadd.vv. -/
def execVaddVv (rd rs1 rs2 : Reg) (s : State) : Out State := .next (s.vop .add .vv rd rs1 rs2)
/-- R153: vadd.vx. -/
def execVaddVx (rd rs1 rs2 : Reg) (s : State) : Out State := .next (s.vop .add .vx rd rs1 rs2)
/-- R153: vadd.vf. -/
def execVaddVf (rd rs1 rs2 : Reg) (s : State) : Out State := .next (s.vop .add .vf rd rs1 rs2)
/-- R153: vadd.vi. -/
def execVaddVi (rd rs1 imm5 : Reg) (s : State) : Out State := .next (s.vop .add .vi rd rs1 imm5)
/-- R153: vsub.vv. -/
def execVsubVv (rd rs1 rs2 : Reg) (s : State) : Out State := .next (s.vop .sub .vv rd rs1 rs2)
/-- R153: vsub.vx. -/
def execVsubVx (rd rs1 rs2 : Reg) (s : State) : Out State := .next (s.vop .sub .vx rd rs1 rs2)
/-- R153: vsub.vf. -/
def execVsubVf (rd rs1 rs2 : Reg) (s : State) : Out State := .next (s.vop .sub .vf rd rs1 rs2)
/-- R153: vsub.vi. -/
def execVsubVi (rd rs1 imm5 : Reg) (s : State) : Out State := .next (s.vop .sub .vi rd rs1 imm5)
/-- R153: vmul.vv. -/
def execVmulVv (rd rs1 rs2 : Reg) (s : State) : Out State := .next (s.vop .mul .vv rd rs1 rs2)
/-- R153: vmul.vx. -/
def execVmulVx (rd rs1 rs2 : Reg) (s : State) : Out State := .next (s.vop .mul .vx rd rs1 rs2)
/-- R153: vmul.vf. -/
def execVmulVf (rd rs1 rs2 : Reg) (s : State) : Out State := .next (s.vop .mul .vf rd rs1 rs2)
/-- R153: vmul.vi. -/
def execVmulVi (rd rs1 imm5 : Reg) (s : State) : Out State := .next (s.vop .mul .vi rd rs1 imm5)
/-- R153: vmin.vv. -/
def execVminVv (rd rs1 rs2 : Reg) (s : State) : Out State := .next (s.vop .min .vv rd rs1 rs2)
/-- R153: vmin.vx. -/
def execVminVx (rd rs1 rs2 : Reg) (s : State) : Out State := .next (s.vop .min .vx rd rs1 rs2)
/-- R153: vmin.vf. -/
def execVminVf (rd rs1 rs2 : Reg) (s : State) : Out State := .next (s.vop .min .vf rd rs1 rs2)
/-- R153: vmin.vi. -/
def execVminVi (rd rs1 imm5 : Reg) (s : State) : Out State := .next (s.vop .min .vi rd rs1 imm5)
/-- R153: vmax.vv. -/
def execVmaxVv (rd rs1 rs2 : Reg) (s : State) : Out State := .next (s.vop .max .vv rd rs1 rs2)
/-- R153: vmax.vx. -/
def execVmaxVx (rd rs1 rs2 : Reg) (s : State) : Out State := .next (s.vop .max .vx rd rs1 rs2)
/-- R153: vmax.vf. -/
def execVmaxVf (rd rs1 rs2 : Reg) (s : State) : Out State := .next (s.vop .max .vf rd rs1 rs2)
/-- R153: vmax.vi. -/
def execVmaxVi (rd rs1 imm5 : Reg) (s : State) : Out State := .next (s.vop .max .vi rd rs1 imm5)
/-- R153: vfma.vv. -/
def execVfmaVv (rd rs1 rs2 : Reg) (s : State) : Out State := .next (s.vop .fma .vv rd rs1 rs2)
/-- R153: vfma.vx. -/
def execVfmaVx (rd rs1 rs2 : Reg) (s : State) : Out State := .next (s.vop .fma .vx rd rs1 rs2)
/-- R153: vfma.vf. -/
def execVfmaVf (rd rs1 rs2 : Reg) (s : State) : Out State := .next (s.vop .fma .vf rd rs1 rs2)
/-- R153: vfnma.vv. -/
def execVfnmaVv (rd rs1 rs2 : Reg) (s : State) : Out State := .next (s.vop .fnma .vv rd rs1 rs2)
/-- R153: vfnma.vx. -/
def execVfnmaVx (rd rs1 rs2 : Reg) (s : State) : Out State := .next (s.vop .fnma .vx rd rs1 rs2)
/-- R153: vfnma.vf. -/
def execVfnmaVf (rd rs1 rs2 : Reg) (s : State) : Out State := .next (s.vop .fnma .vf rd rs1 rs2)
/-- R154: vand.vv. -/
def execVandVv (rd rs1 rs2 : Reg) (s : State) : Out State := .next (s.vop .land .vv rd rs1 rs2)
/-- R154: vand.vx. -/
def execVandVx (rd rs1 rs2 : Reg) (s : State) : Out State := .next (s.vop .land .vx rd rs1 rs2)
/-- R154: vand.vi. -/
def execVandVi (rd rs1 imm5 : Reg) (s : State) : Out State := .next (s.vop .land .vi rd rs1 imm5)
/-- R154: vor.vv. -/
def execVorVv (rd rs1 rs2 : Reg) (s : State) : Out State := .next (s.vop .lor .vv rd rs1 rs2)
/-- R154: vor.vx. -/
def execVorVx (rd rs1 rs2 : Reg) (s : State) : Out State := .next (s.vop .lor .vx rd rs1 rs2)
/-- R154: vor.vi. -/
def execVorVi (rd rs1 imm5 : Reg) (s : State) : Out State := .next (s.vop .lor .vi rd rs1 imm5)
/-- R154: vxor.vv. -/
def execVxorVv (rd rs1 rs2 : Reg) (s : State) : Out State := .next (s.vop .lxor .vv rd rs1 rs2)
/-- R154: vxor.vx. -/
def execVxorVx (rd rs1 rs2 : Reg) (s : State) : Out State := .next (s.vop .lxor .vx rd rs1 rs2)
/-- R154: vxor.vi. -/
def execVxorVi (rd rs1 imm5 : Reg) (s : State) : Out State := .next (s.vop .lxor .vi rd rs1 imm5)
/-- R154: vsll.vv. -/
def execVsllVv (rd rs1 rs2 : Reg) (s : State) : Out State := .next (s.vop .sll .vv rd rs1 rs2)
/-- R154: vsll.vx. -/
def execVsllVx (rd rs1 rs2 : Reg) (s : State) : Out State := .next (s.vop .sll .vx rd rs1 rs2)
/-- R154: vsll.vi. -/
def execVsllVi (rd rs1 imm5 : Reg) (s : State) : Out State := .next (s.vop .sll .vi rd rs1 imm5)
/-- R154: vsrl.vv. -/
def execVsrlVv (rd rs1 rs2 : Reg) (s : State) : Out State := .next (s.vop .srl .vv rd rs1 rs2)
/-- R154: vsrl.vx. -/
def execVsrlVx (rd rs1 rs2 : Reg) (s : State) : Out State := .next (s.vop .srl .vx rd rs1 rs2)
/-- R154: vsrl.vi. -/
def execVsrlVi (rd rs1 imm5 : Reg) (s : State) : Out State := .next (s.vop .srl .vi rd rs1 imm5)
/-- R154: vsra.vv. -/
def execVsraVv (rd rs1 rs2 : Reg) (s : State) : Out State := .next (s.vop .sra .vv rd rs1 rs2)
/-- R154: vsra.vx. -/
def execVsraVx (rd rs1 rs2 : Reg) (s : State) : Out State := .next (s.vop .sra .vx rd rs1 rs2)
/-- R154: vsra.vi. -/
def execVsraVi (rd rs1 imm5 : Reg) (s : State) : Out State := .next (s.vop .sra .vi rd rs1 imm5)
/-- R155: vceq.vv. -/
def execVceqVv (rs1 rs2 : Reg) (s : State) : Out State := .next (s.vop .ceq .vv 0 rs1 rs2)
/-- R155: vceq.vx. -/
def execVceqVx (rs1 rs2 : Reg) (s : State) : Out State := .next (s.vop .ceq .vx 0 rs1 rs2)
/-- R155: vceq.vf. -/
def execVceqVf (rs1 rs2 : Reg) (s : State) : Out State := .next (s.vop .ceq .vf 0 rs1 rs2)
/-- R155: vceq.vi. -/
def execVceqVi (rs1 imm5 : Reg) (s : State) : Out State := .next (s.vop .ceq .vi 0 rs1 imm5)
/-- R155: vcne.vv. -/
def execVcneVv (rs1 rs2 : Reg) (s : State) : Out State := .next (s.vop .cne .vv 0 rs1 rs2)
/-- R155: vcne.vx. -/
def execVcneVx (rs1 rs2 : Reg) (s : State) : Out State := .next (s.vop .cne .vx 0 rs1 rs2)
/-- R155: vcne.vf. -/
def execVcneVf (rs1 rs2 : Reg) (s : State) : Out State := .next (s.vop .cne .vf 0 rs1 rs2)
/-- R155: vcne.vi. -/
def execVcneVi (rs1 imm5 : Reg) (s : State) : Out State := .next (s.vop .cne .vi 0 rs1 imm5)
/-- R155: vclt.vv. -/
def execVcltVv (rs1 rs2 : Reg) (s : State) : Out State := .next (s.vop .clt .vv 0 rs1 rs2)
/-- R155: vclt.vx. -/
def execVcltVx (rs1 rs2 : Reg) (s : State) : Out State := .next (s.vop .clt .vx 0 rs1 rs2)
/-- R155: vclt.vf. -/
def execVcltVf (rs1 rs2 : Reg) (s : State) : Out State := .next (s.vop .clt .vf 0 rs1 rs2)
/-- R155: vclt.vi. -/
def execVcltVi (rs1 imm5 : Reg) (s : State) : Out State := .next (s.vop .clt .vi 0 rs1 imm5)
/-- R155: vcle.vv. -/
def execVcleVv (rs1 rs2 : Reg) (s : State) : Out State := .next (s.vop .cle .vv 0 rs1 rs2)
/-- R155: vcle.vx. -/
def execVcleVx (rs1 rs2 : Reg) (s : State) : Out State := .next (s.vop .cle .vx 0 rs1 rs2)
/-- R155: vcle.vf. -/
def execVcleVf (rs1 rs2 : Reg) (s : State) : Out State := .next (s.vop .cle .vf 0 rs1 rs2)
/-- R155: vcle.vi. -/
def execVcleVi (rs1 imm5 : Reg) (s : State) : Out State := .next (s.vop .cle .vi 0 rs1 imm5)
/-- R156: vsel.vv. -/
def execVselVv (rd rs1 rs2 : Reg) (s : State) : Out State := .next (s.vop .sel .vv rd rs1 rs2)
/-- R156: vsel.vx. -/
def execVselVx (rd rs1 rs2 : Reg) (s : State) : Out State := .next (s.vop .sel .vx rd rs1 rs2)
/-- R156: vsel.vf. -/
def execVselVf (rd rs1 rs2 : Reg) (s : State) : Out State := .next (s.vop .sel .vf rd rs1 rs2)
/-- R156: vsel.vi. -/
def execVselVi (rd rs1 imm5 : Reg) (s : State) : Out State := .next (s.vop .sel .vi rd rs1 imm5)
/-- R157: vperm.vv. -/
def execVpermVv (rd rs1 rs2 : Reg) (s : State) : Out State := .next (s.vop .perm .vv rd rs1 rs2)
/-- R157: vrot.vx. -/
def execVrotVx (rd rs1 rs2 : Reg) (s : State) : Out State := .next (s.vop .rot .vx rd rs1 rs2)
/-- R157: vrot.vi. -/
def execVrotVi (rd rs1 imm5 : Reg) (s : State) : Out State := .next (s.vop .rot .vi rd rs1 imm5)
/-- R157: vbc.vx. -/
def execVbcVx (rd rs2 : Reg) (s : State) : Out State := .next (s.vop .bc .vx rd 0 rs2)
/-- R157: vbc.vf. -/
def execVbcVf (rd rs2 : Reg) (s : State) : Out State := .next (s.vop .bc .vf rd 0 rs2)
/-- R157: vmv. -/
def execVmv (rd rs1 : Reg) (s : State) : Out State := .next (s.vop .mv .unary rd rs1 0)
/-- R157: vneg. -/
def execVneg (rd rs1 : Reg) (s : State) : Out State := .next (s.vop .neg .unary rd rs1 0)
/-- R157: vabs. -/
def execVabs (rd rs1 : Reg) (s : State) : Out State := .next (s.vop .abs .unary rd rs1 0)
/-- R158: vrcp. -/
def execVrcp (rd rs1 : Reg) (s : State) : Out State := .next (s.vop .rcp .unary rd rs1 0)
/-- R158: vrsq. -/
def execVrsq (rd rs1 : Reg) (s : State) : Out State := .next (s.vop .rsq .unary rd rs1 0)
/-- R158: vexp2. -/
def execVexp2 (rd rs1 : Reg) (s : State) : Out State := .next (s.vop .exp2 .unary rd rs1 0)
/-- R158: vlog2. -/
def execVlog2 (rd rs1 : Reg) (s : State) : Out State := .next (s.vop .log2 .unary rd rs1 0)
/-- R158: vtanh. -/
def execVtanh (rd rs1 : Reg) (s : State) : Out State := .next (s.vop .tanh .unary rd rs1 0)
/-- R159: vcvt. -/
def execVcvt (rd rs1 : Reg) (ty : BitVec 4) (s : State) : Out State := .next (s.vop .cvt .unary rd rs1 (ty.setWidth 5))
/-- R164: vconj. -/
def execVconj (rd rs1 : Reg) (s : State) : Out State := .next (s.vop .conj .unary rd rs1 0)
/-- R165: vnorm. -/
def execVnorm (rd rs1 : Reg) (s : State) : Out State := .next (s.vop .norm .unary rd rs1 0)
/-- R162: vhad. -/
def execVhad (rd rs1 : Reg) (s : State) : Out State := .next (s.vop .had .unary rd rs1 0)
/-- R162: vhad.s. -/
def execVhadS (rd rs1 : Reg) (s : State) : Out State := .next (s.vop .hadS .unary rd rs1 0)
/-- R163: vamul.vv. -/
def execVamulVv (rd rs1 rs2 : Reg) (s : State) : Out State := .next (s.vop .amul .vv rd rs1 rs2)
/-- R160: vrsum.x. -/
def execVrsumX (rd rs1 : Reg) (s : State) : Out State := .next (s.vreduce .rsum false rd rs1 0)
/-- R160: vrsum.f. -/
def execVrsumF (rd rs1 : Reg) (s : State) : Out State := .next (s.vreduce .rsum true rd rs1 0)
/-- R160: vrmax.x. -/
def execVrmaxX (rd rs1 : Reg) (s : State) : Out State := .next (s.vreduce .rmax false rd rs1 0)
/-- R160: vrmax.f. -/
def execVrmaxF (rd rs1 : Reg) (s : State) : Out State := .next (s.vreduce .rmax true rd rs1 0)
/-- R160: vrmin.x. -/
def execVrminX (rd rs1 : Reg) (s : State) : Out State := .next (s.vreduce .rmin false rd rs1 0)
/-- R160: vrmin.f. -/
def execVrminF (rd rs1 : Reg) (s : State) : Out State := .next (s.vreduce .rmin true rd rs1 0)
/-- R160: vget.x. -/
def execVgetX (rd rs1 rs2 : Reg) (s : State) : Out State := .next (s.vreduce .get false rd rs1 (s.x rs2))
/-- R160: vget.f. -/
def execVgetF (rd rs1 rs2 : Reg) (s : State) : Out State := .next (s.vreduce .get true rd rs1 (s.x rs2))

/-! Row accesses and messages. -/

/-- R170: the address of `vlr` is checked at issue as a load's, and what the home holds then is judged too. -/
def execVlr (rd rs1 : Reg) (s : State) : Out State :=
  let a := s.x rs1
  .next (s.withWindow fun s => s.withAccess .load a 128 fun s key t =>
    if !s.ownerOk key s.me.owner (readOnly t) then s.trap 0x10 a
    else match s.badWord key 128 with
    | some w => s.trap 0x0F (a + BitVec.ofNat 64 (w - key))
    | none => s.withRoom fun s => (s.replicaRead t).enqueue { op := .lr, vd := rd.toNat, b := a, key := key, ro := readOnly t })

/-- R170: vsr. -/
def execVsr (rs1 rs2 : Reg) (s : State) : Out State :=
  let a := s.x rs1
  .next (s.withWindow fun s => s.withAccess .store a 128 fun s key _ => s.enqueue { op := .sr, vs2 := rs2.toNat, b := a, key := key })

/-- R171: vlrg. -/
def execVlrg (rd rs1 rs2 : Reg) (s : State) : Out State :=
  let a := s.x rs1
  .next (s.withWindow fun s => if !translated a && !inStore a then s.trap 0x14 a
    else if a.toNat % 4 ≠ 0 then s.trap 0x03 a
    else match (if inStore a then s.storeKey a else none) with
      | none => s.trap 0x13 a
      | some key =>
        if !s.ownerOk key s.me.owner false then s.trap 0x10 a
        else s.enqueue { op := .lrg, vd := rd.toNat, vs2 := rs2.toNat, b := a, key := key })

/-- R141: send.v: checked and counted at issue; the row is read when the entry leaves the buffer. -/
def execSendV (rs1 rs2 : Reg) (s : State) : Out State :=
  .next (s.withWindow fun s => match s.sendCheck s.me.owner (s.x rs1) with
    | .error c => s.trap c (s.x rs1)
    | .ok dst => s.withRoom fun s =>
      if !s.countRoom true 1 then s.notReady .memory
      else
        let d := s.x rs1
        let (id, s) := s.newId
        let s := s.addOut s.cur ⟨id, true, dst, some (8 * dst + bits d.toNat 36 3, bits d.toNat 30 6), false, none⟩
        (s.push { op := .sendV, vs2 := rs2.toNat, rd := dst, key := id, b := d }).retire)

/-- R143: recv.v: the window is claimed before the wait, which the ember spends in its slot; a wait that times out leaves it
claimed, with zero rows. DESIGN CHOICE, log 62. -/
def execRecvV (rd rs1 : Reg) (s : State) : Out State :=
  .next (s.userOnly fun s => s.withWindow fun s => s.withRoom fun s =>
    s.claim.receive (s.x rs1) fun s m => (s.push { op := .recvV, vd := rd.toNat, data := m.row_ }).retire)

/-! vsave and vrest (R173). -/

/-- R173: no entry, no row under way and no tile operation is left. -/
def Slot.windowIdle (v : Slot) : Bool := v.vbuf.isEmpty && v.rowPend.isEmpty && decide (v.tiles = 0)

/-- R173: vsave. -/
def execVsave (rs1 : Reg) (s : State) : Out State :=
  let a := s.x rs1
  .next (s.supervisorOnly fun s => s.withAccess .store a 4096 fun s key _ =>
    let k := s.cur
    let own := s.ownSlice key
    if !s.me.windowIdle || s.nearStoreWaits k key || (!own && !s.countRoom true 32)
    then s.notReady .memory
    else
      let off (r : Nat) : Word := BitVec.ofNat 64 (128 * r)
      let s := (List.range 32).foldl (fun (t : State) r =>
        let data := t.row k r
        if own then
          t.nearStore k (a + off r) (key + 128 * r) 128 data.toNat
        else
          let (id, t) := (t.countFar key 8).requestAfter t.me.loadIds .farStoreAtHome
            { t.flightOf (a + off r) (key + 128 * r) with size := 128, data := data }
          t.track k id true key) s
      ((s.modMe fun v => { v with accHeld := false }).dropLatch k).retire)

/-- R173, R174: the rows of a window from the words of an area; the window is held. -/
def State.putWindow (s : State) (k : Nat) (ws : List Word) : State :=
  (List.range 32).foldl (fun t r =>
    t.setRow k r (BitVec.ofNat 1024 (((ws.drop (16 * r)).take 16).foldr (fun w n => w.toNat + 2 ^ 64 * n) 0)))
    ((s.modSlot k fun v => { v with accHeld := true }).dropLatch k)

/-- R173: vrest. -/
def execVrest (rs1 : Reg) (s : State) : Out State :=
  let a := s.x rs1
  .next (s.supervisorOnly fun s =>
    if s.windowTaken s.cur s.me.accWin.toNat then s.illegal
    else s.withAccess .load a 4096 fun s key t =>
    let k := s.cur
    if !s.me.windowIdle then s.notReady .memory
    else
    let f : Flight := { s.flightOf a key with size := 4096, op := opWindow, ro := readOnly t }
    if s.ownSlice key then s.atOwnSlice key 4096 a fun s =>
      let (id, s) := (s.issued k).register .farLoadAtHome { f with near := true }
      (s.await .memory).serveRead id
    else s.farRead t f)

end Sys2Proof.Machine
end

