-- ==== Sys2Proof/Machine/Collective.lean ====
section
/-! DEFINITION. The barrier tree and the collectives (spec/18, R328 to R337, R361). -/

namespace Sys2Proof.Machine

/-! Regions in the tree. -/

/-- R356: the core positions of a region's tree: its cores, and the positions whose core is harvested. -/
def Region.positions (r : Region) : List Nat := r.cores ++ r.harvested

/-- The fields of a region, ascending. -/
def Region.fields (r : Region) : List Nat := (List.range nFields).filter fun f => r.positions.any fun c => coreField c == f

/-- R328: the root: the lowest-numbered live field of the region. -/
def State.rootField (s : State) (r : Region) : Nat := (r.fields.find? fun f => !(s.field f).fenced).getD 0

/-- R329: the mask of a core is in effect in a context. -/
def Core.masked (c : Core) (k : Nat) : Bool := c.mask.isSome && !c.maskNext.contains k

/-- R329, R330: the clk from which a core counts as arrived in the current round of a context. -/
def State.arrivedAt (s : State) (b : BarCtx) (k c : Nat) : Option Nat :=
  let v := s.core c
  match (if Tab.get v.bround k 0 = b.round then Tab.find? v.arr k else none) with
  | some t => some t
  | none => if v.masked k then some (max (v.mask.getD 0) b.since) else none

/-- R330, R356: a field's AND is complete at its gateway. -/
def State.fieldArrived (s : State) (r : Region) (b : BarCtx) (k f : Nat) : Bool :=
  (r.positions.filter fun c => coreField c == f).all fun c => match s.arrivedAt b k c with
    | some t => decide (t + s.clk f 8 ≤ s.now)
    | none => false

/-- R330: the delay between a field's gateway and the root. -/
def State.treeClk (s : State) (r : Region) (f : Nat) : Nat :=
  let d := fieldDist f (s.rootField r)
  if d = 0 then 0 else s.clk f (14 + 4 * d)

def State.modBar (s : State) (region k : Nat) (f : BarCtx → BarCtx) : State :=
  s.modRegion region fun r => { r with bar := Tab.set r.bar k (f (Tab.get r.bar k {})) }
def State.modColl (s : State) (region k : Nat) (f : CollCtx → CollCtx) : State :=
  s.modRegion region fun r => { r with coll := Tab.set r.coll k (f (Tab.get r.coll k {})) }

/-- R330: what becomes arrived in a field now reaches its gateway 8 clk later. -/
def State.tellGateway (s : State) (region k f : Nat) : State :=
  s.post (s.now + s.clk f 8) (.barrierAndUpdate region k f)

/-- R330: an arrival reaches the field's gateway, or the field's AND the root; the root releases the round when it has
them all. -/
def execBarrierAndUpdate (region ctx field : Nat) (s : State) : Out State :=
  .next (match Tab.find? s.regions region with
  | none => s
  | some r =>
    let b := Tab.get r.bar ctx {}
    match Tab.find? b.sent field with
    | some t =>
      if s.now < t ∨ b.fields.contains field then s
      else
        let have_ := b.fields ++ [field]
        let s := s.modBar region ctx fun b => { b with fields := have_ }
        if r.fields.all have_.contains then s.post s.now (.barrierRelease region ctx) else s
    | none =>
      if s.fieldArrived r b ctx field then
        let t := s.now + s.treeClk r field
        (s.modBar region ctx fun b => { b with sent := Tab.set b.sent field t }).post t (.barrierAndUpdate region ctx field)
      else s)

/-- R329, R330: the root releases a round, and the next one starts. -/
def execBarrierRelease (region ctx : Nat) (s : State) : Out State :=
  .next (match Tab.find? s.regions region with
  | none => s
  | some r =>
    if !r.fields.all (Tab.get r.bar ctx {}).fields.contains then s
    else
      let s := s.modBar region ctx fun b => { b with round := b.round + 1, since := s.now, sent := [], fields := [] }
      let s := r.cores.foldl (fun t c => t.modCore c fun v => { v with maskNext := v.maskNext.filter (· != ctx) }) s
      r.fields.foldl (fun t f => (t.post (t.now + t.clk f 8 + t.treeClk r f) (.barrierReleaseSeen region ctx f)).tellGateway
        region ctx f) s)

/-! The instructions' words and descriptors (R334, R335). -/

/-- R334: a round is passed at a count. -/
def passed (count : BitVec 16) (d : Word) : Bool :=
  let n := (count.toNat + 65536 - bits d.toNat 32 16) % 65536
  decide (1 ≤ n ∧ n ≤ 32768)

/-- A slot of core c waits for a round: its descriptor, if its word is a barrier's (funct7 up to 2) or a collective's. -/
def State.roundWait (s : State) (k : Nat) (bar : Bool) : Option Word :=
  let v := s.slot k
  match v.park with
  | some p => match p.kind with
    | .round d => if decide (bits v.word.toNat 25 7 ≤ 2) = bar ∧ v.mode = .active ∧ v.due = none then some d else none
    | _ => none
  | none => none

/-- R330: the cores of a field see the release. -/
def execBarrierReleaseSeen (region ctx field : Nat) (s : State) : Out State :=
  .next (match Tab.find? s.regions region with
  | none => s
  | some r =>
    (r.cores.filter fun c => coreField c == field).foldl (fun (t : State) c =>
      let t := t.modCore c fun v => { v with arr := Tab.erase v.arr ctx, bround := Tab.set v.bround ctx (Tab.get v.bround ctx 0 + 1) }
      (List.range 8).foldl (fun (t : State) i =>
        let k := 8 * c + i
        match t.roundWait k true with
        | some d => if d.toNat % 8 = ctx ∧ passed (Tab.get (t.core c).bround ctx 0) d then
            t.completeAt k ((t.slot k).pc + 4) (t.now + 1) else t
        | none => t) t) s)

/-! Collectives (R331 to R333, R361). -/

/-- R331: the ranks that the masks in force give. -/
def State.ranks (s : State) (r : Region) : List Nat :=
  (List.range nFields).flatMap fun f => r.cores.filter fun c => coreField c == f && (s.core c).mask.isNone

/-- R332: the operation of a reduction. -/
def collOp (op : Nat) (a b : Word) : Word × Fl :=
  match op with
  | 0 =>
    let (v, fl) := addF fp32 .rne (a.toNat % 2 ^ 32) (b.toNat % 2 ^ 32)
    (BitVec.ofNat 64 v, fl)
  | 1 => (a + b, 0)
  | 2 => (if a.slt b then b else a, 0)
  | 3 => (if a.slt b then a else b, 0)
  | 4 => (if a.ult b then b else a, 0)
  | 5 => (if a.ult b then a else b, 0)
  | 6 => (a &&& b, 0)
  | 7 => (a ||| b, 0)
  | _ => (a ^^^ b, 0)

/-- R332: the left fold of a field's contributions in ascending rank. -/
def collFold (op : Nat) : List Word → Option (Word × Fl)
  | [] => none
  | a :: l => some (l.foldl (fun (p : Word × Fl) b =>
      let (v, fl) := collOp op p.1 b
      (v, p.2 ||| fl)) (a, 0))

/-- R94, R332: one level of the tree over the fields. -/
def collLevel (op : Nat) : List (Option (Word × Fl)) → List (Option (Word × Fl))
  | a :: b :: l =>
    (match a, b with
    | none, b => b
    | a, none => a
    | some x, some y =>
      let (v, fl) := collOp op x.1 y.1
      some (v, x.2 ||| y.2 ||| fl)) :: collLevel op l
  | l => l
def collTree (op : Nat) : Nat → List (Option (Word × Fl)) → Word × Fl
  | 0, l => ((l.headD none)).getD (0, 0)
  | n + 1, l => collTree op n (collLevel op l)

/-- R332, R333: the result of a round, from the ranked cores, rank 0's descriptor and the contributions. -/
def collResult (ranks : List Nat) (d : Word) (get : Nat → Option Word) : Word × Fl :=
  let n := bits d.toNat 48 16
  let part := ranks.take n
  if n = 1 then ((get (ranks.headD 0)).getD 0, 0)
  else
    let op := bits d.toNat 12 4
    let leaf (f : Nat) : Option (Word × Fl) := collFold op ((part.filter fun c => coreField c == f).filterMap get)
    collTree op 6 ((List.range 64).map leaf)

/-- R337: the value that the result has as a collective's: `coll.bc` returns rank SRC's. -/
def collValue (bc : Bool) (ranks : List Nat) (d : Word) (get : Nat → Option Word) : Word × Fl :=
  if bc then ((get (ranks.getD (bits d.toNat 16 16) 0)).getD 0, 0)
  else
    let (v, fl) := collResult ranks d get
    (if bits d.toNat 12 4 = 0 then (v.setWidth 32).signExtend 64 else v, fl)

/-- The contribution of a core. -/
def CollCtx.value (x : CollCtx) (c : Nat) : Option Word := (x.contribs.find? fun p => p.1 == c).map (·.2.1)
def CollCtx.desc (x : CollCtx) (c : Nat) : Option Word := (x.contribs.find? fun p => p.1 == c).map (·.2.2)

/-- R361: a gateway whose field's ranked cores below n have all contributed folds and sends its partial to the root. -/
def State.gatewayFold (s : State) (region k f : Nat) : State :=
  match Tab.find? s.regions region with
  | none => s
  | some r =>
    let x := Tab.get r.coll k {}
    let ranks := x.ranks.getD (s.ranks r)
    let mine := x.contribs.filter fun p => coreField p.1 == f
    match mine with
    | [] => s
    | p :: _ =>
      let n := bits p.2.2.toNat 48 16
      let need := (ranks.take n).filter fun c => coreField c == f
      if need = [] ∨ x.sent.contains f ∨ !need.all (fun c => (x.value c).isSome) then s
      else
        let g := s.module.boot.gateway f
        let root := s.module.boot.gateway (s.rootField r)
        if s.refused g root (.collPartialAtRoot 0) then s
        else
        let (id, s) := s.register .collPartialAtRoot
          { next := .collPartialAtRoot 0, src := g, dst := root, aux := region, op := k, rd := f, va := x.round.setWidth 64 }
        (s.modColl region k fun x => { x with sent := x.sent ++ [f] }).post
          (s.now + s.clk f need.length + s.pathClk g root) (.collPartialAtRoot id)

/-- R361: a contribution reaches its field's gateway. One of a round already released is of no effect (R333). -/
def execCollContribution (flight : Nat) (s : State) : Out State :=
  .next (match s.flight? flight with
  | none => s
  | some f =>
    let s := s.land flight
    match Tab.find? s.regions f.aux with
    | none => s
    | some r =>
      let x := Tab.get r.coll f.op {}
      if x.round.toNat ≠ bits f.va.toNat 32 16 then s
      else (s.modColl f.aux f.op fun x => { x with
        contribs := x.contribs ++ [(f.src, f.data.setWidth 64, f.va)], sent := x.sent.filter (· != coreField f.src) }).gatewayFold
          f.aux f.op (coreField f.src))

/-- R361: the result travels to every gateway and core of the region. -/
def State.sendResult (s : State) (region k : Nat) (r : Region) (v : Word) (fl : Fl) : State :=
  let boot := s.module.boot
  let root := boot.gateway (s.rootField r)
  r.fields.foldl (fun (t : State) f =>
    let g := boot.gateway f
    let at_ := t.now + t.clk (s.rootField r) 7 + t.pathClk root g
    let cores := r.cores.filter fun c => coreField c == f
    ((List.range cores.length).zip cores).foldl (fun (t : State) (p : Nat × Nat) =>
      if t.refused root g (.collResultDelivery 0) then t
      else
      let (id, t) := t.register .collResultDelivery
        { next := .collResultDelivery 0, src := g, dst := p.2, aux := region, op := k, data := v.setWidth 1024, rd := fl.toNat }
      t.post (at_ + t.clk f p.1 + t.pathClk g p.2) (.collResultDelivery id)) t) s

/-- R361: a field's partial reaches the root, which fixes the ranks at the first one and combines once it has them all. -/
def execCollPartialAtRoot (flight : Nat) (s : State) : Out State :=
  .next (match s.flight? flight with
  | none => s
  | some f =>
    let s := s.land flight
    match Tab.find? s.regions f.aux with
    | none => s
    | some r =>
      let x := Tab.get r.coll f.op {}
      if x.round.setWidth 64 ≠ f.va then s
      else
        let ranks := x.ranks.getD (s.ranks r)
        let x := { x with ranks := some ranks, parts := x.parts.filter (· != f.rd) ++ [f.rd] }
        let s := s.modColl f.aux f.op fun _ => x
        match x.desc (ranks.headD 0) with
        | none => s
        | some d =>
          let need := ranks.take (bits d.toNat 48 16)
          if need.all fun c => (x.value c).isSome && x.parts.contains (coreField c) then
            let (v, fl) := collValue (d.toNat % 2 ^ 12 / 8 == 1) ranks (d &&& ~~~ (0xFF8 : Word)) x.value
            (s.modColl f.aux f.op fun x => {
              round := x.round + 1, lives := Tab.set x.lives x.round.toNat ranks.length }).sendResult f.aux f.op r v fl
          else s)

/-- R332, R337: what a collective writes once its round is passed: the result, and the flags of the round, whose operation is
that of rank 0 (R333), in every core that receives it. -/
def Slot.collect (v : Slot) (c : Core) (d : Word) (rd : Nat) : Slot :=
  let k := d.toNat % 8
  { v.setX rd (Tab.get c.kept k 0) with fflags := v.fflags ||| Tab.get c.keptFlags k 0 }

/-- R337, R361: the result reaches a core. -/
def execCollResultDelivery (flight : Nat) (s : State) : Out State :=
  .next (match s.flight? flight with
  | none => s
  | some f =>
    let s := s.land flight
    let c := f.dst
    let k := f.op
    let s := s.modCore c fun v => { v with
      kept := Tab.set v.kept k (f.data.setWidth 64), keptFlags := Tab.set v.keptFlags k (BitVec.ofNat 5 f.rd),
      cround := Tab.set v.cround k (Tab.get v.cround k 0 + 1), contrib := Tab.erase v.contrib k }
    (List.range 8).foldl (fun (t : State) i =>
      let j := 8 * c + i
      match t.roundWait j false with
      | some d =>
        let w := (t.slot j).word.toNat
        if d.toNat % 8 = k ∧ passed (Tab.get (t.core c).cround k 0) d then
          (t.modSlot j fun v => v.collect (t.core c) d (bits w 7 5)).completeAt j ((t.slot j).pc + 4) (t.now + 1)
        else t
      | none => t) s)

/-- R329: the kernel sets the mask bit of a core. It takes effect at the release in a context in which the core has
arrived, and at once in every other. -/
def State.setMask (s : State) (core : Nat) : State :=
  let v := s.core core
  if v.mask.isSome then s
  else match s.regionOf core with
    | none => s.modCore core fun v => { v with mask := some s.now }
    | some (i, r) =>
      let stands := (List.range 8).filter fun k =>
        let b := Tab.get r.bar k {}
        decide (Tab.get v.bround k 0 = b.round) && (Tab.find? v.arr k).isSome
      let s := s.modCore core fun v => { v with mask := some s.now, maskNext := stands }
      let s := (List.range 8).foldl (fun (t : State) k =>
        if stands.contains k then t else t.tellGateway i k (coreField core)) s
      (List.range 8).foldl (fun (t : State) k =>
        (List.range nFields).foldl (fun (t : State) f => t.gatewayFold i k f) t) s

/-- R329, R357: a mask bit is set. -/
def execBarrierMaskSet (core : Nat) (s : State) : Out State :=
  if nCores ≤ core then .fault .noSuchUnit else .next (s.setMask core)

/-! bar.a, bar.w, bar.aw (R336). -/

/-- R336: the current slot's core arrives at a round; one that is masked adds nothing (R357). -/
def State.arrive (s : State) (d : Word) : State :=
  let c := slotCore s.cur
  let k := d.toNat % 8
  let v := s.core c
  if (Tab.get v.bround k 0).toNat ≠ bits d.toNat 32 16 ∨ (Tab.find? v.arr k).isSome ∨ v.masked k then s
  else
    let s := s.modCore c fun v => { v with arr := Tab.set v.arr k s.now }
    match s.regionOf c with
    | some (i, _) => s.tellGateway i k (coreField c)
    | none => s

/-- R336: the round is passed, or the ember waits in its slot. -/
def State.awaitRound (s : State) (d : Word) (count : BitVec 16) (done : State → State) : State :=
  if passed count d then (done s).retire else (s.issued s.cur).parkHere s.cur (.round d)

/-- R336: the descriptor of a barrier. -/
def State.barrier (s : State) (rs1 : Reg) (next : State → Word → State) : State :=
  s.userOnly fun s =>
    let d := s.x rs1
    if bits d.toNat 48 16 ≠ 0 ∨ bits d.toNat 3 29 ≠ 0 then s.illegal else next s d

/-- R336: bar.a. -/
def execBarA (rs1 : Reg) (s : State) : Out State :=
  .next (s.barrier rs1 fun s d => s.release fun s => (s.arrive d).retire)
/-- R336: bar.w. -/
def execBarW (rs1 : Reg) (s : State) : Out State :=
  .next (s.barrier rs1 fun s d => s.awaitRound d (Tab.get (s.core (slotCore s.cur)).bround (d.toNat % 8) 0) id)
/-- R336: bar.aw. -/
def execBarAw (rs1 : Reg) (s : State) : Out State :=
  .next (s.barrier rs1 fun s d => s.release fun s =>
    let s := s.arrive d
    s.awaitRound d (Tab.get (s.core (slotCore s.cur)).bround (d.toNat % 8) 0) id)

/-! coll.red, coll.bc (R337). -/

/-- R331: the ranks of round n of a context: those of the current round once they are fixed, else what the masks give. -/
def State.roundRanks (s : State) (r : Region) (k n : Nat) : List Nat :=
  let x := Tab.get r.coll k {}
  ((if x.round.toNat = n then x.ranks else none)).getD (s.ranks r)

/-- R331, R333: the live count of round n of a context: the ranked cores once the round's ranks are fixed, also when it has
been released, and before that the cores of the region whose mask bit is clear. -/
def State.liveCount (s : State) (c k n : Nat) : Nat :=
  match s.regionOf c with
  | some (_, r) =>
    let x := Tab.get r.coll k {}
    let behind := (x.round.toNat + 65536 - n) % 65536
    match (if 1 ≤ behind ∧ behind ≤ 32768 then Tab.find? x.lives n else none) with
    | some l => l
    | none => (s.roundRanks r k n).length
  | none => 0

/-- R337: the collectives. The gateway learns from bit 3 of the descriptor that travels whether it is a `coll.bc`. -/
def State.collective (s : State) (bc : Bool) (rd rs1 rs2 : Reg) : State :=
  s.userOnly fun s =>
    let d := s.x rs1
    let n := bits d.toNat 48 16
    let k := d.toNat % 8
    let c := slotCore s.cur
    let src := bits d.toNat 16 16
    let op := bits d.toNat 12 4
    if bits d.toNat 3 9 ≠ 0 ∨ (if bc then decide (op ≠ 0 ∨ n ≤ src) else decide (src ≠ 0 ∨ 9 ≤ op)) then s.illegal
    else if n = 0 ∨ s.liveCount c k (bits d.toNat 32 16) < n then s.illegal
    else s.release fun s =>
      let v := s.core c
      let r := bits d.toNat 32 16
      let s := if (Tab.get v.cround k 0).toNat = r ∧ Tab.find? v.contrib k ≠ some r then
          match s.regionOf c with
          | none => s
          | some (i, g) =>
            -- R357: a core that holds no rank contributes nothing
            if !(s.roundRanks g k r).contains c then s
            else
            let g := s.module.boot.gateway (coreField c)
            let (id, s) := s.register .collContribution
              { next := .collContribution 0, src := c, dst := g, aux := i, op := k, data := (s.x rs2).setWidth 1024,
                va := d + (if bc then 8 else 0) }
            (s.modCore c fun v => { v with contrib := Tab.set v.contrib k r }).carry id c g s.now (.collContribution id)
        else s
      s.awaitRound d (Tab.get v.cround k 0) fun s => s.modMe fun v => v.collect (s.core c) d rd.toNat

/-- R337: coll.red. -/
def execCollRed (rd rs1 rs2 : Reg) (s : State) : Out State := .next (s.collective false rd rs1 rs2)
/-- R337: coll.bc. -/
def execCollBc (rd rs1 rs2 : Reg) (s : State) : Out State := .next (s.collective true rd rs1 rs2)

end Sys2Proof.Machine
end

