-- ==== Sys2Proof/Machine/Copy.lean ====
section
/-! DEFINITION. The copy engines (spec/14, R274 to R286) and the peer ports (spec/19, R345 to R348). -/

namespace Sys2Proof.Machine

/-! Queues (R274, R275). -/

def Core.cq (c : Core) (q : Nat) : CopyQueue := if q = 0 then c.cq0 else c.cq1
def Core.setCq (c : Core) (q : Nat) (v : CopyQueue) : Core := if q = 0 then { c with cq0 := v } else { c with cq1 := v }
def State.modCq (s : State) (core q : Nat) (f : CopyQueue → CopyQueue) : State :=
  s.modCore core fun c => c.setCq q (f (c.cq q))

/-- R275: the key of the completion word of queue q of a core. -/
def completionKey (core q : Nat) : Nat := sliceKey core + 0x7FFF0 + 8 * q

/-- The engine of a cluster takes its next turn. -/
def State.kick (s : State) (cl : Nat) : State :=
  if (s.cluster cl).engLive then s
  else
    let (d, s) := s.openTime
    (s.modCluster cl fun c => { c with engLive := true, engAt := s.now + 1 + d % 64 }).postRank (s.now + 1 + d % 64) 3
      (.copyChunk cl)

/-- R275, R285: the head of a queue ends with a generation. -/
def State.endHead (s : State) (core q gen : Nat) : State :=
  match ((s.core core).cq q).entries with
  | [] => s
  | e :: rest =>
    let s := s.modCq core q fun v => { v with entries := rest }
    let s := match e.kind with
      | .fence id => (List.range 16).foldl (fun (t : State) j => t.modCq (8 * coreCluster core + j / 2) (j % 2) fun v =>
          { v with entries := v.entries.filter fun x => x.kind != .marker id }) s
      | _ => s
    match e.kind with
    | .marker _ => s
    | _ =>
      let s := s.homeVst (completionKey core q) e.num gen
      if (s.slot e.slot).ember = e.ember then s.modSlot e.slot fun v => { v with copies := v.copies - 1 } else s

/-- R283: every entry ahead of the fence's markers has ended. -/
def State.fenceReady (s : State) (cl id : Nat) : Bool :=
  (List.range 16).all fun j =>
    let l := ((s.core (8 * cl + j / 2)).cq (j % 2)).entries
    match l with
    | [] => true
    | e :: rest => e.kind == .marker id || !rest.any fun x => x.kind == .marker id

/-- The entry is inside a chunk: a peer has not acknowledged it, or words of it are still to be read or written. -/
def CopyEntry.busy (e : CopyEntry) : Bool := e.waiting || e.todo != [] || e.have_ != []

/-- R280, R283: fence entries that may end do, and so do discarded entries at a head, until none is left. -/
def State.settle (s : State) (cl : Nat) : Nat → State
  | 0 => s
  | n + 1 =>
    let due := (List.range 16).find? fun j =>
      match ((s.core (8 * cl + j / 2)).cq (j % 2)).entries with
      | [] => false
      | e :: _ => match e.kind with
        | .command _ => e.cut && !e.busy
        | .fence id => e.cut || s.fenceReady cl id
        | .marker _ => false
    match due with
    | none => s
    | some j =>
      let core := 8 * cl + j / 2
      let gen := match ((s.core core).cq (j % 2)).entries with
        | e :: _ => if e.cut then 7 else 1
        | [] => 1
      (s.endHead core (j % 2) gen).settle cl n
def State.settleAll (s : State) (cl : Nat) : State := s.settle cl 300

/-- R278, R280: entries of a queue but its markers are discarded. -/
def cutEntries (l : List CopyEntry) : List CopyEntry :=
  l.map fun e => match e.kind with
    | .marker _ => e
    | _ => { e with cut := true }

/-- The cause with which the checks of a chunk answer that storage or a page-table node is being zeroed (R220). -/
def mustWait : Nat := 0

/-- R278: the head of a queue stops at a fault; the entries behind it are discarded. A chunk that must wait stays. -/
def State.copyFault (s : State) (core q cause : Nat) (val : Word) : State :=
  if cause = mustWait then s
  else match ((s.core core).cq q).entries with
  | [] => s
  | e :: rest =>
    let s := s.modCq core q fun v => { v with entries := e :: cutEntries rest }
    ((((s.endHead core q 6).report e.slot e.ember cause val).settleAll (coreCluster core)).kick (coreCluster core))

/-! The engine's accesses (R211, R212, R278). -/

/-- The engine's translation of a word: its key (a peer-side page gives the leaf only), or a cause. -/
inductive EngXlat where
  | ok (key : Nat) (ro : Bool)
  | peer (t : TlbEntry)
  | fault (cause : Nat)
deriving DecidableEq, Repr

/-- R212, R213, R278: the engine of a cluster translates for an entry; `remote` is the side of a peer command that must
be peer-remote (R276). A miss goes to the L2, the last level and the walker; R278 defines no time for it. The state
changes in the caches, by a quarantine (R299) and by the report of a malformed entry (R210). Which entry leaves the
engine's full cache of 16 no rule says: the model lets the one go that was used longest ago. DESIGN CHOICE, log 15. A row
address that is neither translated nor in store space ends the command with 0x05, since R278 and R289 know no imprecise
0x14. DESIGN CHOICE, log 21. -/
def State.engine (s : State) (cl : Nat) (e : CopyEntry) (acc : Acc) (remote : Bool) (va : Word) : EngXlat × State :=
  if inStore va then
    if remote then (.fault 0x05, s)
    else match s.storeKey va with
      | none => (.fault 0x13, s)
      | some key => (.ok key false, s)
  else if !translated va then (.fault 0x05, s)
  else match s.asidRoot e.asid.toNat e.owner with
    | none => (.fault 0x10, s)
    | some root =>
      let f := clusterField cl
      let judge (s : State) (t : TlbEntry) : EngXlat × State :=
        let s := s.modCluster cl fun c => { c with engTlb := (t :: c.engTlb.filter (· != t)).take 16 }
        match s.leafFault acc e.user t.leaf with
        | none => (if remote then .fault 0x05 else .ok (t.key va) (!leafW t.leaf), s)
        | some 7 => (if remote then .peer t else .fault 7, s)
        | some c => (.fault c, s)
      let s := s.discardBad true e.slot e.asid.toNat va
      match (s.cluster cl).engTlb.find? (·.hits e.asid.toNat va) with
      | some t => judge s t
      | none => match ((s.cluster cl).l2 ++ (s.field f).llTlb).find? (·.hits e.asid.toNat va) with
        | some t => judge (s.fillShared cl t) t
        | none =>
        let end_ := s.walk e.asid.toNat root va
        let s := s.walked root va
        match end_ with
        | .leaf t => judge (s.fillShared cl t) t
        | .fault c a => (.fault c, s.badEntry f c a)
        | .busy _ => (.fault mustWait, s)
        | .bad node level => (.fault 0x0F, s.quarantine f e.owner e.asid (coreloc e.slot) e.ember va node level)

/-- The keys of the words of a chunk, or the first fault with its address. -/
def State.engineKeys (s : State) (cl : Nat) (e : CopyEntry) (acc : Acc) (va : Word) :
    Nat → Except (Nat × Word) (List (Nat × Bool)) × State
  | 0 => (.ok [], s)
  | n + 1 =>
    match s.engine cl e acc false va with
    | (.ok key ro, s) => match s.engineKeys cl e acc (va + 8) n with
      | (.ok l, s) => (.ok ((key, ro) :: l), s)
      | (.error x, s) => (.error x, s)
    | (.peer _, s) => (.error (7, va), s)
    | (.fault c, s) => (.error (c, va), s)

/-- R296: words written together cover the whole protection unit of a key. -/
def coveredBy (keys : List Nat) (w : Nat) : Bool :=
  (List.range (errSize w / 8)).all fun i => keys.contains (errUnit w + 8 * i)

/-- R219, R220, R289, R296, R303, R304: what the storage refuses of a chunk's words: another owner, an uncorrectable error
that is read or would be merged, or the wait for zeroing or for a fenced field, which does not answer. -/
def State.storageRefuses (s : State) (e : CopyEntry) (read : Bool) (va : Word) (l : List (Nat × Bool)) : Option (Nat × Word) :=
  let keys := l.map (·.1)
  (List.range l.length).findSome? fun i =>
    let (key, ro) := l.getD i (0, false)
    let a := va + BitVec.ofNat 64 (8 * i)
    if !s.ownerOk key e.owner (read && ro) then some (0x10, a)
    else if (s.badWord key 8).isSome && (read || !coveredBy keys key || s.module.alarm == 2) then some (0x0F, a)
    else if s.zeroing key || s.fencedKey key then some (mustWait, a) else none

/-! Peers (R345 to R348). -/

/-- R346: the device, owner and physical address of a peer-remote address, or none where its entry is not valid. -/
def State.peerAddr (s : State) (t : TlbEntry) (va : Word) : Option (Nat × BitVec 8 × Nat) :=
  let at_ := s.peerEntry t.leaf
  let w0 := (s.read64 at_).toNat
  if s.peerValid t.leaf = false then none
  else
    let size := if bits w0 8 1 = 1 ∧ t.big then 2 ^ 26 else 2 ^ 16
    some (bits w0 32 12, BitVec.ofNat 8 w0, (s.read64 (at_ + 8)).toNat % 2 ^ 44 + va.toNat % size)

/-- R345: the port of the next chunk to a device: those of its PROUTE entry, in rotation. -/
def Module.port (m : Module) (device : Nat) : Option Nat :=
  let ports := (List.range 48).filter fun n => (Tab.get m.proute device 0).getLsbD n
  ports[Tab.get m.rotate device 0 % ports.length]?

/-- R345: a frame with a chunk leaves for a peer through the port whose turn it is. -/
def State.sendPeerChunk (s : State) (device : Nat) (ws : List Word) (data : Row) : State :=
  s.modModule fun m => { m with peerOut := m.peerOut ++ [(device, m.port device, ws, data)],
                                rotate := Tab.set m.rotate device (Tab.get m.rotate device 0 + 1) }

/-! Chunks (R277). -/

/-- The command of an entry. -/
def CopyEntry.cmd (e : CopyEntry) : CopyCmd :=
  match e.kind with
  | .command c => c
  | _ => ⟨0, 0, 0, 0, 0, 0, 0⟩

/-- R277: source, destination and length of the entry's next chunk. -/
def CopyEntry.chunk (e : CopyEntry) : Word × Word × Nat :=
  let c := e.cmd
  let r : Word := BitVec.ofNat 64 e.row
  let o : Word := BitVec.ofNat 64 e.off
  (c.src + r * c.spitch + o, c.dst + r * c.dpitch + o, min 128 (c.len - e.off))

/-- R277: the chunk of the head of a queue has been performed. -/
def State.advance (s : State) (core q : Nat) : State :=
  match ((s.core core).cq q).entries with
  | [] => s
  | e :: rest =>
    let c := e.cmd
    let rows := if c.kind = 1 then c.rows else 1
    let e := { e with waiting := false, frames := 0, parts := [], have_ := [], again := 0, off := e.off + min 128 (c.len - e.off) }
    let e := if c.len ≤ e.off then { e with off := 0, row := e.row + 1 } else e
    let s := s.modCq core q fun v => { v with entries := e :: rest }
    if rows ≤ e.row then s.endHead core q 1 else s

/-- Writes words of a chunk, whose keys are `all`; the units that it covers are no longer in error (R296). -/
def State.putWordsOf (s : State) (all : List Nat) (l : List (Nat × Word)) : State :=
  let s := l.foldl (fun (t : State) p => (t.scrub p.1 8).homeWrite p.1 8 p.2.toNat) s
  { s with bad := s.bad.filter fun w => !coveredBy all w }

/-- Writes the words of a chunk. -/
def State.putChunk (s : State) (keys : List Nat) (ws : List Word) : State := s.putWordsOf keys (keys.zip ws)

/-- The head entry of a queue changes. -/
def State.modHead (s : State) (core q : Nat) (f : CopyEntry → CopyEntry) : State :=
  s.modCq core q fun v => { v with entries := match v.entries with
    | x :: rest => f x :: rest
    | [] => [] }

/-- R245, R277: the words of the head's chunk are written, some now and the others in a later event of the clk; then the
chunk is done. Log 57. -/
def State.writeChunk (s : State) (core q : Nat) (keys : List Nat) (ws : List Word) : State :=
  let l := keys.zip ws
  let (j, s) := if 1 < l.length then s.split l.length else (l.length, s)
  let s := s.putWordsOf keys (l.take j)
  let s := keys.foldl (fun t k => t.openRow k) s
  if j = l.length then s.advance core q
  else (s.modHead core q fun x => { x with waiting := false, have_ := [], todo := l.drop j }).postRank s.now 4
    (.copyChunk (coreCluster core))

/-- A chunk's words as a row. -/
def packWords (ws : List Word) : Row := BitVec.ofNat 1024 (ws.foldr (fun w n => w.toNat + 2 ^ 64 * n) 0)
def unpackWords (n : Nat) (r : Row) : List Word := (List.range n).map fun i => BitVec.ofNat 64 (r.toNat / 2 ^ (64 * i))

/-- R276, R346: the parts of a chunk of n words on its peer side, one to a page: address, words and leaf; or the first
fault. -/
def State.peerParts (s : State) (cl : Nat) (e : CopyEntry) (acc : Acc) (va : Word) (n : Nat) :
    Except (Nat × Word) (List (Word × Nat × TlbEntry)) × State :=
  let one (s : State) (a : Word) : Except (Nat × Word) TlbEntry × State :=
    match s.engine cl e acc true a with
    | (.peer t, s) => (.ok t, s)
    | (.fault x, s) => (.error (x, a), s)
    | (.ok _ _, s) => (.error (0x05, a), s)
  let first := (2 ^ 16 - va.toNat % 2 ^ 16) / 8
  match one s va with
  | (.error x, s) => (.error x, s)
  | (.ok t, s) =>
    let next := va + BitVec.ofNat 64 (8 * first)
    if n ≤ first || t.hits e.asid.toNat next then (.ok [(va, n, t)], s)
    else match one s next with
      | (.error x, s) => (.error x, s)
      | (.ok u, s) => (.ok [(va, first, t), (next, n - first, u)], s)

/-- R345: a frame goes out to a device and is awaited: it carries n bytes, of the chunk at `near`, for an address of the
peer, or for two where they cross a page there; `ws` are the words of a put. -/
def State.peerFrame (s : State) (core q : Nat) (e : CopyEntry) (put : Bool) (far near : Word) (n : Nat) (ws : List Word)
    (dev : Nat) (at_ : List (BitVec 8 × Nat × Nat)) : State :=
  let (rown, addr, n0) := at_.headD (0, 0, 0)
  let last := (at_.getLast?.map fun p => p.2.1 + p.2.2 - 1).getD addr
  let (id, s) := s.register .peerAckTimeout
    { next := .peerAckTimeout 0, slot := e.slot, ember := e.ember, src := core, op := q, va := near, tval := far,
      size := n, aux := e.num, key := addr, args := [BitVec.ofNat 64 last], isF := put }
  let s := s.modHead core q fun x => { x with waiting := true, frames := x.frames + 1 }
  (s.sendPeerChunk dev ([BitVec.ofNat 64 id, s.module.devnum.setWidth 64, e.owner.setWidth 64, rown.setWidth 64,
    BitVec.ofNat 64 addr, BitVec.ofNat 64 n0, if put then 1 else 0]
      ++ (at_.drop 1).flatMap fun p => [p.1.setWidth 64, BitVec.ofNat 64 p.2.1, BitVec.ofNat 64 p.2.2]) (packWords ws)).post
      (s.now + s.clk (coreField core) 1048576) (.peerAckTimeout id)

/-- R345, R346, R348: the peer side of a chunk: its frame goes out, or the command ends. Where the chunk crosses a page of the
peer side its one frame names both addresses, for which R345 gives the header no layout; and where the two pages are of
different devices, which one frame cannot reach, each takes a frame of its own. DESIGN CHOICE, log 63. -/
def State.peerChunk (s : State) (core q : Nat) (e : CopyEntry) (parts : List (Word × Nat × TlbEntry)) (put : Bool) (far near : Word)
    (ws : List Word) : State :=
  let peers := parts.map fun p => s.peerAddr p.2.2 p.1
  match (parts.zip peers).find? fun p => p.2.isNone with
  | some (p, _) => s.copyFault core q 0x05 p.1
  | none =>
    match (parts.zip peers).find? fun p => p.2.any fun x => Tab.get s.module.proute x.1 0 == 0 with
    | some (p, _) => s.copyFault core q 0x07 p.1
    | none =>
      let s := s.modHead core q fun x => { x with frames := 0, parts := [] }
      let l := (parts.zip peers).map fun (p, x) => (p.1, p.2.1, x.getD (0, 0, 0))
      let send (t : State) (l : List (Word × Nat × Nat × BitVec 8 × Nat)) : State :=
        let a := (l.map (·.1)).headD far
        let n := (l.map (·.2.1)).sum
        t.peerFrame core q e put a (near + (a - far)) (8 * n) ((ws.drop ((a - far).toNat / 8)).take n)
          ((l.map (·.2.2.1)).headD 0) (l.map fun p => (p.2.2.2.1, p.2.2.2.2, 8 * p.2.1))
      if (l.map (·.2.2.1)).eraseDups.length ≤ 1 then send s l else l.foldl (fun t p => send t [p]) s

/-- R220: a `cget` chunk that has come waits for the zeroing of its destination; any other chunk stays for another turn. -/
def State.chunkWaits (s : State) (core q : Nat) (e : CopyEntry) : State :=
  if e.cmd.kind = 4 ∧ e.have_ ≠ [] then
    (s.modHead core q fun x => { x with again := s.now + 1 }).postRank (s.now + 1) 3 (.copyChunk (coreCluster core))
  else s.modHead core q fun x => { x with have_ := [] }

/-- R277, R278: one chunk of the head command of a queue. Its words are read one by one (R245), those of `have_` before; a
`cget` chunk that the peer has sent is only written. -/
def State.copyStep (s : State) (core q : Nat) (e : CopyEntry) : State :=
  let cl := coreCluster core
  let c := e.cmd
  let (src, dst, n) := e.chunk
  let m := n / 8
  let s := s.modHead core q fun x => { x with started := true }
  if c.len = 0 then s.endHead core q 1
  else
    -- the source words
    let (ks, s) := if c.kind = 2 ∨ c.kind = 4 then (.ok [], s) else s.engineKeys cl e .load src m
    match ks with
    | .error (x, a) => if x = mustWait then s.chunkWaits core q e else s.copyFault core q x a
    | .ok ks =>
      match s.storageRefuses e true src ks with
      | some (x, a) => if x = mustWait then s.chunkWaits core q e else s.copyFault core q x a
      | none =>
        let (j, s) := if e.have_ = [] ∧ 1 < ks.length then s.split ks.length else (ks.length, s)
        let s := ((ks.take j).drop e.have_.length).foldl (fun t k => (t.openRow k.1).scrub k.1 8) s
        let ws := if c.kind = 2 then List.replicate m 0
          else e.have_ ++ ((ks.take j).drop e.have_.length).map fun k => s.read64 k.1
        if j < ks.length then
          (s.modHead core q fun x => { x with have_ := ws }).postRank s.now 4 (.copyChunk cl)
        else
        let s := if c.kind = 4 then s else s.modHead core q fun x => { x with have_ := [] }
        let s := match (if ks.isEmpty || inStore src then none else (s.cluster cl).engTlb.find? (·.hits e.asid.toNat src)) with
          | some t => s.countReplica (clusterField cl) t.leaf
          | none => s
        if c.kind = 3 then
          match s.peerParts cl e .store dst m with
          | (.ok parts, s) => s.peerChunk core q e parts true dst src ws
          | (.error (x, a), s) => s.copyFault core q x a
        else
          let (remote, s) := if c.kind = 4 ∧ e.have_ = [] then s.peerParts cl e .load src m else (.ok [], s)
          match remote with
          | .error (x, a) => s.copyFault core q x a
          | .ok parts =>
            match s.engineKeys cl e .store dst m with
            | (.error (x, a), s) => if x = mustWait then s.chunkWaits core q e else s.copyFault core q x a
            | (.ok kd, s) =>
              match s.storageRefuses e false dst kd with
              | some (x, a) => if x = mustWait then s.chunkWaits core q e else s.copyFault core q x a
              | none =>
                if c.kind = 4 ∧ e.have_ = [] then s.peerChunk core q e parts false src dst []
                else s.writeChunk core q (kd.map (·.1)) ws

/-- The head of a queue is a command that the engine can serve: it does not wait for a peer, or at its start for the
earlier accesses of its ember (R251). -/
def State.servable (s : State) (core q : Nat) : Option CopyEntry :=
  match ((s.core core).cq q).entries with
  | [] => none
  | e :: _ => match e.kind with
    | .command _ =>
      let v := s.slot e.slot
      if e.busy || (!e.started && v.ember == e.ember && v.outs.any fun o => decide (o.id < e.since)) then none else some e
    | _ => none

/-- The queue, of those of a cluster, whose head is inside a chunk of which the engine has read or written a part. -/
def State.halfDone (s : State) (cl : Nat) : Option (Nat × CopyEntry) :=
  (List.range 16).findSome? fun j => (((s.core (8 * cl + j / 2)).cq (j % 2)).entries.head?.filter fun e =>
    e.todo != [] || (e.have_ != [] && decide (e.again ≤ s.now))).map fun e => (j, e)

/-- R277, R278: the engine's turn: one chunk of the next queue, round-robin. A chunk waits while its storage is being
zeroed (R220), and an engine of a fenced field stands still (R303). Requests are metered by the engine's bucket; R223 does
not say what one request of an engine is: the model takes a token for the turn of a chunk, its read and its write
together. DESIGN CHOICE, log 17. -/
def execCopyChunk (cluster : Nat) (s : State) : Out State :=
  if nClusters ≤ cluster then .fault .noSuchUnit
  else .next (if (s.field (clusterField cluster)).fenced then s.modCluster cluster fun c => { c with engLive := false }
  else match s.halfDone cluster with
  | some (j, e) =>
    let core := 8 * cluster + j / 2
    let keys := e.todo.map (·.1)
    let s := if e.todo = [] then s.copyStep core (j % 2) e
      else ((s.putWordsOf keys e.todo).modHead core (j % 2) fun x => { x with todo := [] }).advance core (j % 2)
    (s.settleAll cluster).kick cluster
  | none =>
    -- what came for half a chunk and finds none is no turn
    if (s.cluster cluster).engLive ∧ s.now < (s.cluster cluster).engAt then s
    else
    let s := (s.modCluster cluster fun c => { c with engLive := false }).settleAll cluster
    let busy := (List.range 16).any fun j => match ((s.core (8 * cluster + j / 2)).cq (j % 2)).entries with
      | [] => false
      | e :: _ => match e.kind with
        | .command _ => !e.waiting
        | _ => false
    let c := s.cluster cluster
    let b := s.engMeterNow cluster
    if !busy then s
    else if b.rate ≠ 0 ∧ b.credit < 512 then s.kick cluster
    else
      let order := (List.range 16).map fun i => (c.rr + i) % 16
      match order.findSome? fun j => (s.servable (8 * cluster + j / 2) (j % 2)).map fun e => (j, e) with
      | none => s.kick cluster
      | some (j, e) =>
        let s := s.modCluster cluster fun c => { c with
          rr := (j + 1) % 16, engMeter := if b.rate = 0 then c.engMeter else { b with credit := b.credit - 512 } }
        ((s.copyStep (8 * cluster + j / 2) (j % 2) e).settleAll cluster).kick cluster)

/-- R280: the entries of a queue end with generation 7, markers of other queues' fences leave it, the completion word
receives the highest issued number with generation 7, then 0 with generation 1. -/
def State.resetQueue (s : State) (core q : Nat) : State :=
  let issued := ((s.core core).cq q).issued
  let s := s.modCq core q fun v => { v with
    entries := (cutEntries v.entries).filterMap fun e => match e.kind with
      | .marker _ => none
      | _ => some { e with waiting := false, todo := [], have_ := [] } }
  let s := (s.settleAll (coreCluster core)).modCq core q fun _ => {}
  let s := s.homeVst (completionKey core q) issued 7
  (((s.homeVst (completionKey core q) 0 1).settleAll (coreCluster core)).kick (coreCluster core))

/-- R280: the kernel resets a queue. A chunk under way comes first. -/
def execCopyQueueReset (core q : Nat) (s : State) : Out State :=
  if nCores ≤ core ∨ 2 ≤ q then .fault .noSuchUnit
  else .next (
    if ((s.core core).cq q).entries.any (·.busy) then
      let (d, s) := (s.modCq core q fun v => { v with entries := cutEntries v.entries }).openTime
      s.post (s.now + 1 + d % 65536) (.copyQueueReset core q)
    else s.resetQueue core q)

/-! The kernel's own copy of a page (R349). -/

/-- The queue number of a chunk that the kernel asks for. -/
def kernelQueue : Nat := 2

/-- What `got` holds in a slot whose page cannot be copied. -/
def migrationFailed : Word := BitVec.allOnes 64

/-- R349: the copy of slot k's page goes on, or has failed: PAGE_MIGRATION ends it. -/
def State.migrationEnd (s : State) (k frame : Nat) (got : Word) : State :=
  (s.modSlot k fun v => { v with got := some got }).post s.now (.pageMigration k frame)

/-- R345, R349: the kernel, in the handler of slot k, asks the peer for the chunk at an offset of the page that a leaf maps;
log 7. -/
def State.migrationChunk (s : State) (k : Nat) (t : TlbEntry) (frame off : Nat) : State :=
  let v := s.slot k
  let va := BitVec.ofNat 64 (t.page + off)
  match s.peerAddr t va with
  | none => s.migrationEnd k frame migrationFailed
  | some (dev, rown, addr) =>
    if Tab.get s.module.proute dev 0 = 0 then s.migrationEnd k frame migrationFailed
    else
      let (id, s) := s.register .peerAckTimeout
        { next := .peerAckTimeout 0, slot := k, ember := v.ember, src := slotCore k, op := kernelQueue, va := va, tval := va,
          size := 128, aux := frame, part := off, key := addr, isF := t.big, args := [t.leaf, BitVec.ofNat 64 t.page],
          asid := v.asid }
      let s := s.modSlot k fun v => { v with got := some (BitVec.ofNat 64 off) }
      (s.sendPeerChunk dev [BitVec.ofNat 64 id, s.module.devnum.setWidth 64, v.owner.setWidth 64, rown.setWidth 64,
        BitVec.ofNat 64 addr, 128, 0] 0).post (s.now + s.clk (slotField k) 1048576) (.peerAckTimeout id)

/-- R349: a chunk of a migrating page has come, is refused, or has not come in time (`data` = none). A copy that is not whole
within the 65,536 clk of R360 is given up. DESIGN CHOICE, log 72. -/
def State.migrationAck (s : State) (f : Flight) (data : Option Row) : State :=
  let v := s.slot f.slot
  if v.ember ≠ f.ember ∨ v.mode ≠ .active ∨ v.level ≠ .supervisor ∨ v.got ≠ some (BitVec.ofNat 64 f.part) then s
  else match (if v.lastIssue.getD s.now + 65536 ≤ s.now then none else data) with
  | none => s.migrationEnd f.slot f.aux migrationFailed
  | some d =>
    let words := (List.range 16).map fun i => f.aux + f.part + 8 * i
    let s := s.putChunk words (unpackWords 16 d)
    let next := f.part + 128
    if (if f.isF then 2 ^ 26 else 2 ^ 16) ≤ next then s.migrationEnd f.slot f.aux (BitVec.ofNat 64 next)
    else s.migrationChunk f.slot
      { asid := f.asid.toNat, page := (f.args.getD 1 0).toNat, big := f.isF, leaf := f.args.headD 0, at_ := 0 } f.aux next

/-- R345: a frame of a chunk is acknowledged, or refused by the peer (R347); a `cget` chunk's data are written once all
of them have come. -/
def execPeerChunkAck (flight : Nat) (refused : BitVec 1) (data : Row) (s : State) : Out State :=
  .next (match s.flight? flight with
  | none => s
  | some f =>
    let s := s.land flight
    let core := f.src
    let cl := coreCluster core
    if f.op = kernelQueue then s.migrationAck f (if refused = 1 then none else some data)
    else match ((s.core core).cq f.op).entries with
    | [] => s
    | e :: _ =>
      if e.num ≠ f.aux ∨ !e.waiting then s
      else if refused = 1 then s.copyFault core f.op 0x10 f.va
      else
        let parts := e.parts ++ [(f.va, unpackWords (f.size / 8) data)]
        if 1 < e.frames then s.modHead core f.op fun x => { x with frames := x.frames - 1, parts := parts }
        else if f.isF then ((s.advance core f.op).settleAll cl).kick cl
        else
          let (_, dst, n) := e.chunk
          let word (i : Nat) : Word :=
            let a := dst + BitVec.ofNat 64 (8 * i)
            (parts.findSome? fun p => p.2[(a - p.1).toNat / 8]?).getD 0
          -- the engine writes them in its place among the requesters of this clk (R203)
          (s.modHead core f.op fun x => { x with frames := 0, have_ := (List.range (n / 8)).map word }).postRank s.now 3
            (.copyChunk cl))

/-- R348: a chunk has not been acknowledged in time: its command ends, and a record names both address ranges. -/
def execPeerAckTimeout (flight : Nat) (s : State) : Out State :=
  .next (match s.flight? flight with
  | none => s
  | some f =>
    let s := s.land flight
    if f.op = kernelQueue then
      (s.slotRecord f.slot 2 0 [f.va, f.va + BitVec.ofNat 64 (f.size - 1), BitVec.ofNat 64 f.key,
        BitVec.ofNat 64 (f.key + f.size - 1)]).migrationAck f none
    else match ((s.core f.src).cq f.op).entries with
    | [] => s
    | e :: _ =>
      if e.num ≠ f.aux ∨ !e.waiting then s
      else
        let last := BitVec.ofNat 64 (f.size - 1)
        let s := s.errorRecord (coreField f.src) 2 0 e.owner e.asid (coreloc e.slot) e.ember
          [f.va, f.va + last, BitVec.ofNat 64 f.key, f.args.headD 0]
        s.copyFault f.src f.op 0x0F f.va)

/-- R347: a peer port accepts or refuses a chunk; the answer goes back, once every word of it has been read or written (R245):
kind, outcome, and the data of a get. Before a start, and in a fenced field, no port answers (R303, R350). -/
def execPeerFrame (device : Nat) (sown rown : BitVec 8) (addr len : Nat) (put : BitVec 1) (data : Row) (s : State) : Out State :=
  .next (
    let words := (List.range (len / 8)).map fun i => addr + 8 * i
    let entry := s.module.pimp.any fun (_, w) =>
      w.toNat / 2 ^ 63 == 1 && bits w.toNat 32 16 == device && bits w.toNat 8 8 == sown.toNat && bits w.toNat 0 8 == rown.toNat
    let dev := s.module.devnum.setWidth 64
    let (id, t) := s.register .farStoreAtHome
      { next := .farStoreAtHome 0, src := keyCore addr, dst := keyCore addr, op := opPeer, aux := device, key := addr, size := len,
        owner := rown, data := data, args := words.map (BitVec.ofNat 64), near := true }
    if !s.module.peer ∨ !s.anyStarted ∨ words.any s.fencedKey then s
    else if !(entry && s.hasStorage addr && s.hasStorage (addr + len - 1) && words.all (s.ownerOk · rown false) && decide (len ≤ 128)
        && decide (addr % 8 = 0) && decide (len % 8 = 0)) then s.sendFrame device [2, 1, dev, BitVec.ofNat 64 addr] 0
    else if (words.find? s.zeroing).isSome then s.holdZero ((words.find? s.zeroing).getD addr) (.peerFrame device sown rown addr len put data)
    else if put = 1 then
      if words.any fun w => (s.badWord w 8).isSome && (!coveredBy words w || s.module.alarm == 2) then s
      else (words.foldl (fun u w => u.openRow w) t).serveWrite id
    else if (s.badWord addr len).isSome then s
    else (words.foldl (fun u w => u.openRow w) t).serveRead id)

/-! The instructions (R282 to R284). -/

/-- R276: a command block as a command. -/
def copyCmd (kind : Nat) (ws : List Word) : CopyCmd :=
  let w (i : Nat) : Word := ws.getD i 0
  ⟨kind, w 0, w 1, bits (w 2).toNat 32 32, (w 2).toNat % 2 ^ 32, w 3, w 4⟩

/-- R276: a block breaks its format: a field that must be zero, no row, an address that is neither translated nor in
store space, a peer side that is not translated. -/
def blockIllegal (kind : Nat) (ws : List Word) : Bool :=
  let c := copyCmd kind ws
  let form (a : Word) : Bool := translated a || inStore a
  (ws.drop 5).any (· != 0) || (kind == 2 && c.src != 0) || !form c.src || !form c.dst
    || (if kind = 1 then c.rows == 0 else c.rows != 0 || c.spitch != 0 || c.dpitch != 0)
    || (kind == 3 && !translated c.dst) || (kind == 4 && !translated c.src)

/-- R282: the first word of a block that breaks 8-alignment. -/
def blockMisaligned (ws : List Word) : Option Nat :=
  (List.range 5).find? fun i => (ws.getD i 0).toNat % 8 != 0

/-- R282: pushes n commands into queue q. -/
def State.pushCopies (s : State) (q : Nat) (cmds : List CopyCmd) : State :=
  let v := s.me
  let core := slotCore s.cur
  let s := s.modCq core q fun x => { x with
    issued := x.issued + cmds.length,
    entries := x.entries ++ ((List.range cmds.length).zip cmds).map fun (i, c) =>
      { kind := .command c, num := x.issued + 1 + i, slot := s.cur, ember := v.ember, asid := v.asid, owner := v.owner,
        user := v.level == .user, since := s.nextId } }
  (s.modMe fun v => { v with copies := v.copies + cmds.length }).kick (coreCluster core)

/-- R282: the copy family. -/
def State.copy (s : State) (kind : Nat) (rd rs1 rs2 : Reg) (q : BitVec 1) : State :=
  let b := s.x rs1
  let n := (s.x rs2).toNat
  let core := slotCore s.cur
  let issued : Word := BitVec.ofNat 64 ((s.core core).cq q.toNat).issued
  if 16 < n then s.illegal
  else if 3 ≤ kind ∧ s.module.peer = false then s.trap 0x0E (s.me.word.setWidth 64)
  else if n = 0 then (s.setX rd issued).retire
  else if (translated b || inStore b) && decide (b.toNat % 64 ≠ 0) then s.trap 0x03 b
  else s.afterRows fun s => s.withBlock b (8 * n) fun s ws =>
    let blocks := (List.range n).map fun i => (ws.drop (8 * i)).take 8
    let mis := (List.range n).findSome? fun i => (blockMisaligned (blocks.getD i [])).map fun j => 8 * i + j
    if blocks.any (blockIllegal kind) then s.illegal
    else match mis with
      | some i => s.trap 0x03 (b + BitVec.ofNat 64 (8 * i))
      | none =>
        if 16 < ((s.core core).cq q.toNat).entries.length + n ∨ 63 < s.me.copies + n then s.notReady .memory
        else ((s.pushCopies q.toNat (blocks.map (copyCmd kind))).setX rd
          (BitVec.ofNat 64 (((s.core core).cq q.toNat).issued + n))).retire

/-- R282: cpy. -/
def execCpy (rd rs1 rs2 : Reg) (q : BitVec 1) (s : State) : Out State := .next (s.copy 0 rd rs1 rs2 q)
/-- R282: cpy2. -/
def execCpy2 (rd rs1 rs2 : Reg) (q : BitVec 1) (s : State) : Out State := .next (s.copy 1 rd rs1 rs2 q)
/-- R282: cpyz. -/
def execCpyz (rd rs1 rs2 : Reg) (q : BitVec 1) (s : State) : Out State := .next (s.copy 2 rd rs1 rs2 q)
/-- R282: cput. -/
def execCput (rd rs1 rs2 : Reg) (q : BitVec 1) (s : State) : Out State := .next (s.copy 3 rd rs1 rs2 q)
/-- R282: cget. -/
def execCget (rd rs1 rs2 : Reg) (q : BitVec 1) (s : State) : Out State := .next (s.copy 4 rd rs1 rs2 q)

/-- R283: cfnc. -/
def execCfnc (q : BitVec 1) (rs1 : Reg) (s : State) : Out State :=
  let m := (s.x rs1).toNat
  let core := slotCore s.cur
  let cl := coreCluster core
  let own := 2 * (core % 8) + q.toNat
  let named := (List.range 16).filter fun j => j == own || m / 2 ^ j % 2 == 1
  .next (
    if m / 2 ^ 16 ≠ 0 then s.illegal
    else if named.any (fun j => decide (16 ≤ ((s.core (8 * cl + j / 2)).cq (j % 2)).entries.length)) || decide (63 ≤ s.me.copies)
    then s.notReady .memory
    else
      let v := s.me
      let k := s.cur
      let (id, s) := s.newId
      let entry (kind : CopyKind) (num : Nat) : CopyEntry :=
        { kind := kind, num := num, slot := k, ember := v.ember, asid := v.asid, owner := v.owner }
      let s := named.foldl (fun (t : State) j => t.modCq (8 * cl + j / 2) (j % 2) fun x =>
        if j = own then { x with issued := x.issued + 1, entries := x.entries ++ [entry (.fence id) (x.issued + 1)] }
        else { x with entries := x.entries ++ [entry (.marker id) 0] }) s
      (((s.modMe fun v => { v with copies := v.copies + 1 }).settleAll cl).kick cl).retire)

/-- R284: cseq. -/
def execCseq (rd : Reg) (q : BitVec 1) (s : State) : Out State :=
  .next ((s.setX rd (BitVec.ofNat 64 ((s.core (slotCore s.cur)).cq q.toNat).issued)).retire)

end Sys2Proof.Machine
end

