-- ==== Sys2Proof/Machine/Float.lean ====
section
/-! DEFINITION. The F instructions without memory (spec/03, R61 to R67). -/

namespace Sys2Proof.Machine

/-- R61: the rounding mode of a word: dynamic for 7; none where it is invalid. -/
def State.rm (s : State) (rm : BitVec 3) : Option Rm := if rm = 7 then rmOf s.me.frm.toNat else rmOf rm.toNat

/-- R61: an instruction that rounds, or the illegal-instruction trap. -/
def State.withRm (s : State) (rm : BitVec 3) (next : Rm → State) : State :=
  match s.rm rm with
  | some m => next m
  | none => s.illegal

/-- R64: writes an f-register, and ORs the flags into `fcsr`. -/
def State.fput (s : State) (rd : Reg) (r : Nat × Fl) : State :=
  ((s.setFp rd (BitVec.ofNat 32 r.1)).accrue s.cur r.2).retire
/-- R64: writes an x-register, and ORs the flags into `fcsr`. -/
def State.xput (s : State) (rd : Reg) (v : Word) (fl : Fl) : State := ((s.setX rd v).accrue s.cur fl).retire

/-- The pattern of an f-register. -/
def State.fn (s : State) (r : Reg) : Nat := (s.fp r).toNat

/-- R62: ±(a · b) ± c rounded once. -/
def State.fused (s : State) (rd rs1 rs2 rs3 : Reg) (rm : BitVec 3) (negP negC : Bool) : State :=
  s.withRm rm fun m => s.fput rd
    (fin2 fp32 m (fmaN m negP negC (unpack fp32 (s.fn rs1)) (unpack fp32 (s.fn rs2)) (unpack fp32 (s.fn rs3))))

/-- R65: FP32 to an integer; W and WU results are sign-extended from 32 bits. -/
def State.toIntReg (s : State) (rd rs1 : Reg) (rm : BitVec 3) (lo hi : Int) (wide : Bool) : State :=
  s.withRm rm fun m =>
    let (v, fl) := toInt m lo hi (unpack fp32 (s.fn rs1))
    s.xput rd (if wide then BitVec.ofInt 64 v else (BitVec.ofInt 32 v).signExtend 64) fl

/-- R62: an integer rounded to FP32. -/
def State.ofIntReg (s : State) (rd : Reg) (rm : BitVec 3) (v : Int) : State :=
  s.withRm rm fun m => s.fput rd (roundTo fp32 m (ofInt v))

/-- R62: FMADD.S -/
def execFmaddS (rd rs1 rs2 rs3 : Reg) (rm : BitVec 3) (s : State) : Out State :=
  .next (s.fused rd rs1 rs2 rs3 rm false false)

/-- R62: FMSUB.S -/
def execFmsubS (rd rs1 rs2 rs3 : Reg) (rm : BitVec 3) (s : State) : Out State :=
  .next (s.fused rd rs1 rs2 rs3 rm false true)

/-- R62: FNMSUB.S -/
def execFnmsubS (rd rs1 rs2 rs3 : Reg) (rm : BitVec 3) (s : State) : Out State :=
  .next (s.fused rd rs1 rs2 rs3 rm true false)

/-- R62: FNMADD.S -/
def execFnmaddS (rd rs1 rs2 rs3 : Reg) (rm : BitVec 3) (s : State) : Out State :=
  .next (s.fused rd rs1 rs2 rs3 rm true true)

/-- R62: FADD.S. -/
def execFaddS (rd rs1 rs2 : Reg) (rm : BitVec 3) (s : State) : Out State :=
  .next (s.withRm rm fun m => s.fput rd (addF fp32 m (s.fn rs1) (s.fn rs2)))

/-- R62: FSUB.S. -/
def execFsubS (rd rs1 rs2 : Reg) (rm : BitVec 3) (s : State) : Out State :=
  .next (s.withRm rm fun m => s.fput rd (subF fp32 m (s.fn rs1) (s.fn rs2)))

/-- R62: FMUL.S. -/
def execFmulS (rd rs1 rs2 : Reg) (rm : BitVec 3) (s : State) : Out State :=
  .next (s.withRm rm fun m => s.fput rd (mulF fp32 m (s.fn rs1) (s.fn rs2)))

/-- R62: FDIV.S. -/
def execFdivS (rd rs1 rs2 : Reg) (rm : BitVec 3) (s : State) : Out State :=
  .next (s.withRm rm fun m => s.fput rd (divF fp32 m (s.fn rs1) (s.fn rs2)))

/-- R62: FSQRT.S. -/
def execFsqrtS (rd rs1 : Reg) (rm : BitVec 3) (s : State) : Out State :=
  .next (s.withRm rm fun m => s.fput rd (sqrtF fp32 m (s.fn rs1)))

/-- R62: FSGNJ.S. -/
def execFsgnjS (rd rs1 rs2 : Reg) (s : State) : Out State :=
  .next ((s.setFp rd ((s.fp rs1 &&& 0x7FFFFFFF) ||| ((s.fp rs2) &&& 0x80000000))).retire)

/-- R62: FSGNJN.S. -/
def execFsgnjnS (rd rs1 rs2 : Reg) (s : State) : Out State :=
  .next ((s.setFp rd ((s.fp rs1 &&& 0x7FFFFFFF) ||| ((~~~ s.fp rs2) &&& 0x80000000))).retire)

/-- R62: FSGNJX.S. -/
def execFsgnjxS (rd rs1 rs2 : Reg) (s : State) : Out State :=
  .next ((s.setFp rd ((s.fp rs1 &&& 0x7FFFFFFF) ||| ((s.fp rs1 ^^^ s.fp rs2) &&& 0x80000000))).retire)

/-- R66: FMIN.S. -/
def execFminS (rd rs1 rs2 : Reg) (s : State) : Out State :=
  .next (s.fput rd (minMax fp32 false (s.fn rs1) (s.fn rs2)))

/-- R66: FMAX.S. -/
def execFmaxS (rd rs1 rs2 : Reg) (s : State) : Out State :=
  .next (s.fput rd (minMax fp32 true (s.fn rs1) (s.fn rs2)))

/-- R65: FCVT.W.S. -/
def execFcvtWS (rd rs1 : Reg) (rm : BitVec 3) (s : State) : Out State :=
  .next (s.toIntReg rd rs1 rm (-2 ^ 31) (2 ^ 31 - 1) false)

/-- R65: FCVT.WU.S. -/
def execFcvtWuS (rd rs1 : Reg) (rm : BitVec 3) (s : State) : Out State :=
  .next (s.toIntReg rd rs1 rm 0 (2 ^ 32 - 1) false)

/-- R65: FCVT.L.S. -/
def execFcvtLS (rd rs1 : Reg) (rm : BitVec 3) (s : State) : Out State :=
  .next (s.toIntReg rd rs1 rm (-2 ^ 63) (2 ^ 63 - 1) true)

/-- R65: FCVT.LU.S. -/
def execFcvtLuS (rd rs1 : Reg) (rm : BitVec 3) (s : State) : Out State :=
  .next (s.toIntReg rd rs1 rm 0 (2 ^ 64 - 1) true)

/-- R62: FCVT.S.W. -/
def execFcvtSW (rd rs1 : Reg) (rm : BitVec 3) (s : State) : Out State :=
  .next (s.ofIntReg rd rm ((s.x rs1).setWidth 32).toInt)

/-- R62: FCVT.S.WU. -/
def execFcvtSWu (rd rs1 : Reg) (rm : BitVec 3) (s : State) : Out State :=
  .next (s.ofIntReg rd rm ((s.x rs1).setWidth 32).toNat)

/-- R62: FCVT.S.L. -/
def execFcvtSL (rd rs1 : Reg) (rm : BitVec 3) (s : State) : Out State :=
  .next (s.ofIntReg rd rm (s.x rs1).toInt)

/-- R62: FCVT.S.LU. -/
def execFcvtSLu (rd rs1 : Reg) (rm : BitVec 3) (s : State) : Out State :=
  .next (s.ofIntReg rd rm (s.x rs1).toNat)

/-- R66: FEQ.S. -/
def execFeqS (rd rs1 rs2 : Reg) (s : State) : Out State :=
  .next (
    let a := unpack fp32 (s.fn rs1); let b := unpack fp32 (s.fn rs2)
    s.xput rd (flag (eqN a b)) (nvEq a b))

/-- R66: FLT.S. -/
def execFltS (rd rs1 rs2 : Reg) (s : State) : Out State :=
  .next (
    let a := unpack fp32 (s.fn rs1); let b := unpack fp32 (s.fn rs2)
    s.xput rd (flag (ltN a b)) (nvLt a b))

/-- R66: FLE.S. -/
def execFleS (rd rs1 rs2 : Reg) (s : State) : Out State :=
  .next (
    let a := unpack fp32 (s.fn rs1); let b := unpack fp32 (s.fn rs2)
    s.xput rd (flag (ltN a b || eqN a b)) (nvLt a b))

/-- R62: FMV.X.W. -/
def execFmvXW (rd rs1 : Reg) (s : State) : Out State :=
  .next ((s.setX rd ((s.fp rs1).signExtend 64)).retire)

/-- R67: FCLASS.S. -/
def execFclassS (rd rs1 : Reg) (s : State) : Out State :=
  .next ((s.setX rd (BitVec.ofNat 64 (classOf fp32 (s.fn rs1)))).retire)

/-- R62: FMV.W.X. -/
def execFmvWX (rd rs1 : Reg) (s : State) : Out State :=
  .next ((s.setFp rd ((s.x rs1).setWidth 32)).retire)

end Sys2Proof.Machine
end

