-- ==== Sys2Proof/Machine/Launch.lean ====
section
/-! DEFINITION. Launches and their distributors (R117 to R119, R342): posting, dealing, completion, re-election. -/

namespace Sys2Proof.Machine

/-! Fields of a descriptor (R117). -/
def ldCount (ws : List Word) : Nat := (ws.headD 0).toNat / 2 ^ 32
def ldEvent (ws : List Word) : Bool := (ws.headD 0).getLsbD 25
def ldReissue (ws : List Word) : Bool := (ws.headD 0).getLsbD 24
def ldStage (ws : List Word) : Nat := bits (ws.headD 0).toNat 16 8
def ldRegion (ws : List Word) : Nat := (ws.headD 0).toNat % 2 ^ 16

/-- R117: the descriptor is rejected; `owner` is that of the posting ember, or none for the host. -/
def State.launchRejected (s : State) (ws : List Word) (owner : Option (BitVec 8)) : Bool :=
  let w (i : Nat) : Nat := (ws.getD i 0).toNat
  decide (bits (w 0) 26 6 ≠ 0) || w 1 == 0 || decide (w 1 % 4 ≠ 0) || (ldEvent ws && w 3 == 0)
    || (match Tab.find? s.regions (ldRegion ws) with
      | none => true
      | some g => !g.running || owner.any (· != g.owner))

/-- R119: the live fields that a region covers, ascending. -/
def State.liveFields (s : State) (g : Region) : List Nat :=
  (List.range nFields).filter fun f => g.cores.any (fun c => coreField c == f) && !(s.field f).fenced

/-- R342, R343: a launch is posted; the master distributor decides after a time that is open (R360). -/
def State.postLaunch (s : State) (ws : List Word) (port : Option Nat) (owner : BitVec 8) : State :=
  let (id, s) := s.newId
  let (d, s) := s.openTime
  { s with launches := Tab.set s.launches id { words := ws, port := port, asid := 0, owner := owner, master := 0, deputy := none } }.post
    (s.now + d % 65536) (.launchDescriptor id)

/-- R118: sends the items of a chunk, of index `first` on, to the dispenser of a cluster. -/
def State.sendChunk (s : State) (src : Nat) (item : ItemRef) (cl : Nat) (target : Option Nat) (ws : List Word) (first n : Nat) :
    State :=
  (List.range n).foldl (fun (t : State) i =>
    let a0 := ws.getD 4 0 + BitVec.ofNat 64 (first + i)
    t.sendItem src cl t.now (ldStage ws) target (ws.getD 1 0 :: a0 :: (ws.drop 5).take 3) (some item)) s

/-- R118: the chunks of a launch: first index, items, cluster, target core. -/
def launchChunks (g : Region) (ws : List Word) : List (Nat × Nat × Nat × Option Nat) :=
  let n := ldCount ws
  if n = 0 then (List.range g.cores.length).map fun i =>
    let c := g.cores.getD i 0
    (i, 1, coreCluster c, some c)
  else (List.range ((n + 63) / 64)).map fun j =>
    (64 * j, min 64 (n - 64 * j), g.clusters.getD (j % g.clusters.length) 0, none)

/-- R119: every chunk counts as finished or as lost. -/
def Launch.over (l : Launch) : Bool := l.chunks.all fun p => p.2.acked || p.2.lost

/-- R117 to R119: the master accepts a launch and deals its chunks, or rejects it. LSTAT tells the host (R342). -/
def execLaunchDescriptor (launch : Nat) (s : State) : Out State :=
  .next (match Tab.find? s.launches launch with
  | none => s
  | some l =>
    let tell (s : State) (v : BitVec 2) : State := if l.port.isSome then s.modModule fun m => { m with lstat := v } else s
    if l.chunks ≠ [] ∨ l.ended then s
    else if s.launchRejected l.words (if l.port.isSome then none else some l.owner) then
      { tell s 1 with launches := Tab.erase s.launches launch }
    else match Tab.find? s.regions (ldRegion l.words) with
      | none => s
      | some g =>
        let live := s.liveFields g
        match live with
        | [] => s
        | m :: rest =>
          if (s.field m).frozen then s.post (s.now + 256) (.launchDescriptor launch)
          else
            let st := ldStage l.words
            let s := s.modRegion (ldRegion l.words) fun g => { g with
              stages := Tab.set g.stages st { Tab.get g.stages st {} with event := ldEvent l.words, evr := l.words.getD 3 0 } }
            let chunks := launchChunks g l.words
            let l : Launch := { l with
              master := m, deputy := rest.head?, asid := g.asid, owner := g.owner,
              chunks := ((List.range chunks.length).zip chunks).map fun (j, c) =>
                (j, { first := c.1, items := c.2.1, fields := [clusterField c.2.2.1] }),
              items := (chunks.map (·.2.1)).sum }
            let s := tell { s with launches := Tab.set s.launches launch l } 0
            let s := ((List.range chunks.length).zip chunks).foldl (fun (t : State) (j, c) =>
              t.sendChunk (t.module.boot.gateway m) ⟨launch, j, 0⟩ c.2.2.1 c.2.2.2 l.words c.1 c.2.1) s
            if chunks = [] then s.post s.now (.launchCompletion launch) else s)

/-- R119: a chunk counts as finished once the master, and the deputy if there is one, have acknowledged it; a restart of
either delays it, and a fence leaves it to the re-election. -/
def execChunkFinished (launch chunk : Nat) (s : State) : Out State :=
  .next (match Tab.find? s.launches launch with
  | none => s
  | some l => match Tab.find? l.chunks chunk with
    | none => s
    | some c =>
      let heads := l.master :: l.deputy.toList
      if c.acked ∨ c.lost ∨ c.finished ≠ c.items ∨ heads.any fun f => (s.field f).fenced then s
      else if heads.any fun f => (s.field f).frozen then s.post (s.now + 256) (.chunkFinished launch chunk)
      else
        let l := { l with chunks := Tab.set l.chunks chunk { c with acked := true } }
        let s := { s with launches := Tab.set s.launches launch l }
        if l.over then s.post s.now (.launchCompletion launch) else s)

/-- R119, R339, R342, R344: the master writes the number of items finished to CW, and to LCW of the posting port. -/
def execLaunchCompletion (launch : Nat) (s : State) : Out State :=
  .next (match Tab.find? s.launches launch with
  | none => s
  | some l =>
    if l.ended ∨ !l.over ∨ (s.field l.master).fenced then s
    else
      let n := ((l.chunks.filter fun p => p.2.acked).map (·.2.items)).sum
      let gen := if l.lost then 2 else 1
      let cw := l.words.getD 2 0
      let s := { s with launches := Tab.set s.launches launch { l with ended := true } }
      let s := match (if cw = 0 then none else s.ringKey l.asid l.owner cw) with
        | some key => s.homeVst key n gen
        | none => if cw = 0 then s else s.noteWalk l.asid cw
      match l.port with
      | none => s
      | some p => (s.modModule fun m => if Tab.find? m.posted p ≠ some launch then m else { m with
          lcw := Tab.set m.lcw p (BitVec.ofNat 64 n), lcwt := Tab.set m.lcwt p (BitVec.ofNat 4 (8 + gen)) }).msi p 1)

/-- R119: places a chunk's items as `dput` places items, with no target core; the chunk notes their fields. -/
def State.reissue (s : State) (g : Region) (launch chunk : Nat) (ws : List Word) (c : Chunk) : State :=
  (List.range c.items).foldl (fun (t : State) i =>
    match t.fewest (ldStage ws) (g.clusters.filter fun cl => !(t.field (clusterField cl)).fenced) with
    | none => t
    | some (_, cl) =>
      let t := t.sendChunk (t.module.boot.gateway ((t.liveFields g).headD 0)) ⟨launch, chunk, c.turn⟩ cl none ws (c.first + i) 1
      match Tab.find? t.launches launch with
      | none => t
      | some l =>
        let c := (Tab.find? l.chunks chunk).getD c
        { t with launches := Tab.set t.launches launch { l with
          chunks := Tab.set l.chunks chunk { c with fields := c.fields ++ [clusterField cl] } } }) s

/-- R119: the survivors of a fenced field take over one launch. -/
def State.reelect (s : State) (field launch : Nat) (l : Launch) : State :=
  match Tab.find? s.regions (ldRegion l.words) with
  | none => s
  | some g =>
    match s.liveFields g with
    | [] => s
    | m :: rest =>
      let gone (c : Chunk) : Bool := c.fields.contains field && !c.acked && !c.lost
      let back := ldReissue l.words
      let mark (c : Chunk) : Chunk :=
        if !gone c then c else if back then { c with fields := [], finished := 0, turn := c.turn + 1 } else { c with lost := true }
      let l' : Launch := { l with
        master := m, deputy := rest.head?, lost := l.lost || (!back && l.chunks.any fun p => gone p.2),
        chunks := l.chunks.map fun p => (p.1, mark p.2) }
      let s := { s with launches := Tab.set s.launches launch l' }
      let s := if back then (l.chunks.filter fun p => gone p.2).foldl (fun (t : State) p =>
          t.reissue g launch p.1 l.words (mark p.2)) s else s
      if l'.over && l.chunks ≠ [] then s.post s.now (.launchCompletion launch)
      else (l'.chunks.filter fun p => !p.2.acked && !p.2.lost && decide (p.2.finished = p.2.items)).foldl
        (fun (t : State) p => t.post t.now (.chunkFinished launch p.1)) s

/-- R119: after a field has been fenced. -/
def execMasterReelection (field : Nat) (s : State) : Out State :=
  if nFields ≤ field then .fault .noSuchUnit
  else .next (
    if !(s.field field).fenced then s
    else (s.launches.filter fun p => !p.2.ended).foldl (fun (t : State) p => t.reelect field p.1 p.2) s)

end Sys2Proof.Machine
end

