-- ==== Sys2Proof/Machine/System.lean ====
section
/-! DEFINITION. The system instructions (spec/03, R71 to R74), faults before an instruction is known (R32, R37), page walks
(R210, R213, R299), stops and breakpoints (R293, R305), and the counting of slots and events (R102, R307 to R309). -/

namespace Sys2Proof.Machine

/-! Traps by instruction and return (R71, R72). -/

/-- R71: ECALL. -/
def execEcall (s : State) : Out State := .next (s.trap 0x11 0)
/-- R71: EBREAK. -/
def execEbreak (s : State) : Out State := .next (s.trap 0x12 s.me.pc)

/-- R72: xret. -/
def execXret (s : State) : Out State :=
  .next (s.supervisorOnly fun s =>
    let t : Word := s.me.trappc.signExtend 64
    if t.toNat % 4 ≠ 0 then s.trap 0x02 t
    else (s.modMe fun v => { v.returned with pc := v.pc }).jump t)

/-- R37: a word that decodes to no instruction. -/
def execIllegalInstruction (word : BitVec 32) (s : State) : Out State := .next (s.trap 0x01 (word.setWidth 64))

/-- R32, steps 1 to 4: a fault of the fetch. -/
def execFetchFault (cause : Nat) (val : BitVec 64) (s : State) : Out State := .next (s.trap cause val)

/-! tlbinv (R73). -/

/-- R73: an entry that the control word and the address name. -/
def invalidated (c va : Word) (t : TlbEntry) : Bool := !tlbKeep (c.getLsbD 13) (c.getLsbD 12) (c.toNat % 4096) va t

/-- R73: the control word names an ASID; it names an address, as far as its 64 MiB. -/
def namesAsid (c : Word) (asid : BitVec 12) : Bool := c.getLsbD 13 || asid.toNat == c.toNat % 4096
def namesPage (c va a : Word) : Bool := c.getLsbD 12 || a.toNat / 2 ^ 26 == va.toNat / 2 ^ 26

/-- R73: the request of a flight may use a removed translation. -/
def Flight.uses (f : Flight) (c va : Word) : Bool :=
  (match f.next with
   | .farLoadAtHome _ | .farStoreAtHome _ | .atomicAtHome _ | .versionedLoadAtHome _ | .versionedStoreAtHome _ | .vrclAtHome _
   | .appendAtHome _ | .sealAtHome _ | .leafSealOr _ => true
   | _ => false)
  && namesAsid c f.asid && (namesPage c va f.va || namesPage c va (f.va + BitVec.ofNat 64 (f.size - 1)) || f.op == opGather)

/-- R73: a row access of slot k that was translated at its issue stands in the buffer. -/
def Slot.usesRow (v : Slot) (c va : Word) : Bool :=
  v.vbuf.any fun e => (e.op == .lr || e.op == .sr) && namesAsid c e.asid && !inStore e.b && namesPage c va e.b

/-- R73: an access in a scope of a core has still to be performed through a removed translation. -/
def State.usersLeft (s : State) (core scope : Nat) (c va : Word) : Bool :=
  (s.flights.any fun p => inScope scope core p.2.src && p.2.uses c va)
    || s.slots.any fun p => inScope scope core (slotCore p.1) && p.2.usesRow c va

/-- R73, R243: ember e waits at a home for a versioned load that would be performed there later, through the translation it
has used. -/
def State.waitsThrough (s : State) (e : Nat) (p : Option Park) (asid : BitVec 12) (c va : Word) : Bool :=
  match p with
  | some ⟨.version a h, _, _, false⟩ =>
    namesAsid c asid && !inStore a && namesPage c va a
      && ((s.home h).watch.any (fun w => w.ember == e && w.served.isNone)
        || (s.home h).requests.any fun r => (s.flight? r).any (·.ember == e))
  | _ => false

/-- R73: the versioned loads of a scope that wait at their homes leave them, and execute again with a new lookup, so that none
is performed through a removed translation. R73 does not say what becomes of them. DESIGN CHOICE, log 74. -/
def State.cutWaiters (s : State) (core scope : Nat) (c va : Word) : State :=
  let here := (s.slots.filter fun p => inScope scope core (slotCore p.1)
    && s.waitsThrough p.2.ember p.2.park p.2.asid c va).map (·.1)
  let away := (s.embers.filter fun p => inScope scope core p.2.core
    && s.waitsThrough p.1 p.2.park (s.emberAsid p.1) c va).map (·.1)
  let s := here.foldl (fun (t : State) k =>
    let v := t.slot k
    let t := (t.leaveWaits (slotCore k) v.ember v.park).modSlot k fun v => { v with park := none }
    if v.leaving then t else t.wakeAt k (t.now + 1)) s
  away.foldl (fun (t : State) e =>
    ((t.leaveWaits (t.info e).core e (t.info e).park).modInfo e fun i => { i with park := none }).makeReady e) s

/-- R73, R280: the next row of a command lies in the page of an entry that its engine has cached. -/
def CopyEntry.touches (e : CopyEntry) (t : TlbEntry) : Bool :=
  let c := e.cmd
  let r : Word := BitVec.ofNat 64 e.row
  let meets (a : Word) : Bool := (List.range (c.len / 8)).any fun i => t.hits e.asid.toNat (a + BitVec.ofNat 64 (8 * i))
  meets (c.src + r * c.spitch) || meets (c.dst + r * c.dpitch)

/-- R73, R280: a running command of queue q that uses one of the removed translations is cut, with all behind it. -/
def State.cutUsers (s : State) (core q : Nat) (gone : List TlbEntry) : State :=
  match ((s.core core).cq q).entries with
  | [] => s
  | e :: _ =>
    if e.started && gone.any e.touches then s.modCq core q fun v => { v with entries := cutEntries v.entries } else s

/-- R73: removes the entries of one cluster's L2 and copy engine; the engine's users end. -/
def State.tlbCluster (s : State) (c va : Word) (cl : Nat) : State :=
  let gone := (s.cluster cl).engTlb.filter (invalidated c va)
  let s := s.modCluster cl fun v => { v with
    l2 := v.l2.filter (!invalidated c va ·), engTlb := v.engTlb.filter (!invalidated c va ·) }
  if gone = [] then s
  else (((List.range 16).foldl (fun (t : State) j => t.cutUsers (8 * cl + j / 2) (j % 2) gone) s).settleAll cl).kick cl

/-- R73: removes the entries in a scope of a core. -/
def State.tlbRemove (s : State) (core scope : Nat) (c va : Word) : State :=
  let s := { s with
    cores := s.cores.map fun p => if inScope scope core p.1 then
      (p.1, { p.2 with tlb := p.2.tlb.filter (!invalidated c va ·) }) else p,
    slots := s.slots.map fun p => if inScope scope core (slotCore p.1) && p.2.walk.any (fun a => a.entry.any (invalidated c va)) then
      (p.1, { p.2 with walk := none }) else p,
    fields := s.fields.map fun p => if decide (2 ≤ scope) && inScope scope core (1024 * p.1) then
      (p.1, { p.2 with llTlb := p.2.llTlb.filter (!invalidated c va ·) }) else p }
  if scope = 0 then s
  else ((s.clusters.map (·.1)).filter fun cl => inScope scope core (8 * cl)).foldl (fun t cl => t.tlbCluster c va cl) s

/-- R73, R280: a command of an engine in scope has been cut and still waits for its peer. -/
def State.cutsLeft (s : State) (core scope : Nat) : Bool :=
  decide (scope ≠ 0) && s.cores.any fun p => inScope scope core p.1 &&
    (p.2.cq0.entries ++ p.2.cq1.entries).any fun e => e.started && e.cut && e.busy

/-- R73: tlbinv. `got` = 1 says that the entries have been removed; then every unit in scope acknowledges. -/
def execTlbinv (rs1 rs2 : Reg) (s : State) : Out State :=
  let va := s.x rs1
  let c := s.x rs2
  let scope := bits c.toNat 14 2
  let core := slotCore s.cur
  .next (s.supervisorOnly fun s => s.afterStores fun s =>
    let s := if s.me.got = some 1 then s
      else (s.tlbRemove core scope c va).modMe fun v => { v with got := some 1 }
    let s := s.cutWaiters core scope c va
    if s.cutsLeft core scope ∨ s.usersLeft core scope c va then s.notReady .memory
    else s.retire)

/-! sig (R74, R76). -/

/-- R74: sig. A block that is still open is a mismatch. -/
def execSig (sigv : BitVec 16) (len : BitVec 6) (s : State) : Out State :=
  let core := s.core (slotCore s.cur)
  .next (if len = 0 then s.illegal
    else if !core.sigEn then s.retire
    else match s.me.sig with
      | some g =>
        if core.sigKill then (s.sigMismatch s.cur g).await .parked
        else (s.slotRecord s.cur 5 1 [g.value]).trap 0x0D g.value
      | none => s.retire.modMe fun v => { v with sig := some ⟨len.toNat, sigv.toNat, 0, 0, false⟩ })

/-! Page walks (R207 to R214, R299). -/

/-- R213: the caches below the L1 TLB. -/
def State.lowerTlb (s : State) (slot : Nat) (asid : Nat) (va : Word) : Option TlbEntry :=
  match (s.cluster (slotCluster slot)).l2.find? (fun t => t.hits asid va && !t.bad) with
  | some t => some t
  | none => (s.field (slotField slot)).llTlb.find? fun t => t.hits asid va && !t.bad

/-- The walker's answer reaches a slot. -/
def State.walkAnswer (s : State) (k : Nat) (va : Word) (t : Option TlbEntry) (cause : Nat) : State :=
  (s.modSlot k fun v => { v with walking := none, walk := some ⟨v.asid.toNat, va, t, cause⟩ }).wakeAt k s.now

/-- R213: the other slots of the cluster whose walk is of the same page, under the same ASID. -/
def State.samePage (s : State) (k : Nat) (va : Word) : List Nat :=
  ((List.range 64).map (64 * slotCluster k + ·)).filter fun j =>
    let v := s.slot j
    j != k && v.walking.any (fun w => w.toNat / 2 ^ 16 == va.toNat / 2 ^ 16) && v.got != some 1
      && v.asid == (s.slot k).asid && v.owner == (s.slot k).owner

/-- R213: L2, last level or walk answers the slot that asked; the walk of a `seal` ignores the caches (R239). -/
def execPageWalk (slot : Nat) (va : BitVec 64) (s : State) : Out State :=
  if nSlots ≤ slot then .fault .noSuchUnit
  else .next (
    let v := s.slot slot
    let f := slotField slot
    if v.walking ≠ some va then s
    else
      let s := s.modSlot slot fun v => { v with walking := none }
      let answer (s : State) (t : Option TlbEntry) (cause : Nat) : State := s.walkAnswer slot va t cause
      -- R213: the walks of one page in one cluster are one walk
      let all (s : State) (t : Option TlbEntry) (cause : Nat) : State :=
        (s.samePage slot va).foldl (fun u j => match t with
          | some t => (u.fill j t).walkAnswer j ((u.slot j).walking.getD va) (some t) cause
          | none => u.walkAnswer j ((u.slot j).walking.getD va) none cause) (answer s t cause)
      match (if v.got = some 1 then none else s.lowerTlb slot v.asid.toNat va) with
      | some t => answer (s.fill slot t) (some t) 0
      | none =>
        match s.asidRoot v.asid.toNat v.owner with
        | none => s.wakeAt slot s.now
        | some root =>
          let end_ := s.walk v.asid.toNat root va
          let s := (s.count slot 13 1).walked root va
          match end_ with
          | .leaf t => all (s.fill slot t) (some t) 0
          | .fault c a => all (s.badEntry f c a) none c
          -- R220: the node is being zeroed
          | .busy a => (s.modSlot slot fun v => { v with walking := some va }).holdZero a (.pageWalk slot va)
          | .bad node level =>
            all (s.quarantine f v.owner v.asid (coreloc slot) v.ember va node level) none 0x0F)

/-! Breakpoints (R305). -/

/-- R305: a comparator of the slot's core matches the instruction about to issue. -/
def State.breakpointHit (s : State) (k : Nat) : Bool :=
  let v := s.slot k
  let c := s.core (slotCore k)
  v.level == .user && v.bpSkip != some v.pc && (List.range 4).any fun b =>
    let w := (Tab.get c.bpc b 0).toNat
    w / 2 ^ 63 == 1 && Tab.get c.bpa b 0 == v.pc && bits w (12 + slotIdx k) 1 == 1
      && (bits w 20 1 == 1 || w % 4096 == v.asid.toNat)

/-- R305, R306: the slot stops before the instruction, which a restart or a step issues. -/
def execHwBreakpointStop (slot : Nat) (s : State) : Out State :=
  if nSlots ≤ slot then .fault .noSuchUnit
  else .next (
    let v := s.slot slot
    if v.mode ≠ .active ∨ !s.breakpointHit slot then s
    else ((s.traceRecord slot 2 v.pc (BitVec.ofNat 64 (s.hwRead v.asid v.pc 4))).stopNow slot).modSlot slot fun v =>
      { v with bpSkip := some v.pc })

/-! Counting (R102, R307 to R309). -/

/-- R102: the class of slot k at its issue cycle t. -/
def State.slotClass (s : State) (k t : Nat) : Nat :=
  let v := s.slot k
  if v.lastIssue = some t then 0
  else match v.mode with
    | .vacant => 4
    | .active => match v.wait with
      | .ready | .memory => 1
      | .message => 2
      | .parked => 3
    | _ => 3

/-- R102, R307: adds n to class c of slot k. -/
def State.addClass (s : State) (k c n : Nat) : State :=
  s.modSlot k fun v => { v with acct := Tab.set v.acct c (Tab.get v.acct c 0 + BitVec.ofNat 64 n) }

/-- R100, R353: the issue cycles of slot number i of a field's cores since the field's reset. -/
def State.issueTurns (s : State) (f i : Nat) : Nat :=
  let d := s.field f
  let (m, r) := if d.half then (16, 2 * i) else (8, i)
  Tab.get d.turns i 0 + ((s.now - d.zero + (m - 1 - r)) / m - (max d.turnsTo d.zero - d.zero + (m - 1 - r)) / m)

/-- R102, R307: the accounting of a core begins: until now nothing has changed in it since its field's reset. -/
def State.startCounting (s : State) (core : Nat) : State :=
  if (s.core core).counting then s
  else
    let z := (s.field (coreField core)).zero
    let n := s.now - z
    let s := (List.range 8).foldl (fun (t : State) i =>
      let k := 8 * core + i
      t.addClass k (if (t.slot k).mode = .vacant then 4 else 3) (t.issueTurns (coreField core) i)) s
    (s.modCore core fun c => { c with
      counting := true, hist := Tab.set c.hist 0 (Tab.get c.hist 0 0 + BitVec.ofNat 64 n) }).postRank (s.now + 1) 0 (.issueCycle core)

/-- R102, R307, R308: the accounting of the clk before; `would` holds the number of slots that would issue. -/
def execIssueCycle (core : Nat) (s : State) : Out State :=
  if nCores ≤ core then .fault .noSuchUnit
  else .next (
    let t := s.now - 1
    let s := match ((List.range 8).map (8 * core + ·)).find? fun k => decide (s.nextIssue k t = t) with
      | none => s
      | some k =>
        let c := s.slotClass k t
        let s := s.addClass k c 1
        if c = 1 then s.count k 2 1 else if c = 2 then s.count k 3 1 else s
    let n := (s.core core).would
    let s := s.modCore core fun c =>
      let c := { c with hist := Tab.set c.hist n (Tab.get c.hist n 0 + 1) }
      if c.pcrotEn then
        { c with tenabled := c.tenabled + 1, strun := Tab.set c.strun c.activeSet (Tab.get c.strun c.activeSet 0 + 1) }
      else c
    if (s.core core).counting then s.postRank (s.now + 1) 0 (.issueCycle core) else s)

/-- R308: the clk from t on at which the sets of a core next rotate. -/
def State.rotationAt (s : State) (core t : Nat) : Nat :=
  let p := 2 ^ (min 24 (max 10 (s.core core).pcrotPer.toNat))
  let z := (s.field (coreField core)).zero
  z + (t - z + p - 1) / p * p

/-- R308: the next set takes its turn. -/
def execCounterSetRotate (core : Nat) (s : State) : Out State :=
  if nCores ≤ core then .fault .noSuchUnit
  else .next (
    let c := s.core core
    if !c.pcrotEn ∨ c.rotation = s.now ∨ s.rotationAt core s.now ≠ s.now then s
    else (s.modCore core fun c => { c with
      activeSet := (c.activeSet + 1) % (c.pcrotSets.toNat + 1), rotation := s.now }).post (s.rotationAt core (s.now + 1))
        (.counterSetRotate core))

/-- R309: a write of ones clears bits of the flag union. -/
def execFlagUnionClear (cluster : Nat) (ones : BitVec 64) (s : State) : Out State :=
  if nClusters ≤ cluster then .fault .noSuchUnit
  else .next (s.modCluster cluster fun c => { c with flagUnion := c.flagUnion &&& ~~~ ones.setWidth 5 })

end Sys2Proof.Machine
end

