-- ==== Sys2Proof/Machine/Kernel.lean ====
section
/-! DEFINITION. The resident kernel and the field controllers (spec/16, R291 to R297, R359, and the services R311, R312,
R323, R343, R357): slot commands, kills, and what the kernel does about a trap. -/

namespace Sys2Proof.Machine

/-! Death of an ember in a slot (R197, R255, R272, R280, R297, R359). -/

/-- R255: requests of the slot that have not left its core never do. -/
def State.dropUnsent (s : State) (k : Nat) : State :=
  let c := s.core (slotCore k)
  let mine (id : Nat) : Bool := (s.flight? id).any (·.slot == k)
  let gone := (c.held.map (·.1) ++ c.meter.waiting).filter mine
  let s := s.modCore (slotCore k) fun c => { c with
    held := c.held.filter (fun e => !mine e.1), meter := { c.meter with waiting := c.meter.waiting.filter (fun id => !mine id) } }
  { s with flights := s.flights.filter fun p => !gone.contains p.1 }

/-- The ember of a slot dies: its list places, deadline entry, queue entries and PRODUCING entries. -/
def State.emberDies (s : State) (k : Nat) : State :=
  let v := s.slot k
  let e := v.ember
  if e = 0 then s
  else
    let cl := slotCluster k
    let i := s.info e
    let s := ((s.leaveWaits (slotCore k) e v.park).leaveWaits i.core e i.park).stopDeadline e
    let s := ((s.freeReserved (slotCore k) e).dropUnsent k).orphan k e
    (((s.dropEngineWork k).settleAll cl).kick cl).killProducer k e

/-- R359: the kernel kills the ember of a slot and writes one record; the slot becomes vacant and stays in service. -/
def State.kernelKill (s : State) (k : Nat) : State :=
  let v := s.slot k
  let c := v.trapcause.toNat % 256
  let (cls, ws) := if c = 0x0F then (2, s.affected k v.trapval) else if c = 0x0D then (5, [v.trapval])
    else (15, [v.trappc.setWidth 64, v.trapcause.setWidth 64, v.trapval])
  let s := (s.slotRecord k cls 3 ws).emberDies k
  let s := s.modSlot k fun v => { v with
    level := .user, busy := false, accHeld := false, copies := 0, tiles := 0, vbuf := [], rowPend := [] }
  (s.vacate k).retireRecord v.ember

/-- R351: enters a slot in the exclusion list, if it has room. R351 names no entry: the model takes the lowest one with V = 0.
DESIGN CHOICE, log 64. -/
def State.exclude (s : State) (k : Nat) : State :=
  match (List.range 1024).find? fun e => (Tab.get s.module.excl e 0).getLsbD 63 == false with
  | none => s
  | some e => s.modModule fun m => { m with excl := Tab.set m.excl e (BitVec.ofNat 64 (2 ^ 63) ||| coreloc k) }

/-- R297, R301: a slot is killed at its issue cycle. -/
def execSlotKill (slot : Nat) (s : State) : Out State :=
  if nSlots ≤ slot then .fault .noSuchUnit
  else .next (
    let v := s.slot slot
    if v.mode = .outOfService then s
    else if s.nextIssue slot s.now ≠ s.now then s.post (s.nextIssue slot s.now) (.slotKill slot)
    else
      let s := match v.imp with
        | some (c, x) => s.slotRecord slot 14 0 [BitVec.ofNat 64 (c % 256), x]
        | none => s
      let s := s.emberDies slot
      let s := if v.killReq = some 5 then s.slotRecord slot 5 2 [v.got.getD 0] else s.slotRecord slot 4 2 []
      let again := v.lastKill.any fun t => decide (s.now - t ≤ 2 ^ 30)
      let s := if again then s.exclude slot else s
      let s := s.putSlot slot {
        mode := .outOfService, accWin := v.accWin, vmk := 0, vmkh := 0, parklimit := 0, lastKill := some s.now,
        barred := again, acct := v.acct, vlive := v.vlive, lastIssue := v.lastIssue }
      if v.ember = 0 then s else s.retireRecord v.ember)

/-! Slot commands (R293). -/

/-- R293, R294: the slot is to stop before its next user-level instruction; `cmd` for a command of SCMD. -/
def State.requestStop (s : State) (k : Nat) (cmd : Bool) : State :=
  let v := s.slot k
  if v.mode ≠ .active then s
  else if v.level = .user ∧ (v.leaving ∨ v.due = none ∧ v.park.any fun p => !p.met) then s.stopNow k
  else s.modSlot k fun v => { v with stopReq := true, cmdBusy := v.cmdBusy || cmd }

/-- R293: a stopped slot issues again. -/
def State.resume (s : State) (k : Nat) : State :=
  let v := s.slot k
  (s.setState v.asid v.ember stRunning v.bound).modSlot k fun v => { v with
    mode := .active, wait := .ready, due := some (s.nextIssue k s.now) }

/-- R293: stop. -/
def execScmdStop (slot : Nat) (s : State) : Out State :=
  if nSlots ≤ slot then .fault .noSuchUnit
  else .next (if (s.slot slot).cmdBusy then s else s.requestStop slot true)

/-- R293: restart. -/
def execScmdRestart (slot : Nat) (s : State) : Out State :=
  if nSlots ≤ slot then .fault .noSuchUnit
  else .next (if (s.slot slot).cmdBusy ∨ (s.slot slot).mode ≠ .stopped then s else s.resume slot)

/-- R293: step. -/
def execScmdStep (slot : Nat) (s : State) : Out State :=
  if nSlots ≤ slot then .fault .noSuchUnit
  else .next (if (s.slot slot).cmdBusy ∨ (s.slot slot).mode ≠ .stopped then s
    else (s.resume slot).modSlot slot fun v => { v with stepping := true, cmdBusy := true })

/-- R293, R297: kill, at the slot's next issue cycle. -/
def execScmdKill (slot : Nat) (s : State) : Out State :=
  if nSlots ≤ slot then .fault .noSuchUnit
  else .next (
    let v := s.slot slot
    if v.cmdBusy ∨ v.mode = .vacant ∨ v.mode = .outOfService then s
    else (s.modSlot slot fun v => { v with killReq := some 4, cmdBusy := true }).post (s.nextIssue slot s.now) (.slotKill slot))

/-- R293, R297: restore. -/
def execScmdRestore (slot : Nat) (s : State) : Out State :=
  if nSlots ≤ slot then .fault .noSuchUnit
  else .next (
    let v := s.slot slot
    if v.cmdBusy then s
    else match v.mode with
      | .doubleFault => s.kernelKill slot
      | .outOfService =>
        if v.barred then s
        else
          let plan := Tab.get s.plans ((s.core (slotCore slot)).region.getD 0) {}
          (s.modSlot slot fun v => { v with
            mode := .vacant, owner := (s.core (slotCore slot)).owned.getD 0, trapvec := plan.trapvec, asid := plan.asid }).postTakeup
              slot (s.now + 1)
      | _ => s)

/-! What the kernel does about a trap (R359). -/

/-- R312: the trap is forwarded to the program. -/
def State.forwards (s : State) (k : Nat) : Bool :=
  let v := s.slot k
  !v.trapcause.getLsbD 8 && v.pp == .user
    && (s.info v.ember).forward.any fun (_, _, m) => m.getLsbD (v.trapcause.toNat % 256)

/-- R359: the fault lies in a range reserved for allocation on demand. -/
def State.onDemand (s : State) (k : Nat) : Bool :=
  let v := s.slot k
  match Tab.find? s.regions (s.info v.ember).region with
  | none => false
  | some g => g.demand.any fun (a, n) => decide (a.toNat ≤ v.trapval.toNat) && decide (v.trapval.toNat < a.toNat + n.toNat)

/-- R359: the first row of the kernel's table that applies, for the trap that slot k has taken. -/
def State.kernelEvent (s : State) (k : Nat) : Instr :=
  let v := s.slot k
  if v.trapcause.getLsbD 8 then .kernelKill k
  else if s.forwards k then .trapForward k
  else match v.trapcause.toNat % 256 with
    | 0x04 => if s.onDemand k then .demandPageMap k 0 else .kernelKill k
    | 0x07 => .pageMigration k 0
    | 0x0A | 0x0B => .timeoutResume k
    | 0x11 => match (v.xr 17).toNat with
      | 0x22 => .ecallRouteWrite k
      | 0x23 => .ecallLaunch k
      | 0x24 => .ecallRetire k
      | _ => .ecallForwardRegister k
    | 0x12 => .ebreakStop k
    | _ => .kernelKill k

/-- The kernel's handler of slot k has the trap that event i handles. -/
def State.handles (s : State) (k : Nat) (i : Instr) : Bool :=
  (s.slot k).mode == .active && (s.slot k).level == .supervisor && s.kernelEvent k == i

/-- R359, R360: the handler returns to a PC after a time that is open, within 65,536 clk of the trap's entry. Log 5. -/
def State.kernelReturn (s : State) (k : Nat) (pc : Word) : State :=
  let (d, s) := s.openTime
  let left := max 1 ((s.slot k).lastIssue.getD s.now + 65536 - s.now)
  s.modSlot k fun v => { v.returned with
    pc := pc, due := some (s.nextIssue k (s.now + 1 + d % left)), wait := .ready, got := none }

/-- R311, R323, R343, R357: a service writes a0 and resumes behind the ECALL. -/
def State.serviceReturn (s : State) (k : Nat) (a0 : Word) : State :=
  let pc : Word := (s.slot k).trappc.signExtend 64
  (s.modSlot k fun v => v.setX 10 a0).kernelReturn k (pc + 4)

/-- The key of a word that the ember of slot k may access: checked as a user's access or, for the kernel's own, as one of
supervisor level (R211); on a page of class normal if `normal`. -/
def State.userKey (s : State) (k : Nat) (acc : Acc) (user normal : Bool) (va : Word) : Option Nat :=
  let v := s.slot k
  if inStore va then if normal then none else (s.storeKey va).filter fun key => s.ownerOk key v.owner false
  else if !translated va then none
  else (s.asidRoot v.asid.toNat v.owner).bind fun root => match s.walk v.asid.toNat root va with
    | .leaf t =>
      if (leafCheck acc user t.leaf).isSome || (normal && leafClass t.leaf != 0) then none
      else if s.ownerOk (t.key va) v.owner (acc == .load && !leafW t.leaf) then some (t.key va) else none
    | _ => none

/-- The keys of n consecutive words. -/
def State.userKeys (s : State) (k : Nat) (acc : Acc) (user normal : Bool) (va : Word) (n : Nat) : Option (List Nat) :=
  (List.range n).mapM fun i => s.userKey k acc user normal (va + BitVec.ofNat 64 (8 * i))

/-- R311: 32 bytes lie on one page that the ember's owner may write. -/
def State.forwardBlock (s : State) (k : Nat) (b : Word) : Bool :=
  match s.userKeys k .store false true b 4 with
  | none => false
  | some keys => b.toNat / 2 ^ 16 == (b.toNat + 31) / 2 ^ 16
      || (match (s.asidRoot (s.slot k).asid.toNat (s.slot k).owner).map fun root => s.walk (s.slot k).asid.toNat root b with
          | some (.leaf t) => t.hits (s.slot k).asid.toNat (b + 24)
          | _ => false) && keys.length == 4

/-- R359: kill. -/
def execKernelKill (slot : Nat) (s : State) : Out State :=
  if nSlots ≤ slot then .fault .noSuchUnit
  else .next (if s.handles slot (.kernelKill slot) then s.kernelKill slot else s)

/-- R246: stores of the slot have still to be performed. -/
def Slot.storing (v : Slot) : Bool := decide (v.stores ≠ 0) || v.vbuf.any fun e => e.op == .sr || e.op == .qnt

/-- R246, R312: the forward block is written, behind the ember's earlier stores, and the program's handler entered. -/
def execTrapForward (slot : Nat) (s : State) : Out State :=
  if nSlots ≤ slot then .fault .noSuchUnit
  else .next (
    let v := s.slot slot
    if !s.handles slot (.trapForward slot) then s
    else if v.storing then s.post (s.nextIssue slot (s.now + 1)) (.trapForward slot)
    else match (s.info v.ember).forward with
      | none => s
      | some (h, b, _) => match s.userKeys slot .store false false b 4 with
        | none => (s.noteWalk v.asid b).kernelKill slot
        | some keys =>
          if keys.any fun a => s.partBad a 8 then s.kernelKill slot
          else
          let n := s.read64 (keys.getD 3 0) + 1
          let s := (keys.zip [v.trappc.setWidth 64, v.trapcause.setWidth 64, v.trapval, n]).foldl
            (fun (t : State) p => t.ownWrite p.1 8 p.2.toNat) s
          s.kernelReturn slot h)

/-- R208, R359: the place of the level-0 entry of an address below a node at a level. Missing nodes are taken from a list
of the kernel's; none where it has none, or a leaf stands in the way. -/
def State.nodeFor (s : State) (va : Word) : Nat → Nat → List Nat → Option (Nat × List Nat × State)
  | 0, node, free => some (node + 8 * bits va.toNat 16 10, free, s)
  | l + 1, node, free =>
    let a := node + 8 * (if l = 2 then bits va.toNat 46 9 else bits va.toNat (26 + 10 * l) 10)
    let e := s.read64 a
    if !leafV e then match free with
      | [] => none
      | n :: rest => ((s.zeroRange n 8192).ownWrite a 8 (n / 8192 * 8192 + 1)).nodeFor va l n rest
    else if !leafR e && !leafW e && !leafX e then s.nodeFor va l (leafFrame e) free
    else none

/-- The root of the ASID of slot k, and how a walk for its fault ends. -/
def State.slotRoot (s : State) (k : Nat) : Nat := bits (Tab.get s.asids (s.slot k).asid.toNat 0).toNat 13 31 * 2 ^ 13
def State.faultWalk (s : State) (k : Nat) : WalkEnd := s.walk (s.slot k).asid.toNat (s.slotRoot k) (s.slot k).trapval

/-- R349, R359: the frame that the kernel would take for the page of slot k's fault, of the size that a leaf maps; 0 if its
region has none. Log 7. -/
def State.nextFrame (s : State) (k : Nat) : Nat :=
  let big := match s.faultWalk k with
    | .leaf t => t.big
    | _ => false
  match Tab.find? s.regions (s.info (s.slot k).ember).region with
  | none => 0
  | some g => ((g.frames.find? (·.1 == big)).map (·.2)).getD 0

/-- The kernel takes a frame of a region. -/
def State.takeFrame (s : State) (k frame : Nat) (big : Bool) : Option State :=
  let r := (s.info (s.slot k).ember).region
  match Tab.find? s.regions r with
  | none => none
  | some g =>
    if g.frames.contains (big, frame) ∧ frame % (if big then 2 ^ 26 else 2 ^ 16) = 0 ∧ s.hasStorage frame then
      some (s.modRegion r fun g => { g with frames := g.frames.erase (big, frame) })
    else none

/-- R359: maps a zeroed page, readable and writable at user level, unless one is mapped by now. A kernel that has no frame
or no node left for it kills the ember; log 7. -/
def execDemandPageMap (slot frame : Nat) (s : State) : Out State :=
  if nSlots ≤ slot then .fault .noSuchUnit
  else .next (
    let v := s.slot slot
    let r := (s.info v.ember).region
    if !s.handles slot (.demandPageMap slot 0) then s
    else match s.faultWalk slot with
      | .leaf _ => s.kernelReturn slot (v.trappc.signExtend 64)
      | _ => match s.takeFrame slot frame false with
        | none => s.kernelKill slot
        | some s' => match s'.nodeFor v.trapval 3 (s.slotRoot slot) (((Tab.find? s.regions r).map (·.nodes)).getD []) with
          | none => s.kernelKill slot
          | some (a, free, s) =>
            let s := (s.modRegion r fun g => { g with nodes := free }).zeroRange frame (2 ^ 16)
            (s.ownWrite a 8 (frame + 0x17)).kernelReturn slot (v.trappc.signExtend 64))

/-- What `got` holds in a slot whose page has been copied and mapped, while the old translation is being removed. -/
def migrationRemoves : Word := BitVec.allOnes 64 - 1

/-- R73, R349: step 4, as `tlbinv` with SCOPE 3: no unit uses the old translation any more, and the access executes again.
A handling that could not return within the 65,536 clk of R360 kills the ember instead. DESIGN CHOICE, log 72. -/
def State.migrationDone (s : State) (k frame : Nat) : State :=
  let v := s.slot k
  let c : Word := v.asid.setWidth 64
  let s := s.cutWaiters (slotCore k) 3 c v.trapval
  if v.lastIssue.getD s.now + 65536 ≤ s.now then s.kernelKill k
  else if s.cutsLeft (slotCore k) 3 ∨ s.usersLeft (slotCore k) 3 c v.trapval then
    (s.modSlot k fun v => { v with got := some migrationRemoves }).post (s.nextIssue k (s.now + 1)) (.pageMigration k frame)
  else s.kernelReturn k (v.trappc.signExtend 64)

/-- R218, R349: a page migrates from its peer. `got` of the slot says how far the copy into the zeroed local frame has come;
once it is whole the leaf becomes one of class normal, the old translation is removed on the wafer, and the access
executes again. Step 1 of R349 is the peer's own kernel's; log 7. -/
def execPageMigration (slot frame : Nat) (s : State) : Out State :=
  if nSlots ≤ slot then .fault .noSuchUnit
  else .next (
    let v := s.slot slot
    let pc : Word := v.trappc.signExtend 64
    if !s.handles slot (.pageMigration slot 0) then s
    else if v.got = some migrationRemoves then s.migrationDone slot frame
    else match s.faultWalk slot with
      | .leaf t =>
        let size := if t.big then 2 ^ 26 else 2 ^ 16
        if leafClass t.leaf ≠ 3 then s.kernelReturn slot pc
        else match v.got with
          | none => match s.takeFrame slot frame t.big with
            | none => s.kernelKill slot
            | some s => (s.zeroRange frame size).migrationChunk slot t frame 0
          | some n =>
            if n = migrationFailed then s.kernelKill slot
            else if n.toNat < size then s
            else
              let s := s.ownWrite t.at_ 8 (frame + t.leaf.toNat % 2 ^ 9 / 2 ^ 8 * 2 ^ 8 + t.leaf.toNat % 2 ^ 5)
              (s.tlbRemove (slotCore slot) 3 (v.asid.setWidth 64) v.trapval).migrationDone slot frame
      | _ => s.kernelReturn slot pc)

/-- R359: a timed-out ember re-executes its parking instruction. -/
def execTimeoutResume (slot : Nat) (s : State) : Out State :=
  if nSlots ≤ slot then .fault .noSuchUnit
  else .next (if s.handles slot (.timeoutResume slot) then s.kernelReturn slot ((s.slot slot).trappc.signExtend 64) else s)

/-- R71, R359: `trappc` moves behind the EBREAK, and the slot stops before the instruction there. -/
def execEbreakStop (slot : Nat) (s : State) : Out State :=
  if nSlots ≤ slot then .fault .noSuchUnit
  else .next (
    if !s.handles slot (.ebreakStop slot) then s
    else
      let s := s.modSlot slot fun v => { v with trappc := v.trappc + 4 }
      (s.kernelReturn slot ((s.slot slot).trappc.signExtend 64)).modSlot slot fun v => { v with stopReq := true, cmdBusy := true })

/-! Services (R311, R323, R343, R357). -/

/-- R311: forwarding is registered or cancelled. An a7 that names no service gives −1 (R359). -/
def execEcallForwardRegister (slot : Nat) (s : State) : Out State :=
  if nSlots ≤ slot then .fault .noSuchUnit
  else .next (
    let v := s.slot slot
    if !s.handles slot (.ecallForwardRegister slot) then s
    else
      let h := v.xr 10
      let b := v.xr 11
      let m := v.xr 12
      if v.xr 17 ≠ 0x21 then s.serviceReturn slot (BitVec.allOnes 64)
      else if h.toNat % 4 ≠ 0 ∨ b.toNat % 8 ≠ 0 ∨ m &&& ~~~ 0x81FF8 ≠ 0 ∨ !s.forwardBlock slot b
      then (s.noteWalk v.asid b).serviceReturn slot (BitVec.allOnes 64)
      else if m = 0 then (s.modInfo v.ember fun i => { i with forward := none }).serviceReturn slot 0
      else (s.modInfo v.ember fun i => { i with forward := some (h, b, m) }).serviceReturn slot 0)

/-- R323: the entry is malformed. -/
def routeMalformed (e : Word) : Bool :=
  let n := bits e.toNat 60 3
  let leg (i : Nat) : Nat := bits e.toNat (12 * i) 12
  n == 0 || decide (5 < n) || (List.range 5).any fun i =>
    if n ≤ i then leg i != 0
    else leg i % 512 == 0 || (leg i / 512 % 2 == 1 && leg i / 1024 % 2 == 1)
      || (leg i / 1024 == 0 && (List.range i).any fun j => leg j / 1024 != 0)

/-- R323: a route-table entry is checked and written. -/
def execEcallRouteWrite (slot : Nat) (s : State) : Out State :=
  if nSlots ≤ slot then .fault .noSuchUnit
  else .next (
    let v := s.slot slot
    let c := slotCore slot
    if !s.handles slot (.ecallRouteWrite slot) then s
    else
      let n := (v.xr 10).toNat
      let e := v.xr 11
      let answer (i : Int) : State := s.serviceReturn slot (BitVec.ofInt 64 i)
      if 63 < n then answer (-3)
      else if e.getLsbD 63 = false then
        (s.modCore c fun x => { x with routes := Tab.erase x.routes n }).serviceReturn slot 0
      else if routeMalformed e then answer (-1)
      else if (entryPath s.module.boot (routeLegs e) (coreX c) (coreY c)).isNone then answer (-2)
      else (s.modCore c fun x => { x with routes := Tab.set x.routes n e }).serviceReturn slot 0)

/-- R343: a launch by an ember; a release of its earlier stores. -/
def execEcallLaunch (slot : Nat) (s : State) : Out State :=
  if nSlots ≤ slot then .fault .noSuchUnit
  else .next (
    let v := s.slot slot
    if !s.handles slot (.ecallLaunch slot) then s
    else if v.rowsQueued ∨ !v.outs.isEmpty then s.post (s.nextIssue slot (s.now + 1)) (.ecallLaunch slot)
    else
      let a := v.xr 10
      match (if a.toNat % 64 = 0 then s.userKeys slot .load true false a 8 else none) with
      | none => (s.noteWalk v.asid a).serviceReturn slot (BitVec.ofInt 64 (-2))
      | some keys =>
        if keys.any fun w => (s.badWord w 8).isSome then s.serviceReturn slot (BitVec.ofInt 64 (-2))
        else
        let ws := keys.map s.read64
        if s.launchRejected ws (some v.owner) then s.serviceReturn slot (BitVec.allOnes 64)
        else (s.postLaunch ws none v.owner).serviceReturn slot 0)

/-- R357: the core retires from its region's barrier and collective service. -/
def execEcallRetire (slot : Nat) (s : State) : Out State :=
  if nSlots ≤ slot then .fault .noSuchUnit
  else .next (
    let c := slotCore slot
    if !s.handles slot (.ecallRetire slot) then s
    else if (s.core c).mask.isSome then s.serviceReturn slot 1
    else (s.setMask c).serviceReturn slot 0)

end Sys2Proof.Machine
end

