-- ==== Sys2Proof/Machine/Matrix.lean ====
section
/-! DEFINITION. The matrix unit (spec/13, R257 to R273; R96, R222): issue and the checks of operands, the queues and the
arbiter, operand reads, the arithmetic of a tile, and completion. -/

namespace Sys2Proof.Machine

/-! Tables and operands. -/

/-- Rows of operand B under a table (R261). -/
def rowsB (t : Row) : Nat := 32 / tableD t

/-- The descriptors of an entry with the operand rows that each supplies (R261). -/
def Tile.descs (t : Tile) (table : Row) : List (Desc × Nat) :=
  match t.kind with
  | .mma => [(descOf t.da, 16), (descOf t.db, rowsB table)]
  | .mmal => [(descOf t.db, rowsB table)]
  | _ => []

/-- R259: occupancy of the unit, in clk. -/
def Tile.occupancy (t : Tile) : Nat :=
  let b := descOf t.db
  match t.kind with
  | .mma => b.n * ((max (descOf t.da).m b.m + 1) / 2)
  | .mmal => b.n * ((max t.opA.m b.m + 1) / 2)
  | .sct => 1
  | _ => 2

/-- R269: slice address and exponent address of a latch row, in the cluster store. -/
def latchAt (d : Desc) (u : Nat) : Nat × Nat :=
  if d.gather then (u % 2 ^ 24, u % 2 ^ 24 + 64 * d.eoff)
  else (d.a + 32 * d.stride * u, d.a + 64 * d.eoff + 8 * u)

/-- R269: the row's bytes lie in one enabled slice. -/
def State.latchRowOk (s : State) (cl : Nat) (d : Desc) (u : Nat) : Bool :=
  let (a, x) := latchAt d u
  a % 4 == 0 && decide (a / 2 ^ 22 = 0) && s.module.boot.enabled (planeCore cl a)
    && decide (a % 2 ^ 19 + 4 * d.m * d.n ≤ 2 ^ 19) && decide (x / 2 ^ 19 = a / 2 ^ 19)
    && decide (x % 2 ^ 19 + d.n ≤ 2 ^ 19)

/-- The (core, line) pairs of 128-byte lines that byte ranges of one slice touch. -/
def linesOf (core : Nat) (l : List (Nat × Nat)) : List (Nat × Nat) :=
  (l.flatMap fun (a, n) => (List.range ((a + n - 1) / 128 - a / 128 + 1)).map fun i => (core, a / 128 + i)).eraseDups

/-- R259: L of an entry: lines of one slice counted together, the larger count of different slices. -/
def State.lineCount (s : State) (cl : Nat) (t : Tile) (table : Row) : Nat :=
  let l : List (Nat × Nat) := match t.kind with
    | .gth =>
      let d := descOf t.da
      ((t.idx.filter (s.latchRowOk cl d)).flatMap fun u =>
        let (a, x) := latchAt d u
        linesOf (planeCore cl a) [(a % 2 ^ 19, 4 * d.m * d.n), (x % 2 ^ 19, d.n)]).eraseDups
    | _ => ((t.descs table).flatMap fun (d, r) => linesOf (planeCore cl d.a) (d.ranges r)).eraseDups
  (List.range 8).foldl (fun m c => max m (l.filter (fun p => p.1 % 8 == c)).length) 0

/-- R262: operand row ρ of R lies wholly in its slice. -/
def Desc.inside (d : Desc) (r p : Nat) : Bool :=
  decide (d.expAt p + d.n ≤ 2 ^ 19) && (if d.dir then
    (List.range (32 * d.n)).all fun q => decide (d.rowAt q + (d.m * p + d.m - 1) / 8 < 2 ^ 19)
    else decide (d.rowAt p + d.rowBytes r ≤ 2 ^ 19))

/-- R260, R261: the operand of R rows that a descriptor names; a row with a byte outside its slice is of zero blocks
(R262). -/
def State.readOperand (s : State) (cl : Nat) (d : Desc) (r : Nat) : Rows :=
  let key := sliceKey (planeCore cl d.a)
  let stored := (List.range (d.rowCount r)).map fun q => s.read (key + d.rowAt q) (d.rowBytes r)
  let comp (p i : Nat) : Int := if d.dir then mantissa (stored.getD i 0) d.m p else mantissa (stored.getD p 0) d.m i
  { m := d.m, n := d.n, conj := d.conj, rows := (List.range r).map fun p =>
      (List.range d.n).map fun j =>
        if d.inside r p then ⟨s.read (key + d.expAt p + j) 1, (List.range 32).map fun i => comp p (32 * j + i)⟩
        else ⟨0, []⟩ }

/-- The first uncorrectable word that an operand's reads meet; a row outside the slice is not read (R262). The rows
inside stand before it. -/
def State.badOperand (s : State) (cl : Nat) (d : Desc) (r : Nat) : Option Nat :=
  let key := sliceKey (planeCore cl d.a)
  (d.ranges (((List.range r).find? fun p => !d.inside r p).getD r)).findSome? fun (a, n) => s.badWord (key + a) n

/-- R269: a latch row, with what it has to report. -/
def State.readLatchRow (s : State) (cl : Nat) (d : Desc) (u : Nat) : List Block × Option (Nat × Word) :=
  let (a, x) := latchAt d u
  let core := planeCore cl a
  let key := sliceKey core + a % 2 ^ 19
  let ke := sliceKey core + x % 2 ^ 19
  if !s.latchRowOk cl d u then
    ((List.range d.n).map fun _ => ⟨0, []⟩, some (0x13, storeAddrAt core (a % 2 ^ 19)))
  else match (match s.badWord key (4 * d.m * d.n) with
      | some w => some w
      | none => s.badWord ke d.n) with
    | some w => ((List.range d.n).map fun _ => ⟨255, []⟩, some (0x0F, storeAddr w))
    | none =>
      let v := s.read key (4 * d.m * d.n)
      ((List.range d.n).map fun j => ⟨s.read (ke + j) 1, (List.range 32).map fun i => mantissa v d.m (32 * j + i)⟩, none)

/-- R245: the 8-byte words that the reads of an entry take. -/
def State.tileWords (s : State) (cl : Nat) (t : Tile) (table : Row) : List Nat :=
  match t.kind with
  | .gth =>
    let d := descOf t.da
    (t.idx.filter (s.latchRowOk cl d)).flatMap fun u =>
      let (a, x) := latchAt d u
      let key := sliceKey (planeCore cl a)
      wordsOf (key + a % 2 ^ 19) (4 * d.m * d.n) ++ wordsOf (key + x % 2 ^ 19) d.n
  | _ => (t.descs table).flatMap fun (d, r) =>
      let key := sliceKey (planeCore cl d.a)
      (d.ranges r).flatMap fun (a, n) => wordsOf (key + a) n

/-! Arithmetic (R265, R266). -/

/-- R265: 8 · S_j of one output: output component k of the products of two blocks. -/
def blockSum (t : Row) (rev conjA conjB : Bool) (k : Nat) (a b : List Int) : Int :=
  let d := tableD t
  let sgn (c : Bool) (p : Nat) : Int := if c && tableConj t p then -1 else 1
  ((List.range (32 / d)).map fun e => ((List.range d).map fun p => ((List.range d).map fun q =>
    match (if rev then tableCoef t q p else tableCoef t p q) with
    | some c =>
      if c.k = k then
        (if c.neg then -1 else 1) * 2 ^ (c.sh + 3).toNat * (sgn conjA p * a.getD (d * e + p) 0) * (sgn conjB q * b.getD (d * e + q) 0)
      else 0
    | none => 0).sum).sum).sum

/-- R266: P_j of one output, or none where the block is skipped. R96 does not give the sign of a P_b whose S_b is 0 under a
negative scale: the model forms +0 times the scale, so −0. DESIGN CHOICE, log 33. -/
def blockTerm (t : Row) (rev : Bool) (oa ob : Rows) (scale : Num) (k : Nat) (a b : Block) : Option (Nat × Fl) :=
  if a.exp = 255 ∨ b.exp = 255 then some (fp32.nan, scale.nvIf)
  else if a.exp = 0 ∨ b.exp = 0 then none
  else
    let s := blockSum t rev oa.conj ob.conj k a.mant b.mant
    let e : Int := (a.exp : Int) + b.exp - 254 - ((oa.m : Int) - 2) - ((ob.m : Int) - 2) - 3
    some (fin2 fp32 .rne (mulN (.fin (s < 0) s.natAbs e) scale))

/-- R96: one output: the blocks in ascending order are added to the accumulator. -/
def tileLane (t : Row) (rev : Bool) (oa ob : Rows) (scale : Num) (k : Nat) (acc : Nat) : List (Block × Block) → Nat × Fl
  | [] => (acc, 0)
  | (a, b) :: l =>
    match blockTerm t rev oa ob scale k a b with
    | none => tileLane t rev oa ob scale k acc l
    | some (p, fl) =>
      let (acc, fl') := addF fp32 .rne acc p
      let (r, fl'') := tileLane t rev oa ob scale k acc l
      (r, fl ||| fl' ||| fl'')

/-- R265: the 16 rows of a tile and its flags. -/
def tileRows (t : Row) (rev : Bool) (oa ob : Rows) (scale : Num) (start : List Row) : List Row × Fl :=
  let d := tableD t
  let rows := (List.range 16).map fun p =>
    let ra := oa.rows.getD p []
    let l := (List.range 32).map fun c =>
      tileLane t rev oa ob scale (c % d) (laneAt (start.getD p 0) 4 c) (ra.zip (ob.rows.getD (c / d) []))
    (rowOf 4 (l.map (·.1)), l.foldl (fun a x => a ||| x.2) 0)
  (rows.map (·.1), rows.foldl (fun a x => a ||| x.2) 0)

/-- R272: every lane of a half holds the canonical NaN. -/
def nanRows : List Row := List.replicate 16 (rowOf 4 (List.replicate 32 fp32.nan))

/-! Queues, reads and grants (R257 to R259). -/

/-- The index in the queue of the first entry whose operands are not read; entries that read nothing stand complete. -/
def readIndex : List Tile → Nat → Option Nat
  | [], _ => none
  | t :: l, i => if t.arrived then readIndex l (i + 1) else some i

/-- R259: the reads of the next entry of a core's queue begin, unless those of an entry ahead go on. -/
def State.startReads (s : State) (core : Nat) : State :=
  let c := s.core core
  if c.mq.any (·.reading) || (s.cluster (coreCluster core)).mx.running.any fun p => p.1 == core && p.2.reading then s
  else match readIndex c.mq 0 with
    | none => s
    | some i => match c.mq[i]? with
      | none => s
      | some t =>
        let cl := coreCluster core
        let fin := s.now + s.clk (coreField core) (4 + s.lineCount cl t ((s.cluster cl).table t.asl))
        (s.modCore core fun c => { c with mq := c.mq.set i { t with reading := true, readEnd := fin } }).postRank fin 2
          (.matrixOperandArrival core)

/-- R245: memory as the reads of an entry have found it: the words taken before are those that they were then. -/
def State.overlay (s : State) (snap : List (Nat × Nat)) : State :=
  { s with mem := snap.foldl (fun m p => memWrite m p.1 8 p.2) s.mem }

/-- R259: what an entry has once its reads have ended. -/
def State.readTile (s : State) (cl : Nat) (t : Tile) (table : Row) : Tile :=
  let s := s.overlay t.snap
  let t := { t with reading := false, arrived := true, snap := [] }
  match t.kind with
  | .gth =>
    let d := descOf t.da
    let l := t.idx.map (s.readLatchRow cl d)
    let pick (c : Nat) : List (Nat × Nat × Word) :=
      (((List.range 16).zip (l.map (·.2))).filterMap fun (i, r) => match r with
        | some (k, w) => if k = c then some (i, k, w) else none
        | none => none).take 1
    let reports := match pick 0x13, pick 0x0F with
      | [x], [y] => if x.1 < y.1 then [x.2, y.2] else [y.2, x.2]
      | xs, ys => (xs ++ ys).map (·.2)
    { t with opA := { m := d.m, n := d.n, conj := d.conj, rows := l.map (·.1) }, reports := reports }
  | _ =>
    let ops := t.descs table
    let a := ops.head?.map fun (d, r) => s.readOperand cl d r
    let b := ops.getLast?.map fun (d, r) => s.readOperand cl d r
    let bad := ops.findSome? fun (d, r) => s.badOperand cl d r
    let out := ops.getLast?.bind fun (d, r) => (firstOutside (d.ranges r)).map fun o => storeAddrAt (planeCore cl d.a) o
    { t with
      opA := if t.kind = .mma then a.getD {} else t.opA, opB := b.getD {}, bad := bad.map storeAddr,
      reports := (out.toList.map fun w => (0x13, w)) ++ (bad.toList.map fun w => (0x0F, storeAddr w)) }

/-- R258, R222: the next core after `c` whose queue is not empty and whose turn its throttle level does not pass over. -/
def State.nextTurn (s : State) (cl : Nat) : Nat → Nat → Option (Nat × State)
  | 0, _ => none
  | n + 1, c =>
    let c := (c + 1) % 8
    let core := 8 * cl + c
    let v := s.core core
    if v.mq = [] then s.nextTurn cl n c
    else
      let s := s.modCore core fun v => { v with turns := v.turns + 1 }
      if (v.turns + 1) % 2 ^ v.throttle = 0 then some (c, s) else s.nextTurn cl n c

/-- R258: the core granted next, as its number in the cluster, and its grants in a row. -/
def State.arbitrate (s : State) (cl : Nat) : Option (Nat × Nat × State) :=
  let u := (s.cluster cl).mx
  let v := s.core (8 * cl + u.turn)
  if v.mq ≠ [] ∧ u.given < v.mweight.toNat ∧ 0 < u.given then some (u.turn, u.given + 1, s)
  else if (List.range 8).all fun c => (s.core (8 * cl + c)).mq == [] then none
  else (s.nextTurn cl 72 (if u.given = 0 then 7 else u.turn)).map fun (c, s) => (c, 1, s)

def State.modUnit (s : State) (cl : Nat) (f : MatrixUnit → MatrixUnit) : State := s.modCluster cl fun c => { c with mx := f c.mx }

/-- The unit looks for an entry to grant, once what enters a queue in this clk has entered it (R258). -/
def State.postGrant (s : State) (cl : Nat) : State := s.postRank s.now 3 (.matrixGrant cl)

/-- R266, R268: the half's current value at a grant: the result of the last granted operation on it, or its rows. -/
def State.halfValue (s : State) (cl : Nat) (t : Tile) : List Row :=
  let same := (s.cluster cl).mx.pending.filter fun x =>
    x.slot == t.slot && x.ember == t.ember && x.half == t.half && (x.kind == .mma || x.kind == .mmal || x.kind == .clr)
  match same.getLast? with
  | some x => x.start
  | none => (List.range 16).map fun r => s.row t.slot (16 * t.half + r)

/-- R251: the reads of a core's queue are to be made again, behind those of the entry ahead of them. -/
def State.readAgain (s : State) (core : Nat) : State :=
  (s.modCore core fun c => { c with mq := c.mq.map fun t =>
    if t.kind = .sct ∨ t.kind = .clr then t else { t with reading := false, arrived := false, snap := [] } }).startReads core

/-- R259: the occupancy of the granted entry begins now: its result is formed, and it completes 12 clk after its end. Where
a table that an `msct` has loaded since its reads asks for other rows of B, they are read now. -/
def State.occupy (s : State) (cl core : Nat) (t : Tile) : State :=
  let f := clusterField cl
  let stale := decide (t.kind ≠ .gth ∧ t.kind ≠ .clr ∧ t.kind ≠ .sct ∧ t.opB.rows.length ≠ rowsB t.table)
  let t : Tile := if stale then s.readTile cl t t.table else t
  let s := if stale then s.readAgain core else s
  let s := if t.kind = .mma ∨ t.kind = .mmal then s.count t.slot 6 (16 * (descOf t.db).n) else s
  let t : Tile := match t.kind with
    | .mma | .mmal =>
      let oa : Rows := if t.kind = .mmal then { ((s.latch t.slot).getD {}) with m := t.opA.m, n := t.opA.n } else t.opA
      let (rows, fl) := if t.bad.isSome then (nanRows, 0)
        else tileRows t.table t.rev oa t.opB (unpack fp32 t.scale.toNat) t.start
      { t with start := rows, flags := fl }
    | .clr => { t with start := List.replicate 16 0 }
    | _ => t
  let s := match (if t.kind = .gth ∧ (s.slot t.slot).ember = t.ember then s.latch t.slot else none) with
    | some l => s.setLatch t.slot { l with conj := t.opA.conj, rows := t.opA.rows }
    | none => s
  let s := t.reports.foldl (fun (s : State) r => s.report t.slot t.ember r.1 r.2) s
  let fin := s.now + s.clk f t.occupancy
  ((s.modUnit cl fun u => { u with running := some (core, t), busyTo := fin }).postRank fin 3 (.matrixGrant cl)).post
    (fin + s.clk f 12) (.matrixComplete cl)

/-- R258, R268, R270: the idle unit grants a queue head; the table and the start value are read, or a table loaded. -/
def execMatrixGrant (cluster : Nat) (s : State) : Out State :=
  if nClusters ≤ cluster then .fault .noSuchUnit
  else .next (
    let u := (s.cluster cluster).mx
    let s := match u.running with
      | some (_, t) =>
        if u.busyTo ≠ 0 ∧ u.busyTo ≤ s.now then s.modUnit cluster fun u => { u with running := none, pending := u.pending ++ [t], busyTo := 0 }
        else s
      | none => s
    if (s.cluster cluster).mx.running.isSome then s
    else match s.arbitrate cluster with
      | none => s
      | some (c, given, s) =>
        let core := 8 * cluster + c
        match (s.core core).mq with
        | [] => s
        | t :: rest =>
          let t := { t with table := (s.cluster cluster).table t.asl, start := if t.ovw then List.replicate 16 0 else s.halfValue cluster t }
          let s := if t.kind = .mma ∨ t.kind = .mmal then
              s.correctRows t.slot ((List.range 16).map (16 * t.half + ·)) else s
          let s := (s.count t.slot 5 1).modCore core fun v => { v with mq := rest }
          let s := if t.kind = .sct then s.modCluster cluster fun v => { v with tables := Tab.set v.tables t.asl t.image } else s
          let s := s.modUnit cluster fun u =>
            { u with running := some (core, t), turn := c, given := given, grantAt := s.now, busyTo := 0 }
          if t.arrived then s.occupy cluster core t
          else s.postRank (s.now + s.clk (clusterField cluster) 64) 2 (.matrixSetback cluster))

/-- R245, R268: an entry whose reads end now takes all of its words, or some of them first and the others later in the same
clk; the errors that the reads meet are corrected (R296). Answers whether it has taken all. -/
def State.takeWords (s : State) (cl : Nat) (t : Tile) (table : Row) : Bool × Tile × State :=
  let l := s.tileWords cl t table
  if t.snap ≠ [] then (true, t, s)
  else
    let s := l.foldl (fun t a => t.scrub a 8) s
    let (j, s) := if l.length < 2 then (l.length, s) else s.split l.length
    if j = l.length then (true, t, s) else (false, { t with snap := (l.take j).map fun a => (a, s.read a 8) }, s)

/-- R259: the reads of a core's queue that have ended by now: the occupancy of a granted entry begins, and the reads of
the next entry. -/
def execMatrixOperandArrival (core : Nat) (s : State) : Out State :=
  if nCores ≤ core then .fault .noSuchUnit
  else .next (
    let cl := coreCluster core
    let ended (t : Tile) : Bool := t.reading && decide (t.readEnd ≤ s.now)
    match (s.cluster cl).mx.running.filter fun p => p.1 == core && ended p.2 with
    | some (_, t) => match s.takeWords cl t t.table with
      | (false, t, s) => (s.modUnit cl fun u => { u with running := some (core, t) }).postRank s.now 4 (.matrixOperandArrival core)
      | (true, t, s) => (s.occupy cl core (s.readTile cl t t.table)).startReads core
    | none => match (s.core core).mq.findIdx? ended with
      | none => s.startReads core
      | some i =>
        let t := (s.core core).mq.getD i {}
        let table := (s.cluster cl).table t.asl
        match s.takeWords cl t table with
        | (false, t, s) => (s.modCore core fun c => { c with mq := c.mq.set i t }).postRank s.now 4 (.matrixOperandArrival core)
        | (true, t, s) => (s.modCore core fun c => { c with mq := c.mq.set i (s.readTile cl t table) }).startReads core)

/-- R259: the operands of the granted entry have not arrived in 64 clk: it returns to the head of its queue. -/
def execMatrixSetback (cluster : Nat) (s : State) : Out State :=
  if nClusters ≤ cluster then .fault .noSuchUnit
  else .next (
    let u := (s.cluster cluster).mx
    match u.running with
    | some (core, t) =>
      if u.busyTo ≠ 0 ∨ t.snap ≠ [] ∨ s.now < u.grantAt + s.clk (clusterField cluster) 64 then s
      else (((s.modCore core fun c => { c with mq := t :: c.mq }).modUnit cluster fun u =>
        { u with running := none, given := 15 }).startReads core).postGrant cluster
    | none => s)

/-- R259: an entry completes: its rows and flags are written and the tile count falls. -/
def execMatrixComplete (cluster : Nat) (s : State) : Out State :=
  if nClusters ≤ cluster then .fault .noSuchUnit
  else .next (match (s.cluster cluster).mx.pending with
    | [] => s
    | t :: rest =>
      let s := s.modUnit cluster fun u => { u with pending := rest }
      let mine := (s.slot t.slot).ember == t.ember
      let s := match t.kind with
        | .mma | .mmal | .clr => if mine || !(s.slot t.slot).accHeld then
            ((List.range 16).zip t.start).foldl (fun (s : State) (p : Nat × Row) => s.setRow t.slot (16 * t.half + p.1) p.2) s
          else s
        | _ => s
      if mine then (s.raise t.slot t.flags).modSlot t.slot fun v => { v with tiles := v.tiles - 1 }
      else s.modCluster cluster fun c => { c with flagUnion := c.flagUnion ||| t.flags })

/-- R257, R268: the head of a slot's buffer leaves for the queue of its core, in a cycle of the slot, when there is room
and every earlier access of the ember has been performed (R251). -/
def execMatrixEnqueue (slot : Nat) (s : State) : Out State :=
  if nSlots ≤ slot then .fault .noSuchUnit
  else .next (
    let v := s.slot slot
    let core := slotCore slot
    match v.vbuf with
    | [] => s.modSlot slot fun v => { v with vlive := false }
    | e :: rest =>
      let t := e.tile
      if e.op ≠ .tile then s.postRank s.now 2 (.vectorEntryExecute slot)
      else if s.now < s.entryClk slot e ∨ 8 ≤ (s.core core).mq.length ∨ s.rowsWait slot e
        ∨ (t.kind ≠ .sct ∧ t.kind ≠ .clr ∧ v.outs.any fun o => o.row || decide (o.id < t.since)) then s.entryNext slot
      else
        let t := { t with
          idx := if t.kind = .gth then (lanes (s.row slot t.vs) 4).take 16 else [],
          arrived := t.kind == .sct || t.kind == .clr }
        let s := (s.modSlot slot fun v => { v with vbuf := rest }).modCore core fun c => { c with mq := c.mq ++ [t] }
        (((s.entryNext slot).bufferLeft slot).startReads core).postGrant (coreCluster core))

/-! Issue (R262, R268 to R271). -/

/-- R262: what a descriptor's operand of R rows finds wrong, except illegal contents: the place in R32's order, the cause
and `trapval`. -/
def State.descTrap (s : State) (d : Desc) (r : Nat) : Option (Nat × Nat × Word) :=
  let cl := slotCluster s.cur
  let core := planeCore cl d.a
  let at_ : Word := storeAddrAt core (d.a % 2 ^ 19)
  if d.a % 4 ≠ 0 then some (8, 0x03, at_)
  else if d.a / 2 ^ 22 ≠ 0 ∨ !s.module.boot.enabled core then some (9, 0x13, at_)
  else match firstOutside (d.ranges r) with
    | some o => some (9, 0x13, storeAddrAt core o)
    | none => if (s.core core).sliceOwner ≠ s.me.owner then some (16, 0x10, at_) else none

/-- R260, R262: the contents of a descriptor are illegal. -/
def Desc.illegal (d : Desc) : Bool := !d.zero || d.m == 1 || d.gather

/-- R32: the first of two findings. -/
def firstTrap (a b : Option (Nat × Nat × Word)) : Option (Nat × Nat × Word) :=
  match a, b with
  | some x, some y => if y.1 < x.1 then some y else some x
  | some x, none => some x
  | none, y => y

/-- R257, R268: an entry is counted and enters the buffer; `after` is what its issue records. -/
def State.enqueueTile (s : State) (t : Tile) (after : State → State) : State :=
  s.withRoom fun s =>
    if 63 ≤ s.me.tiles then s.notReady .memory
    else
      let t := { t with slot := s.cur, ember := s.me.ember, since := s.nextId }
      (after ((s.push { op := .tile, tile := t }).modMe fun v => { v with tiles := v.tiles + 1 })).retire

/-- R268: `mma` in one of its forms. -/
def State.mma (s : State) (ovw rev : Bool) (asl : BitVec 3) (h : BitVec 1) (rs1 rs2 rs3 : Reg) : State :=
  let a := descOf (s.x rs1)
  let b := descOf (s.x rs2)
  if a.illegal || b.illegal || a.n != b.n then s.illegal
  else s.withWindow fun s =>
    let r := rowsB ((s.cluster (slotCluster s.cur)).table asl.toNat)
    match firstTrap (s.descTrap a 16) (s.descTrap b r) with
    | some (_, c, v) => s.trap c v
    | none => s.enqueueTile {
        kind := .mma, half := h.toNat, asl := asl.toNat, ovw := ovw, rev := rev, da := s.x rs1, db := s.x rs2,
        scale := s.fp rs3 } id

/-- R268: `mmal` in one of its forms; the entry captures the latch's m and n. -/
def State.mmal (s : State) (ovw rev : Bool) (asl : BitVec 3) (h : BitVec 1) (rs2 rs3 : Reg) : State :=
  let b := descOf (s.x rs2)
  match s.latch s.cur with
  | none => s.illegal
  | some l =>
    if b.illegal || l.n != b.n then s.illegal
    else s.withWindow fun s =>
      let r := rowsB ((s.cluster (slotCluster s.cur)).table asl.toNat)
      match s.descTrap b r with
      | some (_, c, v) => s.trap c v
      | none => s.enqueueTile {
          kind := .mmal, half := h.toNat, asl := asl.toNat, ovw := ovw, rev := rev, db := s.x rs2, scale := s.fp rs3,
          opA := { m := l.m, n := l.n } } id

/-- R268: mma. -/
def execMma (asl : BitVec 3) (h : BitVec 1) (rs1 rs2 rs3 : Reg) (s : State) : Out State :=
  .next (s.mma false false asl h rs1 rs2 rs3)
/-- R268: mma.o. -/
def execMmaO (asl : BitVec 3) (h : BitVec 1) (rs1 rs2 rs3 : Reg) (s : State) : Out State :=
  .next (s.mma true false asl h rs1 rs2 rs3)
/-- R268: mma.r. -/
def execMmaR (asl : BitVec 3) (h : BitVec 1) (rs1 rs2 rs3 : Reg) (s : State) : Out State :=
  .next (s.mma false true asl h rs1 rs2 rs3)
/-- R268: mmal. -/
def execMmal (asl : BitVec 3) (h : BitVec 1) (rs2 rs3 : Reg) (s : State) : Out State :=
  .next (s.mmal false false asl h rs2 rs3)
/-- R268: mmal.o. -/
def execMmalO (asl : BitVec 3) (h : BitVec 1) (rs2 rs3 : Reg) (s : State) : Out State :=
  .next (s.mmal true false asl h rs2 rs3)
/-- R268: mmal.r. -/
def execMmalR (asl : BitVec 3) (h : BitVec 1) (rs2 rs3 : Reg) (s : State) : Out State :=
  .next (s.mmal false true asl h rs2 rs3)

/-- R269: mgth. -/
def execMgth (rs1 rs2 : Reg) (s : State) : Out State :=
  let d := descOf (s.x rs1)
  .next (if !d.zero || d.m == 1 || d.dir then s.illegal
    else s.withWindow fun s =>
      let cl := slotCluster s.cur
      let core := planeCore cl d.a
      let at_ : Word := storeAddrAt core (d.a % 2 ^ 19)
      if !d.gather && d.a % 4 != 0 then s.trap 0x03 at_
      else if !d.gather && (decide (d.a / 2 ^ 22 ≠ 0) || !s.module.boot.enabled core) then s.trap 0x13 at_
      else if (List.range 8).any fun c =>
          s.module.boot.enabled (8 * cl + c) && (s.core (8 * cl + c)).sliceOwner != s.me.owner then s.trap 0x10 at_
      else s.enqueueTile { kind := .gth, da := s.x rs1, vs := rs2.toNat } fun s =>
        s.setLatch s.cur { ((s.latch s.cur).getD {}) with m := d.m, n := d.n })

/-- R270: msct. -/
def execMsct (k : BitVec 3) (rs1 : Reg) (s : State) : Out State :=
  let a := s.x rs1
  .next (if (translated a || inStore a) && decide (a.toNat % 128 ≠ 0) then s.trap 0x03 a
    else s.afterRows fun s => s.withBlock a 16 fun s ws =>
      let image : Row := BitVec.ofNat 1024 (ws.foldr (fun w n => w.toNat + 2 ^ 64 * n) 0)
      if !tableOk image then s.illegal
      else s.enqueueTile { kind := .sct, asl := k.toNat, image := image } id)

/-- R271: mclr. -/
def execMclr (h : BitVec 1) (s : State) : Out State :=
  .next (s.withWindow fun s => s.enqueueTile { kind := .clr, half := h.toNat, ovw := true } id)

end Sys2Proof.Machine
end

