-- ==== Sys2Proof/Machine/Regions.lean ====
section
/-! DEFINITION. Regions (R99, R118, R200, R294, R295, R356), storage owners and frames (R219, R220, R236, R242), heat (R222),
meters (R223), relays (R319), quarantine (R299), the fabric table (R327), and the field controllers' failures (R302, R303). -/

namespace Sys2Proof.Machine

/-! Starting a region. -/

/-- R99: the positions of a plan's rectangle of clusters, row by row from the north, west to east. -/
def RegionPlan.positions (p : RegionPlan) : List Nat :=
  ((List.range (4 * p.h)).map fun j => (List.range (2 * p.w)).filterMap fun i => coreAt (2 * p.x0 + i) (4 * p.y0 + j)).flatten

/-- R99: the enabled cores of a plan in logical order. -/
def State.planCores (s : State) (p : RegionPlan) : List Nat :=
  p.positions.filter fun c => s.module.boot.enabled c && !(s.field (coreField c)).fenced

/-- What a core holds when a region receives it (R322, R328, R331). -/
def Core.given (c : Core) (region : Nat) (owner : BitVec 8) : Core :=
  { c with
    region := some region, owned := some owner, routes := [], arr := [], bround := [], mask := none,
    maskNext := [], cround := [], kept := [], keptFlags := [], contrib := [], bells := [], ready := [], rq := [] }

/-- R17, R118, R200: an idle ember stands in a slot, at its `wfw`. -/
def State.placeIdle (s : State) (region k : Nat) (p : RegionPlan) (rec : Word) (t : Nat) : State :=
  let e := rec.toNat / 64
  let s := s.hwWrite p.asid rec 8 p.idlePc.toNat
  let s := s.hwWrite p.asid (rec + 8) 8 (recordWord1 0 stRunning p.asid.toNat 0 0 false false 0)
  let s := s.hwWrite p.asid (rec + 16) 48 0
  (s.modInfo e fun _ => { core := slotCore k, region := region }).modSlot k fun v =>
    { mode := .active, ember := e, pc := p.idlePc.setWidth 64, parklimit := BitVec.ofNat 40 (2 ^ 40 - 1), asid := p.asid,
      trapvec := p.trapvec, owner := p.owner, accWin := v.accWin, due := some (s.nextIssue k t), lastIssue := v.lastIssue,
      vlive := v.vlive, acct := v.acct, lastKill := v.lastKill }

/-- R99: the words of the region map: entry n holds X and Y of logical core n, 32 bits each. -/
def State.writeMap (s : State) (p : RegionPlan) (cores : List Nat) : State :=
  if p.map = 0 then s
  else ((List.range cores.length).zip cores).foldl (fun (t : State) (n, c) =>
    t.hwWrite p.asid (p.map + BitVec.ofNat 64 (4 * n)) 4 (coreX c * 2 ^ 16 + coreY c)) s

/-- R236: the entry of a sealable frame that has just been zeroed, in the table of its flue, if that has room. A frame that has
its entry keeps it, sealed or open (R242). -/
def State.makeSealable (s : State) (frame : Nat) (big : Bool) : State :=
  let h := keyHome frame
  if !s.hasStorage frame ∨ frame % (if big then 2 ^ 26 else 2 ^ 16) ≠ 0 ∨ 512 ≤ (s.home h).appends.length
    ∨ (Tab.find? (s.home h).appends frame).isSome then s
  else (s.zeroRange frame (if big then 2 ^ 26 else 2 ^ 16)).modHome h fun d => { d with
    appends := Tab.set d.appends frame { big := big, tail := 0, closed := false } }

/-- R223: a bucket with RATE [15:8] and BURST [5:0], full. -/
def Bucket.set (w t : Nat) : Bucket :=
  { rate := BitVec.ofNat 8 (w / 2 ^ 8), burst := BitVec.ofNat 6 w, credit := 512 * (w % 64 + 1), filled := t }

/-- What the kernel supplies for a region beside its cores: sealable frames and backing tables (R236), replica frames and
thresholds (R240), buckets (R223) and the region map (R99). Log 7. -/
def State.supply (s : State) (p : RegionPlan) (cores clusters : List Nat) : State :=
  let s := p.seals.foldl (fun (t : State) x => t.makeSealable x.1 x.2) s
  let s := p.pool.foldl (fun (t : State) x => t.modField x.1 fun d => { d with pool := d.pool ++ [(p.owner, x.2)] }) s
  let s := p.thresholds.foldl (fun (t : State) x => t.modField x.1 fun d => { d with threshold := x.2 }) s
  let word (c : Nat) : Nat := (Tab.get p.meters ((cores.findIdx? (· == c)).getD 0) 0).toNat
  let s := cores.foldl (fun (t : State) c => t.modCore c fun v => { v with
    meter := { Bucket.set (word c) t.now with waiting := v.meter.waiting } }) s
  -- the engine of a cluster has the bucket that stands with the first of its cores
  let s := clusters.foldl (fun (t : State) cl => t.modCluster cl fun v => { v with
    engMeter := Bucket.set (word ((cores.find? fun c => coreCluster c == cl).getD 0) / 2 ^ 16) t.now }) s
  s.writeMap p cores

/-- R263: a cluster that changes owner loses its tables. -/
def State.newOwner (s : State) (owner : BitVec 8) (cl : Nat) : State :=
  if (List.range 8).all fun i => (s.core (8 * cl + i)).owned.all (· == owner) then s
  else s.modCluster cl fun v => { v with tables := [] }

/-- R200: a core of a region starts with the translation of its idle embers' page in its L1 TLB, so that each `wfw` issues in
the region's first rotation. -/
def State.warm (s : State) (p : RegionPlan) (c : Nat) : State :=
  let va : Word := p.idlePc.setWidth 64
  match (s.asidRoot p.asid.toNat p.owner).map fun root => s.walk p.asid.toNat root va with
  | some (.leaf t) => if p.idle = [] then s else s.fill (8 * c) t
  | _ => s

/-- The slots of a region's cores, with the idle records that they receive. -/
def State.placeAll (s : State) (region : Nat) (p : RegionPlan) : List Nat → List Word → State
  | [], _ => s
  | k :: ks, recs =>
    let v := s.slot k
    if v.mode ≠ .vacant then s.placeAll region p ks recs
    else match recs with
      | [] => (s.modSlot k fun v => { v with asid := p.asid, trapvec := p.trapvec, owner := p.owner }).placeAll region p ks []
      | r :: rs => (s.placeIdle region k p r (s.nextIssue (k / 8 * 8) s.now)).placeAll region p ks rs

/-- R280, R274: the queues of cores that change hands are cut, and one of them is still inside a chunk. -/
def State.cutQueues (s : State) (cores : List Nat) : State :=
  cores.foldl (fun (t : State) c => t.modCore c fun v => { v with
    cq0 := { v.cq0 with entries := cutEntries v.cq0.entries }, cq1 := { v.cq1 with entries := cutEntries v.cq1.entries } }) s
def State.queuesBusy (s : State) (cores : List Nat) : Bool :=
  cores.any fun c => ((s.core c).cq0.entries ++ (s.core c).cq1.entries).any (·.busy)

/-- R118, R200, R263, R274, R328, R350, R356: the kernel starts a region as its plan says. It refuses one that would need a 33rd
segment, or whose fields have not started. The reset of the copy queues lets a chunk that is under way end first (R280). -/
def execRegionStart (region : Nat) (s : State) : Out State :=
  .next (match Tab.find? s.plans region with
  | none => s
  | some p =>
    let cores := s.planCores p
    let harvested := p.positions.filter fun c => !s.module.boot.enabled c
    let fields := (List.range nFields).filter fun f => (cores ++ harvested).any fun c => coreField c == f
    let taken (c : Nat) : Bool := match s.regionOf c with
      | some (_, g) => g.running
      | none => false
    if (Tab.find? s.regions region).any (·.running) ∨ cores.any taken
      ∨ fields.any (fun f => decide (32 ≤ (s.field f).segments) || !(s.field f).started) then s
    else if s.queuesBusy cores then
      let (d, s) := (s.cutQueues cores).openTime
      s.post (s.now + 1 + d % 65536) (.regionStart region)
    else
      let clusters := (cores.map coreCluster).eraseDups
      let g : Region := {
        owner := p.owner, asid := p.asid, cores := cores, clusters := clusters, running := true, records := p.records,
        saves := p.saves, spills := p.spills, pages := p.pages, stages := p.stages, demand := p.demand, budget := p.budget,
        debug := p.debug, bar := (List.range 8).map (fun k => (k, { since := s.now })), frames := p.frames, nodes := p.nodes,
        harvested := harvested }
      let s := { s with regions := Tab.set s.regions region g }
      let s := fields.foldl (fun (t : State) f => t.modField f fun d => { d with segments := d.segments + 1 }) s
      let s := clusters.foldl (fun (t : State) cl => t.newOwner p.owner cl) s
      let s := cores.foldl (fun (t : State) c => ((t.modCore c (·.given region p.owner)).startCounting c).warm p c) s
      let s := cores.foldl (fun (t : State) c => (t.resetQueue c 0).resetQueue c 1) s
      let s := s.supply p cores clusters
      let s := clusters.foldl (fun (t : State) cl => t.modDisp cl fun _ => {}) s
      let s := harvested.foldl (fun (t : State) c => t.modCore c fun v => { v with mask := some t.now }) s
      -- R330: a field of which every position is masked has its AND 8 clk after the start
      let s := (fields.filter fun f => !cores.any fun c => coreField c == f).foldl (fun (t : State) f =>
        (List.range 8).foldl (fun t k => t.tellGateway region k f) t) s
      (s.placeAll region p ((cores.map fun c => (List.range 8).map (8 * c + ·)).flatten) p.idle).poolFlags region)

/-! Stopping and pre-empting. -/

/-- R112, R294: the region's embers that are in no slot are stopped where they wait. -/
def State.stopWaiting (s : State) (region : Nat) (g : Region) : State :=
  let out := s.embers.filter fun p => p.2.region == region && (s.slotOf p.1).isNone
  let s := out.foldl (fun (t : State) p =>
    let t := t.leaveWaits p.2.core p.1 p.2.park
    (t.setState g.asid p.1 stStopped false).modInfo p.1 fun i => { i with park := none, queued := false }) s
  let gone (e : Nat × Nat) : Bool := out.any fun p => p.1 == e.1
  let s := g.cores.foldl (fun (t : State) c => t.modCore c fun v => { v with ready := v.ready.filter (!gone ·) }) s
  g.clusters.foldl (fun (t : State) cl => t.modCluster cl fun v => { v with ready := v.ready.filter (!gone ·) }) s

/-- R124, R272, R280, R291: a region is stopped: its slots and embers, and the entries of its matrix and copy queues. -/
def execRegionStop (region : Nat) (s : State) : Out State :=
  .next (match Tab.find? s.regions region with
  | none => s
  | some g =>
    if !g.running then s
    else
      let slots := (g.cores.map fun c => (List.range 8).map (8 * c + ·)).flatten
      let s := slots.foldl (fun (t : State) k =>
        if (t.slot k).mode = .doubleFault then t.kernelKill k else t.requestStop k false) s
      let s := g.cores.foldl (fun (t : State) c =>
        let n (k : Nat) : Nat := ((t.core c).mq.filter (·.slot == k)).length
        let t := (List.range 8).foldl (fun (t : State) i => t.modSlot (8 * c + i) fun v => { v with
          tiles := v.tiles - n (8 * c + i) - (v.vbuf.filter (·.op == .tile)).length,
          vbuf := v.vbuf.filter (·.op != .tile) }) t
        (t.dropTiles c fun _ => true).modCore c fun v => { v with
          mask := none, maskNext := [] }) (s.cutQueues g.cores)
      let s := g.harvested.foldl (fun (t : State) c => t.modCore c fun v => { v with mask := none }) s
      let s := g.clusters.foldl (fun (t : State) cl => (t.settleAll cl).kick cl) s
      let s := s.stopWaiting region g
      let s := (List.range nFields).foldl (fun (t : State) f =>
        if g.fields.contains f then t.modField f fun d => { d with segments := d.segments - 1 } else t) s
      s.modRegion region fun g => { g with running := false })

/-- R294: a bound ember's rows go to an area of the spill list; none while the list is empty. -/
def State.spill (s : State) (k : Nat) : Option (Word × State) :=
  let v := s.slot k
  if !v.accHeld then some (0, s)
  else
    let r := (s.info v.ember).region
    match Tab.find? s.regions r with
    | none => none
    | some g => match g.spills with
      | [] => none
      | a :: rest =>
        let s := (List.range 32).foldl (fun (t : State) i =>
          t.hwWrite v.asid (a + BitVec.ofNat 64 (128 * i)) 128 (s.row k i).toNat) s
        some (a, ((s.dropLatch k).modRegion r fun g => { g with spills := rest }).modSlot k fun v => { v with accHeld := false })

/-- R295: pre-emption of a region waits until clk t; the time counts against its budget. -/
def State.spend (s : State) (r : Nat) (g : Region) (t : Nat) : State :=
  let spent := g.spent + (t - s.now)
  let s := s.modRegion r fun g => { g with spent := spent }
  if g.spent < g.budget ∧ g.budget ≤ spent then s.post t (.preemptBudgetExhausted r) else s

/-- R294: the slots of a region in the field of a slot that come before it, in the order of the cores and then of the slots,
and that have still to be pre-empted. One that no area is left for stays stopped where it is. -/
def State.beforeSlot (s : State) (g : Region) (slot : Nat) : List Nat :=
  ((g.cores.filter fun c => coreField c == slotField slot).flatMap fun c => (List.range 8).map (8 * c + ·)).takeWhile (· != slot)
    |>.filter fun k => (s.slot k).mode == .active || ((s.slot k).mode == .stopped && !(s.slot k).told)

/-- R294, R295: slot k of region r is pre-empted now, once every slot of its core has stopped at user level and it has drained;
`again` says that it has not. Without a spill or save area it stays stopped in place, and the field controller is told. -/
def State.preempt (s : State) (k : Nat) : Bool × State :=
  let v := s.slot k
  if v.mode ≠ .active ∧ v.mode ≠ .stopped then (false, s)
  else if (List.range 8).any fun i => (s.slot (8 * slotCore k + i)).mode == .active then (true, s)
  else if v.level ≠ .user ∨ !v.drained ∨ v.vbuf ≠ [] ∨ v.tiles ≠ 0 ∨ v.copies ≠ 0 ∨ v.rowPend ≠ [] ∨ s.reportComing k v.ember
  then (true, s)
  else (false, match s.takeSave v.ember with
    | none => s.tellShort k
    | some (area, s') => match s'.spill k with
      | none => s.tellShort k
      | some (sp, s') => (s'.writeFull k stStopped v.pc area sp).vacate k)

/-- R294, R295: the field controller pre-empts a region one slot at a time, in ascending order, up to the one that the event
names: the event acts on the first that is left, and comes again until none is. -/
def execPreemptSlot (slot : Nat) (s : State) : Out State :=
  if nSlots ≤ slot then .fault .noSuchUnit
  else .next (match s.regionOf (slotCore slot) with
    | none => s
    | some (r, g) =>
      let k := (s.beforeSlot g slot).headD slot
      let s := (List.range 8).foldl (fun (t : State) i => t.requestStop (8 * slotCore k + i) false) s
      let (again, s) := (s.stopWaiting r g).preempt k
      let next := s.nextIssue slot (s.now + 1)
      if again then (s.spend r g next).post next (.preemptSlot slot)
      else if k = slot then s else s.post s.now (.preemptSlot slot))

/-- R295, R300: the pre-emption budget of a region has run out, and the field controller reports it. -/
def execPreemptBudgetExhausted (region : Nat) (s : State) : Out State :=
  .next (match Tab.find? s.regions region with
  | none => s
  | some g => if g.spent < g.budget then s else s.errorRecord (coreField (g.cores.headD 0)) 9 0 g.owner g.asid 0 0 [])

/-! Owners and frames (R219, R220, R242). -/

/-- R220: a range of a storage unit is zero, with its tags, and no longer in error. -/
def State.clean (s : State) (base n : Nat) : State :=
  let out (a : Nat) : Bool := !(decide (base ≤ a) && decide (a < base + n))
  { s.zeroRange base n with bad := s.bad.filter out, soft := s.soft.filter out }

/-- R263: a unit of a cluster passes to another owner, and the cluster loses its tables. -/
def State.dropTables (s : State) (cl : Nat) (new : Bool) : State :=
  if new then s.modCluster cl fun v => { v with tables := [] } else s

/-- R220, R263: a storage unit passes to a new owner in one step, and is zeroed. Kinds: 0 the bank unit % 16 of the flue above
core unit / 16, 1 the slice of a core, 2 the answer-table slice of a cluster. Kind 3 is step 3 of R242: the frame at physical
address `unit`, 64 MiB if the address is odd, is zeroed and leaves the append table; its owner stays. Logs 7, 26. -/
def execOwnerChange (kind : BitVec 2) (unit : Nat) (owner : BitVec 8) (s : State) : Out State :=
  let ok := match kind.toNat with
    | 0 => decide (unit < 16 * nCores)
    | 1 => decide (unit < nCores)
    | 2 => decide (unit < nClusters)
    | _ => s.hasStorage unit
  if !ok then .fault .noSuchUnit
  else .next (match kind.toNat with
    | 0 =>
      let c := unit / 16
      let b := unit % 16
      let base := flueBase c + b * 2 ^ 24
      let s := s.modHome (2 * c + 1) fun h => { h with
        bankOwner := Tab.set h.bankOwner b owner, zeroing := if h.zeroing.contains b then h.zeroing else b :: h.zeroing,
        appends := h.appends.filter fun e => base + 2 ^ 24 ≤ e.1 || e.1 + (if e.2.big then 2 ^ 26 else 2 ^ 16) ≤ base }
      (s.clean base (2 ^ 24)).post (s.now + s.clk (coreField c) 1048576) (.zeroingDone kind unit)
    | 1 =>
      let base := sliceKey unit
      let s := (s.dropTables (coreCluster unit) ((s.core unit).sliceOwner != owner)).modCore unit fun v => { v with sliceOwner := owner, sliceZero := true }
      (s.clean base (2 ^ 19)).post (s.now + s.clk (coreField unit) 4096) (.zeroingDone kind unit)
    | 2 =>
      let s := (s.dropTables unit ((s.cluster unit).answers.owner != owner)).modAnswers unit fun a => { a with owner := owner, zero := true, entries := [], lru := [], cells := [] }
      s.post (s.now + s.clk (clusterField unit) 1024) (.zeroingDone kind unit)
    | _ =>
      let size := if unit % 2 = 1 then 2 ^ 26 else 2 ^ 16
      let frame := unit / size * size
      (s.clean frame size).modHome (keyHome frame) fun h => { h with appends := Tab.erase h.appends frame })

/-- R203: the rank at which an event that waited for zeroing is performed: an access of the vector unit to its own slice as
such, any other as it arrived. -/
def State.waitedRank (s : State) (i : Instr) : Nat :=
  if ((storageRequest i).bind s.flight?).any (·.near) then 2 else s.arrivalRank i

/-- R220, R246, R341: what waited for the zeroing of a unit is performed now, in the order of arrival and ahead of what has come
since; so is what waits behind a posted write of its port. -/
def State.resumeAll (s : State) (l : List Instr) : State :=
  let ports := s.module.writes.map (·.2)
  let s := s.modModule fun m => { m with writes := [] }
  [1, 2, 4].foldl (fun (t : State) r => t.postFront r ((l ++ ports).filter fun i => s.waitedRank i == r)) s

/-- R220, R326: zeroing is complete, and no row of a bank is open; the requests that waited for it are performed. -/
def execZeroingDone (kind : BitVec 2) (unit : Nat) (s : State) : Out State :=
  .next (
    let go (s : State) (l : List Instr) : State := s.resumeAll l
    match kind.toNat with
    | 0 =>
      let h := 2 * (unit / 16) + 1
      let b := unit % 16
      let waiting := ((s.home h).zeroHeld.filter (·.1 == b)).map (·.2)
      go (s.modHome h fun v => { v with
        zeroing := v.zeroing.filter (· != b), openRow := Tab.erase v.openRow b, zeroHeld := v.zeroHeld.filter (fun p => p.1 != b) }) waiting
    | 1 => go (s.modCore unit fun v => { v with sliceZero := false, sliceHeld := [] }) (s.core unit).sliceHeld
    | 2 => go (s.modAnswers unit fun a => { a with zero := false, zeroHeld := [] }) (s.cluster unit).answers.zeroHeld
    | _ => s)

/-! Heat, meters, relays (R222, R223, R319). -/

/-- R222: the temperature of bank b above a core. -/
def bankTemp (temps : BitVec 128) (b : Nat) : Nat := bits temps.toNat (8 * b) 8

/-- R222, R353: the bank belongs to the owner of the region of the core beneath it. -/
def State.ownBank (s : State) (core b : Nat) : Bool :=
  some (Tab.get (s.home (2 * core + 1)).bankOwner b 0) == (s.regionOf core).map (·.2.owner)

/-- R222: a reading of the sixteen banks above a core, one byte of °C each. -/
def execThermalReading (core : Nat) (temps : BitVec 128) (s : State) : Out State :=
  if nCores ≤ core then .fault .noSuchUnit
  else .next (
    let above (n : Nat) : Bool := (List.range 16).any fun b => !s.ownBank core b && decide (n < bankTemp temps b)
    s.modCore core fun c => { c with
      temps := temps,
      throttle := if above 95 then min 3 (c.throttle + 1) else if above 90 then c.throttle else c.throttle - 1 })

/-- R173, R223: a token has come for the next waiting request of a core, which enters the mesh once it needs no more of them;
one request leaves at a time. -/
def execMeterAdmit (unit : Nat) (s : State) : Out State :=
  if nCores ≤ unit then .fault .noSuchUnit
  else .next (
    let half := (s.field (coreField unit)).half
    let b := s.meterNow unit
    match b.waiting with
    | [] => s
    | id :: rest =>
      if b.clks half ≠ 0 then (s.modCore unit fun c => { c with meter := b }).post (s.now + b.clks half) (.meterAdmit unit)
      else
        let b := { b with waiting := rest, credit := if b.rate = 0 then b.credit else b.credit - 512 }
        let s := s.modCore unit fun c => { c with meter := b }
        let ready := if rest.contains id then none else s.flight? id
        let s := match ready with
          | some f => s.leaveInOrder id s.now f
          | none => s
        if rest = [] then s
        else s.post (s.now + max (b.clks half) (1 + (ready.map (·.flits)).getD 0)) (.meterAdmit unit))

/-- R319: a relay gateway takes a packet into its ring. -/
def execRelayAccept (flight : Nat) (s : State) : Out State :=
  .next (match s.flight? flight with
  | none => s
  | some f =>
    let g := coreField (s.module.boot.relayOf (if f.relayTo = f.dst then f.src else f.dst))
    (s.modField g fun d => { d with relay := d.relay ++ [flight] }).post (s.now + s.clk g 20) (.relayReinject g))

/-- R326: the flits behind the first one of a packet that a relay sends on. -/
def Flight.relayFlits (f : Flight) : Nat :=
  match f.next with
  | .loadReply _ => if f.op = opWindow then 95 else if f.op ≤ opDequant then extraFlits f.size else 0
  | _ => f.flits

/-- R319, R326: the relay gateway of a field sends on the oldest packet of its ring, flit behind flit. -/
def execRelayReinject (field : Nat) (s : State) : Out State :=
  if nFields ≤ field then .fault .noSuchUnit
  else .next (match (s.field field).relay with
    | [] => s
    | id :: rest =>
      let s := s.modField field fun d => { d with relay := rest }
      let g := s.module.boot.gateway field
      match s.flight? id with
      | none => s
      | some f => if s.refused g f.relayTo f.next then s
        else
          let t := max s.now (s.field field).relayAt + s.clk field f.relayFlits
          (s.modField field fun d => { d with relayAt := t + s.clk field 1 }).postRank (t + (s.travel g f.relayTo).getD 0)
            (s.arrivalRank f.next) f.next)

/-- R299: the kernel lifts the quarantine of a node. -/
def execQuarantineLift (field node : Nat) (s : State) : Out State :=
  if nFields ≤ field then .fault .noSuchUnit
  else .next (s.modField field fun d => { d with quarantine := d.quarantine.filter (· != node) })

/-! The fabric table (R327). -/

/-- R327: the bands: minimum and maximum field distance, minimum and maximum one-way latency. -/
def fabricBands : List (List Nat) :=
  [[0, 0, 6, 12], [0, 0, 6, 86], [1, 1, 18, 162], [2, 3, 32, 314], [4, 6, 88, 494], [7, 11, 172, 634]]

/-- R327: the contents of the fabric table: offset and doubleword. Log 54. -/
def State.fabricWords (s : State) : List (Nat × Word) :=
  (List.range nFields).map (fun f => (8 * f, if (s.field f).fenced then BitVec.ofNat 64 (2 ^ 63)
      else BitVec.ofNat 64 (s.field 0).zero - BitVec.ofNat 64 (s.field f).zero))
    ++ (List.range nFields).map (fun f => (0x200 + 8 * f, coreloc (8 * s.module.boot.gateway f)))
    ++ (List.range 24).map fun i => (0x400 + 8 * i, BitVec.ofNat 64 ((fabricBands.getD (i / 4) []).getD (i % 4) 0))

/-- R327: the field controllers write the fabric table, after a module reset, a restart and a fence. -/
def State.writeFabric (s : State) : State :=
  s.fabricWords.foldl (fun (t : State) p => t.ownWrite (t.module.boot.fabric / 2 ^ 16 * 2 ^ 16 + p.1) 8 p.2.toNat) s

/-! Failures of a field (R302, R303). -/

/-- The flight whose arrival an event is, if it is a request that a fenced field refuses. -/
def requestOf : Instr → Option Nat
  | .farLoadAtHome f | .farStoreAtHome f | .atomicAtHome f | .versionedLoadAtHome f | .versionedStoreAtHome f
  | .appendAtHome f | .sealAtHome f | .tcallAtHome f | .tlookAtHome f | .publicationAtHome f | .groupOpenAtHome f
  | .groupCloseAtHome f | .groupDropAtHome f | .messageArrival f | .dispenserItemArrival f | .vrclAtHome f
  | .groupReport f | .probeQuestion f | .producerKillAtHome f | .collContribution f | .collPartialAtRoot f
  | .collResultDelivery f => some f
  | _ => none

/-- R119, R303: the field that writes the record of a fence: that of the master whom the survivors of a region elect, or else
the lowest live field. -/
def State.masterOf (s : State) (f : Nat) : Nat :=
  let live (l : List Nat) : Option Nat := l.find? fun g => !(s.field g).fenced
  ((s.regions.findSome? fun p => if p.2.running ∧ p.2.cores.any (fun c => coreField c == f) then
      (s.liveFields p.2).head? else none).orElse fun _ => live (List.range nFields)).getD f

/-- R324: a route's path leads through a field. -/
def Boot.routeMeets (b : Boot) (c f : Nat) (e : Word) : Bool :=
  ((entryPath b (routeLegs e) (coreX c) (coreY c)).getD []).any fun p => (coreAt p.1 p.2).any fun x => coreField x == f

/-- R324: the kernel invalidates the routes through a field that is fenced. FATAL_ERROR names no router: the model takes every
router of the field for marked. DESIGN CHOICE, log 65. -/
def State.dropRoutes (s : State) (f : Nat) : State :=
  { s with cores := s.cores.map fun p => (p.1, { p.2 with
      routes := p.2.routes.filter fun r => !s.module.boot.routeMeets p.1 f r.2 }) }

/-- R303, R119, R324, R329: a field is fenced: its slots stop, its ports refuse traffic, the distributors re-elect, and the
kernel masks its cores and drops the routes through it. -/
def State.fenceField (s : State) (f : Nat) : State :=
  if (s.field f).fenced then s
  else
    let s := s.modField f fun d => { d with fenced := true }
    let lost (e : Nat × Instr) : Bool := (requestOf e.2).any fun id => (s.flight? id).any fun x => coreField x.dst == f
    let halt (p : Nat × Slot) : Nat × Slot :=
      if slotField p.1 = f ∧ (p.2.mode = .active ∨ p.2.mode = .stopped) then (p.1, { p.2 with mode := .stopped, due := none }) else p
    let s := (State.dropRoutes { s with agenda := s.agenda.filter (!lost ·), slots := s.slots.map halt } f).writeFabric
    let s := s.errorRecord (s.masterOf f) 11 7 0 0 (coreloc (8 * s.module.boot.gateway f)) 0 []
    let (d, s) := s.openTime
    let s := s.post (s.now + d % 4096) (.masterReelection f)
    let cores := (s.regions.map fun p => if p.2.running then p.2.cores.filter (fun c => coreField c == f) else []).flatten
    cores.foldl (fun (t : State) c => t.post (t.now + d % 4096) (.barrierMaskSet c)) s

/-- R296, R303, R320: a fatal error. -/
def execFatalError (field : Nat) (s : State) : Out State :=
  if nFields ≤ field then .fault .noSuchUnit else .next (s.fenceField field)

/-- R302, R303: the two cores of a field controller differ. -/
def execLockstepMismatch (field : Nat) (s : State) : Out State :=
  if nFields ≤ field then .fault .noSuchUnit
  else .next (
    let again := (s.field field).lastMismatch.any fun t => decide (s.now - t ≤ 2 ^ 32)
    let s := s.errorRecord field 10 6 0 0 (coreloc (8 * s.module.boot.gateway field)) 0 []
    let s := s.modField field fun d => { d with lastMismatch := some s.now, frozen := true }
    if again then s.fenceField field
    else
      let (d, s) := s.openTime
      s.post (s.now + 1 + d % 4000000) (.firmwareRestart field))

/-- R302, R327: dispatch resumes: double faults and expiries that waited are delivered, slots take up embers, and dispensers
hand over items. -/
def execFirmwareRestart (field : Nat) (s : State) : Out State :=
  if nFields ≤ field then .fault .noSuchUnit
  else .next (
    if !(s.field field).frozen then s
    else
      let d := s.field field
      let s := s.modField field fun d => { d with frozen := false, expired := [], faults := [] }
      let s := d.faults.foldl (fun (t : State) p => t.slotRecord p.1 6 0 p.2) s
      let s := d.expired.foldl (fun (t : State) x => t.expire field x) s.writeFabric
      let cls := (s.clusters.map (·.1)).filter fun cl => clusterField cl == field
      let s := cls.foldl (fun (t : State) cl => t.dispense cl) s
      ((s.cores.map (·.1)).filter fun c => coreField c == field).foldl (fun (t : State) c => t.offer c) s)

end Sys2Proof.Machine
end

