-- ==== Sys2Proof/Machine/Tabled.lean ====
section
/-! DEFINITION. Tabled calls and the answer table (spec/08, R175 to R198; R298). -/

namespace Sys2Proof.Machine

/-! Keys and homes (R175 to R179, R183). -/

/-- R176: the hash of a key. -/
def keyHash (g : Nat) (v : Word) (args : List Word) : Nat :=
  let h := (v :: BitVec.ofNat 64 args.length :: args).foldl
    (fun (h : Word) w => (h ^^^ w) * 0x9E3779B97F4A7C15) (BitVec.ofNat 64 g)
  (h ^^^ (h >>> 29)).toNat

/-- R176: the cluster of the home slice of a key. -/
def State.keySlice (s : State) (v : Group) (h : Nat) : Option Nat :=
  (Tab.find? s.regions v.region).bind fun r => r.clusters[h % r.clusters.length]?

/-- R179: the handle of an entry. -/
def handleOf (cl idx : Nat) (a : Answer) : Word :=
  BitVec.ofNat 64 (a.group * 2 ^ 48 + clusterField cl * 2 ^ 42 + cl % 16 * 2 ^ 38 + cl / 16 % 8 * 2 ^ 35 + idx * 2 ^ 22
    + a.serial % 65536)

/-- R179, R186: the cluster of a handle's slice; none where it names no slice. -/
def handleCluster (h : Word) : Option Nat :=
  let n := h.toNat
  if bits n 16 6 ≠ 0 ∨ nFields ≤ bits n 42 6 then none
  else some (128 * bits n 42 6 + 16 * bits n 35 3 + bits n 38 4)

/-- R183: the clk of a reply back to the core. -/
def State.backClk (s : State) (cl dst : Nat) : Nat :=
  if coreCluster dst = cl then s.clk (coreField dst) 4 else s.pathClk (s.module.boot.hub cl) dst

/-- R223: a tabled-call or group request leaves its core with a token, or waits for one. -/
def State.askHome (s : State) (cl : Nat) (mk : Nat → Instr) (f : Flight) : State :=
  let s := s.issued s.cur
  let d := s.homeClk f.src cl
  ((s.request mk { f with dst := s.module.boot.hub cl, aux := cl, via := some d }).2).await .message

/-- The flight of a request of the current slot to a home unit. -/
def State.homeFlight (s : State) (va : Word) : Flight := s.flightOf va 0

/-! Replies (in `Flight.cause`). -/
def ansCreated : Nat := 0
def ansDone : Nat := 1
def ansFailed : Nat := 2
def ansOwn : Nat := 3
def ansListed : Nat := 4
def ansBypass : Nat := 5
/-- Writes `data` to rd and goes on. -/
def ansValue : Nat := 6
/-- A publication is over: `tstatus` ← args, PC ← va. -/
def ansPublished : Nat := 7
/-- The instruction is over. -/
def ansOver : Nat := 8
/-- The slice is of another owner: a precise trap (R219). -/
def ansRefused : Nat := 9

/-- R183: the home's reply to flight id leaves at clk t. -/
def State.answerAt (s : State) (id t : Nat) (cl : Nat) (f : Flight) : State :=
  { s with flights := Tab.set s.flights id { f with next := .tcallReply id } }.post (t + s.backClk cl f.src) (.tcallReply id)

/-- R183, R186, R188: the issuing cluster replies itself, under the 16-clk rule. -/
def State.answerHere (s : State) (f : Flight) : State :=
  let s := s.issued s.cur
  let (id, s) := s.register .tcallReply f
  (s.await .message).post (s.now + s.clk (coreField f.src) 14) (.tcallReply id)

/-! tcall and tlook. -/

/-- R175: the argument registers of a key. -/
def State.keyArgs (s : State) (n : Nat) : List Word := (List.range n).map fun i => s.me.xr (10 + i)

/-- R181: the plain call of a bypass. -/
def State.bypass (s : State) (v : Word) : State :=
  let pc := s.me.pc
  (s.modMe fun x => { (x.setX 31 0).setX 1 (pc + 4) with tstatus := 3 }).jump v

/-- R181: the checks of a callee address. -/
def State.checkCallee (s : State) (v : Word) (next : State → State) : State :=
  if v.toNat / 2 ^ 55 ≠ 0 then s.trap 0x14 v else if v.toNat % 4 ≠ 0 then s.trap 0x02 v else next s

/-- R181: tcall. -/
def execTcall (rs1 n : BitVec 5) (s : State) : Out State :=
  let v := s.x rs1
  .next (s.userOnly fun s => s.checkCallee v fun s =>
    let g := s.me.tgroup.toNat
    match Tab.find? s.groups g with
    | none => s.bypass v
    | some e =>
      if e.owner ≠ s.me.owner then s.trap 0x10 (BitVec.ofNat 64 g)
      else
        let args := s.keyArgs n.toNat
        match s.keySlice e (keyHash g v args) with
        | none => s.bypass v
        | some cl => s.askHome cl .tcallAtHome { s.homeFlight v with key := g, args := args })

/-- R187: tlook. -/
def execTlook (rd rs1 n : BitVec 5) (s : State) : Out State :=
  let v := s.x rs1
  .next (s.checkCallee v fun s =>
    let g := s.me.tgroup.toNat
    match Tab.find? s.groups g with
    | none => (s.setX rd 4).retire
    | some e =>
      if e.owner ≠ s.me.owner then s.trap 0x10 (BitVec.ofNat 64 g)
      else
        let args := s.keyArgs n.toNat
        match s.keySlice e (keyHash g v args) with
        | none => (s.setX rd 4).retire
        | some cl => s.askHome cl .tlookAtHome { s.homeFlight v with key := g, args := args, rd := rd.toNat, op := 1 })

/-! The slice. -/

/-- R178: the entry with a key. -/
def Slice.find (a : Slice) (g : Nat) (v : Word) (args : List Word) : Option (Nat × Answer) :=
  List.find? (fun (p : Nat × Answer) => p.2.group == g && p.2.callee == v && p.2.args == args) a.entries

/-- The lowest index from i on that no key of a rising table holds. -/
def lowestFree {α : Type} (t : Tab α) (i : Nat) : Nat :=
  t.foldl (fun i p => if p.1 = i then i + 1 else i) i

def Answer.pinned (a : Answer) : Bool := a.state == .producing || a.state == .held

/-- R182: consumer cells in use. -/
def Slice.cellsUsed (a : Slice) : Nat := (a.entries.map (·.2.consumers.length)).sum + a.cells.length

/-- R182: an entry becomes the most recently used. -/
def Slice.touch (a : Slice) (i : Nat) : Slice := { a with lru := i :: a.lru.filter (· != i) }

/-- R193: the words of a backing-table entry. -/
def Answer.words (a : Answer) : List Word :=
  let failed := a.state == .failed
  [BitVec.ofNat 64 (2 ^ 63 + (if failed then 2 ^ 62 else 0) + a.args.length * 2 ^ 59 + (if failed then a.code * 2 ^ 56 else 0)
      + a.reason.toNat * 2 ^ 48 + a.group), a.callee]
    ++ (a.args ++ List.replicate 4 0).take 4 ++ (if failed then [0, 0] else [a.a0, a.a1])

/-- The address of a backing-table entry. -/
def Group.entryAt (g : Group) (h : Nat) : Word := g.table + BitVec.ofNat 64 (64 * (h % g.size))

/-- R188: the place of a backing-table entry, to be written or read; none where its translation meets a fault. -/
def State.backingLeaf (s : State) (g : Group) (h : Nat) (write : Bool) : Option (Nat × TlbEntry) :=
  let va := g.entryAt h
  if !translated va then none
  else (s.asidRoot g.asid.toNat g.owner).bind fun root => match s.walk g.asid.toNat root va with
    | .leaf t =>
      if (if write then leafW t.leaf else leafR t.leaf) && leafClass t.leaf = 1 && s.ownerOk (t.key va) g.owner false
        && !s.fencedKey (t.key va)
      then some (t.key va, t) else none
    | _ => none

/-- R188, R193: the storage key of a backing-table entry, to be written or read; none where the access meets a fault. -/
def State.backingKey (s : State) (g : Group) (h : Nat) (write : Bool) : Option (Nat × TlbEntry) :=
  (s.backingLeaf g h write).filter fun p => (s.badWord p.1 64).isNone

/-- R188: a fault that a backing-table access meets is reported to the field controller of the slice. -/
def State.backFault (s : State) (cl : Nat) (g : Group) (h : Nat) : State :=
  s.modField (clusterField cl) fun d => { d with backFaults := d.backFaults ++ [g.entryAt h] }

/-- R192, R193: an evicted entry goes to its group's backing table, or is dropped. -/
def State.writeBacking (s : State) (cl : Nat) (a : Answer) : State :=
  match Tab.find? s.groups a.group with
  | none => s
  | some g =>
    if g.table = 0 ∨ g.state = .sealed then s
    else
      let h := keyHash a.group a.callee a.args
      let s := s.noteWalk g.asid (g.entryAt h)
      match s.backingKey g h true with
      | none => s.backFault cl g h
      | some (key, t) =>
        if leafSealed t.leaf then s
        else if s.zeroing key then s.writeLater g.owner key 64 (rowOfWords a.words).toNat
        else ((List.range 8).zip a.words).foldl (fun t p => t.ownWrite (key + 8 * p.1) 8 p.2.toNat) s

/-- R182, R192: an index for a new entry, with the entry that stood there evicted; none where every entry is pinned. -/
def State.makeRoom (s : State) (cl : Nat) : Option (Nat × State) :=
  let a := (s.cluster cl).answers
  if a.entries.length < 8192 then some (lowestFree a.entries 0, s)
  else match a.lru.reverse.find? (fun i => (Tab.find? a.entries i).any (!·.pinned)) with
    | none => none
    | some i => match Tab.find? a.entries i with
      | none => none
      | some e => some (i, (s.writeBacking cl e).modAnswers cl fun a =>
          { a with entries := Tab.erase a.entries i, lru := a.lru.filter (· != i) })

/-- R184: serves the consumers of an entry, oldest first: one cell is written per clk, and its ember resumes then. -/
def State.serveConsumers (s : State) (cl idx : Nat) (c : Cell) : State :=
  match Tab.find? (s.cluster cl).answers.entries idx with
  | none => s
  | some e =>
    let s := s.modAnswers cl fun a => { a with
      entries := Tab.set a.entries idx { e with consumers := [] },
      cells := ((List.range e.consumers.length).zip e.consumers).foldl
        (fun t p => Tab.set t p.2 { c with at_ := s.now + s.clk (clusterField cl) p.1 }) a.cells }
    let s := e.consumers.foldl (fun t x => t.tellGroup cl e.group repUnlisted x) s
    ((List.range e.consumers.length).zip e.consumers).foldl
      (fun t p => t.post (t.now + t.clk (clusterField cl) p.1) (.consumerResume cl p.2)) s

/-- Frees an entry. -/
def State.freeEntry (s : State) (cl i : Nat) : State :=
  s.modAnswers cl fun a => { a with entries := Tab.erase a.entries i, lru := a.lru.filter (· != i) }

/-- R197: an entry whose producer, or the ember it is held for, has died. -/
def State.killEntry (s : State) (cl i : Nat) (x : Answer) (e : Nat) : State :=
  let kills := x.kills + 1
  let put (v : Answer) (s : State) : State := s.modAnswers cl fun a => { a with entries := Tab.set a.entries i v }
  if kills = 2 then
    let s := put { x with state := .failed, reason := 0, code := 6, kills := kills, heldFor := 0 } s
    (s.serveConsumers cl i ⟨6, 0, none, 0⟩).tellGroup cl x.group repPublished e
  else match x.consumers with
    | [] => (s.freeEntry cl i).tellGroup cl x.group repFreed e
    | c :: rest =>
      let s := put { x with state := .held, heldFor := c, producer := 0, kills := kills, consumers := rest } s
      let s := ((s.tellGroup cl x.group repHeld e).tellGroup cl x.group repUnlisted c).retryCell cl
      match s.slotOf c with
      | some k =>
        let v := s.slot k
        if v.leaving then s.modSlot k fun v => { v with park := none }
        else if v.park.isSome then (s.modSlot k fun v => { v with park := none }).wakeAt k (s.now + 1) else s
      | none => if (s.info c).queued then s else (s.modInfo c fun i => { i with park := none }).makeReady c

/-- R182: the places of a slice for consumers. -/
def cellCount : Nat := 16384

/-- R182: request id may take a consumer cell: one is free for it behind the requests held before it. -/
def Slice.cellRoom (a : Slice) (id : Nat) : Bool :=
  decide ((a.held.findIdx? (· == id)).getD a.held.length + a.cellsUsed < cellCount)

/-- R182: the request is held for a cell no more; the next one is judged if a cell is free. -/
def State.unholdCell (s : State) (cl id : Nat) : State :=
  if (s.cluster cl).answers.held.contains id then
    let s := s.modAnswers cl fun a => { a with held := a.held.filter (· != id) }
    if (s.cluster cl).answers.cellsUsed < cellCount then s.retryCell cl else s
  else s

/-- R182: what a home does with a `tcall` or a `tlook` (`op` = 1) once the backing table has been consulted. A call whose
ember has died since creates an entry whose producer is dead (R197, R255), and takes no place in a list. -/
def State.performCall (s : State) (id : Nat) (f : Flight) (g : Group) : State :=
  let cl := f.aux
  let a := (s.cluster cl).answers
  let e := f.ember
  let answer (s : State) (t : Nat) (c : Nat) (f : Flight) : State := (s.answerAt id t cl { f with cause := c }).unholdCell cl id
  let s := match a.find f.key f.va f.args with
    | some (i, _) => s.correct (clusterField cl) (7 * nCores + cl) (8 * s.module.boot.hub cl) (softEntry cl i)
    | none => s
  if f.op = 1 then
    answer s s.now ansValue { f with data := BitVec.ofNat 1024 (match a.find f.key f.va f.args with
      | none => 0
      | some (_, x) => match x.state with
        | .producing | .held => 1
        | .done => 2
        | .failed => 3 + x.reason.toNat * 256) }
  else match a.find f.key f.va f.args with
  | none =>
    if g.state ≠ .opened then answer s s.now ansBypass f
    else match s.makeRoom cl with
      | none => answer s s.now ansBypass f
      | some (i, s) =>
        let a := (s.cluster cl).answers
        let x : Answer := {
          group := f.key, callee := f.va, args := f.args, state := .producing, producer := e,
          serial := (a.serial + 1) % 65536 }
        let s := s.modAnswers cl fun a =>
          ({ a with entries := Tab.set a.entries i x, serial := (a.serial + 1) % 65536 }).touch i
        let s := s.tellGroup cl f.key repCreated e
        if f.dead then ((s.killEntry cl i x e).land id).unholdCell cl id
        else
        -- the report and its acknowledgement (R182)
        let wait := match s.groupHome g with
          | some h => if h = cl then 0 else 2 * s.pathClk (s.module.boot.hub cl) (s.module.boot.hub h)
          | none => 0
        answer s (s.now + wait) ansCreated { f with data := (handleOf cl i x).setWidth 1024 }
  | some (i, x) =>
    let s := s.modAnswers cl (·.touch i)
    let here (v : Answer) (s : State) : State := s.modAnswers cl fun a => { a with entries := Tab.set a.entries i v }
    match x.state with
    | .done => answer s s.now ansDone { f with args := [x.a0, x.a1] }
    | .failed => answer s s.now ansFailed { f with args := [BitVec.ofNat 64 (x.reason.toNat * 256 + x.code)] }
    | .producing | .held =>
      if f.dead then (s.land id).unholdCell cl id
      else if x.state = .producing ∧ x.producer = e then answer s s.now ansOwn f
      else if x.state = .held ∧ x.heldFor = e then
        let x := { x with state := .producing, producer := e, heldFor := 0 }
        answer ((here x s).tellGroup cl f.key repTaken e) s.now ansCreated { f with data := (handleOf cl i x).setWidth 1024 }
      else if !a.cellRoom id then
        if a.held.contains id then s else s.modAnswers cl fun a => { a with held := a.held ++ [id] }
      else
        let s := (here { x with consumers := x.consumers ++ [e] } s).tellGroup cl f.key repListed e
        answer s s.now ansListed { f with data := (handleOf cl i x).setWidth 1024 }

/-- R182, R219, R220: a slice performs its requests one at a time in the order of arrival: one that arrives behind a
backing-table read waits. One of an owner other than the slice's fails at once, with a trap that names `val`. -/
def State.inTurn (s : State) (cl id : Nat) (f : Flight) (val : Word) (i : Instr) (next : State → State) : State :=
  if (s.cluster cl).answers.owner ≠ f.owner then
    (s.answerAt id s.now cl { f with cause := ansRefused, tval := val }).unholdCell cl id
  else if (s.cluster cl).answers.zero then s.modAnswers cl fun a => { a with zeroHeld := a.zeroHeld ++ [i] }
  else if (s.cluster cl).answers.reading.isSome then s.modAnswers cl fun a => { a with queue := a.queue ++ [i] }
  else next s

/-- R182, R187, R220: a request at its home that has not been answered; a miss in a group with a backing table reads the
table first. -/
def State.callAtHome (s : State) (id : Nat) (mk : Nat → Instr) : State :=
  match s.flight? id with
  | none => s
  | some f =>
    let cl := f.aux
    if f.next ≠ mk id then s
    else s.inTurn cl id f (BitVec.ofNat 64 f.key) (mk id) fun s => match Tab.find? s.groups f.key with
      | none => (s.answerAt id s.now cl
          (if f.op = 1 then { f with cause := ansValue, data := 4 } else { f with cause := ansBypass })).unholdCell cl id
      | some g =>
        let h := keyHash f.key f.va f.args
        if ((s.cluster cl).answers.find f.key f.va f.args).isNone ∧ g.table ≠ 0 then
          let s := s.noteWalk g.asid (g.entryAt h)
          match s.backingKey g h false with
          | none => (s.backFault cl g h).performCall id f g
          | some (key, e) =>
            let hub := s.module.boot.hub cl
            let (t, s) := (s.countReplica (clusterField cl) e.leaf).farClk hub key 64
            let s := s.modAnswers cl fun a => { a with reading := some id }
            if s.zeroing key then s.holdZero key (.backingTableLookup id) else s.post (s.now + t) (.backingTableLookup id)
        else s.performCall id f g

/-- R182. -/
def execTcallAtHome (flight : Nat) (s : State) : Out State := .next (s.callAtHome flight .tcallAtHome)
/-- R187. -/
def execTlookAtHome (flight : Nat) (s : State) : Out State := .next (s.callAtHome flight .tlookAtHome)

/-- R193: an entry read back from the backing table. -/
def answerOf (g : Nat) (v : Word) (args : List Word) (ws : List Word) (serial : Nat) : Option Answer :=
  let w0 := (ws.getD 0 0).toNat
  let n := bits w0 59 3
  if w0 / 2 ^ 63 = 1 ∧ w0 % 65536 = g ∧ n = args.length ∧ ws.getD 1 0 = v ∧ (ws.drop 2).take n = args then
    let failed := bits w0 62 1 == 1
    some { group := g, callee := v, args := args, state := if failed then .failed else .done, producer := 0,
           a0 := ws.getD 6 0, a1 := ws.getD 7 0, reason := BitVec.ofNat 8 (w0 / 2 ^ 48), code := bits w0 56 3, serial := serial }
  else none

/-- R184: a consumer cell's writes. -/
def Slot.takeCell (v : Slot) (c : Cell) : Slot :=
  let v := match c.answer with
    | some (a0, a1) => (v.setX 10 a0).setX 11 a1
    | none => v
  { v with tstatus := BitVec.ofNat 64 (c.reason.toNat * 256 + c.out) }

/-- R184: a consumer's cell has been written: a resident one reads it, one out of its slot is made ready. -/
def execConsumerResume (cluster ember : Nat) (s : State) : Out State :=
  if nClusters ≤ cluster then .fault .noSuchUnit
  else .next (match Tab.find? (s.cluster cluster).answers.cells ember with
    | none => s
    | some c =>
      if s.now < c.at_ then s
      else match s.slotOf ember with
      | some k =>
        let v := s.slot k
        match v.park with
        | none => s
        | some p =>
          if v.leaving then s.modSlot k fun v => { v with park := some { p with met := true } }
          else if s.now = c.at_ ∨ s.nextIssue k s.now ≠ s.now then
            -- the slot reads its cell at its first issue cycle after the write
            (s.modSlot k fun v => { v with park := some { p with met := true } }).post (s.nextIssue k (s.now + 1))
              (.consumerResume cluster ember)
          else
            let s := (s.modAnswers cluster fun a => { a with cells := Tab.erase a.cells ember }).retryCell cluster
            (s.modSlot k (·.takeCell c)).completeAt k (v.pc + 4) s.now
      | none =>
        if (s.info ember).park.isSome ∧ !(s.info ember).queued then (s.meet ember).makeReady ember else s)

/-- R181, R186, R187: the home's reply reaches the calling slot. -/
def execTcallReply (flight : Nat) (s : State) : Out State :=
  .next (match s.flight? flight with
  | none => s
  | some f =>
    let s := s.land flight
    let k := f.slot
    let v := s.slot k
    let pc := v.pc
    let w : Word := f.data.setWidth 64
    let s := match f.cause with
      | 0 => s.count k 15 1
      | 1 => s.count k 14 1
      | 4 => s.count k 16 1
      | _ => s
    let go (g : Slot → Slot) (pc' : Word) : State := (s.modSlot k g).completeAt k pc' s.now
    if v.ember ≠ f.ember ∨ f.ember = 0 ∨ f.dead then s
    else match f.cause with
    | 0 => go (fun v => { (v.setX 31 w).setX 1 (pc + 4) with tstatus := 0 }) f.va
    | 1 => go (fun v => { (v.setX 10 (f.args.getD 0 0)).setX 11 (f.args.getD 1 0) with tstatus := 1 }) (pc + 4)
    | 2 => go (fun v => { v with tstatus := f.args.getD 0 0 }) (pc + 4)
    | 3 => go (fun v => { v with tstatus := 4 }) (pc + 4)
    | 4 =>
      let s := s.beginPark k (.answer w f.aux)
      let s := s.modSlot k fun v => { v with wait := .message, due := none }
      match Tab.find? (s.cluster f.aux).answers.cells f.ember with
      | some c => s.post (max s.now c.at_) (.consumerResume f.aux f.ember)
      | none =>
        if (s.cluster f.aux).answers.entries.any (fun p => p.2.consumers.contains f.ember) then
          (if v.bound then s.seat k else s.suspend k).stopIfAsked k
        else s.wakeAt k (s.now + 1)          -- unlisted meanwhile (R197): executes again
    | 5 => go (fun v => { (v.setX 31 0).setX 1 (pc + 4) with tstatus := 3 }) f.va
    | 6 => go (fun v => v.setX f.rd w) (pc + 4)
    | 7 => go (fun v => match f.args with
        | [t] => { v with tstatus := t }
        | _ => v) f.va
    | 9 => (s.modSlot k fun v => { v with park := none }).trapLater k 0x10 f.tval
    | _ => go id (pc + 4))

/-! tret and tfail (R186). -/

/-- R186: `tret` (reason none) or `tfail`. -/
def State.publish (s : State) (hd : Word) (reason : Option (BitVec 8)) : State :=
  s.userOnly fun s =>
    let target := s.me.xr 1 &&& ~~~ 1
    let failed : List Word := match reason with
      | some r => [BitVec.ofNat 64 (r.toNat * 256 + 7)]
      | none => []
    let finish (s : State) : State := (s.modMe fun v => match failed with
      | [t] => { v with tstatus := t }
      | _ => v).jump target
    if target.getLsbD 1 then s.trap 0x02 target
    else if hd = 0 then finish s
    else match handleCluster hd with
      | none => s.answerHere { s.homeFlight target with cause := ansPublished, args := [5] }
      | some cl =>
        if (s.cluster cl).answers.owner ≠ s.me.owner then s.trap 0x10 hd
        else s.release fun s =>
          s.askHome cl .publicationAtHome { s.homeFlight target with
            tval := hd, op := if reason.isSome then 1 else 0,
            args := [s.me.xr 10, s.me.xr 11, BitVec.ofNat 64 ((reason.getD 0).toNat)] }

/-- R186: tret. -/
def execTret (rs1 : Reg) (s : State) : Out State := .next (s.publish (s.x rs1) none)
/-- R186: tfail. -/
def execTfail (rs1 rs2 : Reg) (s : State) : Out State := .next (s.publish (s.x rs1) (some ((s.x rs2).setWidth 8)))

/-- R186: the home publishes, or replies stale. -/
def State.publishAtHome (s : State) (flight : Nat) : State :=
  match s.flight? flight with
  | none => s
  | some f =>
    let cl := f.aux
    let a := (s.cluster cl).answers
    let h := f.tval.toNat
    let i := bits h 22 13
    let reason : BitVec 8 := (f.args.getD 2 0).setWidth 8
    let fin (s : State) (st : List Word) : State := s.answerAt flight s.now cl { f with cause := ansPublished, args := st }
    s.inTurn cl flight f f.tval (.publicationAtHome flight) fun s => match Tab.find? a.entries i with
    | none => fin s [5]
    | some e =>
      if e.state ≠ .producing ∨ e.group ≠ bits h 48 16 ∨ e.serial ≠ h % 65536 ∨ e.producer ≠ f.ember then fin s [5]
      else
        let p := e.producer
        let e' := if f.op = 0 then { e with state := .done, a0 := f.args.getD 0 0, a1 := f.args.getD 1 0 }
          else { e with state := .failed, reason := reason, code := 7 }
        let s := s.modAnswers cl fun a => { a with entries := Tab.set a.entries i e' }
        let s := s.serveConsumers cl i (if f.op = 0 then ⟨2, 0, some (e'.a0, e'.a1), 0⟩ else ⟨7, reason, none, 0⟩)
        fin (s.tellGroup cl e.group repPublished p)
          (if f.op = 0 then [] else [BitVec.ofNat 64 (reason.toNat * 256 + 7)])

/-- R186. -/
def execPublicationAtHome (flight : Nat) (s : State) : Out State := .next (s.publishAtHome flight)

/-- R182: the requests that came behind a backing-table read are performed in their order, up to one that reads itself. -/
def State.drainSlice (s : State) (cl : Nat) : Nat → State
  | 0 => s
  | n + 1 =>
    if (s.cluster cl).answers.reading.isSome then s
    else match (s.cluster cl).answers.queue with
      | [] => s
      | i :: rest =>
        let s := s.modAnswers cl fun a => { a with queue := rest }
        (match i with
          | .tcallAtHome id => s.callAtHome id .tcallAtHome
          | .tlookAtHome id => s.callAtHome id .tlookAtHome
          | .publicationAtHome id => s.publishAtHome id
          | _ => s).drainSlice cl n

/-- R193: the home's read of the backing table returns; a match is entered, and the request is performed, then those
behind it. Three points are open: the model counts the entry as a creation for R179's serial, and makes it most recently
used also for a `tlook`, of which R187 says only that it does not update the order; and where every entry of the slice is
pinned it enters nothing, so that a `tcall` is answered bypass and a `tlook` absent. DESIGN CHOICE, log 60. -/
def execBackingTableLookup (flight : Nat) (s : State) : Out State :=
  .next (match s.flight? flight with
  | none => s
  | some f =>
    let cl := f.aux
    let done (s : State) : State := s.drainSlice cl (s.cluster cl).answers.queue.length
    let s := s.modAnswers cl fun a => { a with reading := none }
    if (s.cluster cl).answers.owner ≠ f.owner then
      done ((s.answerAt flight s.now cl { f with cause := ansRefused, tval := BitVec.ofNat 64 f.key }).unholdCell cl flight)
    else match Tab.find? s.groups f.key with
    | none => done ((s.answerAt flight s.now cl
        (if f.op = 1 then { f with cause := ansValue, data := 4 } else { f with cause := ansBypass })).unholdCell cl flight)
    | some g =>
      let h := keyHash f.key f.va f.args
      let s := match s.backingKey g h false with
        | none => s.backFault cl g h
        | some (key, _) =>
          let s := s.scrub key 64
          let ws := (List.range 8).map fun i => s.read64 (key + 8 * i)
          if ((s.cluster cl).answers.find f.key f.va f.args).isSome then s
          else match answerOf f.key f.va f.args ws (((s.cluster cl).answers.serial + 1) % 65536) with
            | none => s
            | some x => match s.makeRoom cl with
              | none => s
              | some (i, s) => s.modAnswers cl fun a =>
                  ({ a with entries := Tab.set a.entries i x, serial := (a.serial + 1) % 65536 }).touch i
      done (s.performCall flight f g))

/-! Producer death and entry errors (R197, R298). -/

/-- R197: a producer's death, at a slice. -/
def execProducerKillAtHome (flight : Nat) (s : State) : Out State :=
  .next (match s.flight? flight with
  | none => s
  | some f =>
    let mine := (s.cluster f.aux).answers.entries.filter fun p =>
      (p.2.state == .producing && p.2.producer == f.ember) || (p.2.state == .held && p.2.heldFor == f.ember)
    mine.foldl (fun t p => t.killEntry f.aux p.1 p.2 f.ember) (s.land flight))

/-- R298: an uncorrectable entry. Whether its key can be read is an input (log 14). -/
def execAnswerEntryError (cluster index : Nat) (s : State) : Out State :=
  if nClusters ≤ cluster ∨ 8192 ≤ index then .fault .noSuchUnit
  else .next (match Tab.find? (s.cluster cluster).answers.entries index with
    | none => s
    | some x =>
      let s := s.errorRecord (clusterField cluster) 7 0 (s.cluster cluster).answers.owner 0 (coreloc (8 * s.module.boot.hub cluster)) 0 []
      if x.keyBad then
        let s := (s.serveConsumers cluster index ⟨6, 0, none, 0⟩).freeEntry cluster index
        s.tellGroup cluster x.group (if x.pinned then repFreed else repLost) x.producer
      else if x.pinned then
        let s := s.modAnswers cluster fun a => { a with
          entries := Tab.set a.entries index { x with state := .failed, reason := 0, code := 6, heldFor := 0 } }
        (s.serveConsumers cluster index ⟨6, 0, none, 0⟩).tellGroup cluster x.group repPublished x.producer
      else (s.freeEntry cluster index).tellGroup cluster x.group repLost 0)

/-! Groups (R188 to R195). -/

/-- R188: tgopen. -/
def execTgopen (rd rs1 rs2 : Reg) (s : State) : Out State :=
  .next (s.withBlock (s.x rs1) 4 fun s ws =>
    let r := s.x rs2
    let w0 := ws.getD 0 0; let w1 := ws.getD 1 0; let w2 := (ws.getD 2 0).toNat
    let code (v : Int) : State :=
      s.answerHere { s.homeFlight 0 with cause := ansValue, rd := rd.toNat, data := (BitVec.ofInt 64 v).setWidth 1024 }
    if r.toNat / 65536 ≠ 0 ∨ ws.getD 3 0 ≠ 0 ∨ (w0 ≠ 0 ∧ (!inStore w0 ∨ (s.storeKey w0).isNone ∨ w0.toNat % 8 ≠ 0))
        ∨ w1.toNat % 65536 ≠ 0 ∨ (w1 ≠ 0 ∧ (w2 < 2 ^ 10 ∨ 2 ^ 26 < w2 ∨ 2 ^ Nat.log2 w2 ≠ w2)) then code (-2)
    else match Tab.find? s.regions r.toNat with
      | none => code (-3)
      | some g =>
        if g.owner ≠ s.me.owner then code (-3)
        else match g.clusters.head? with
          | none => code (-3)
          | some cl => s.askHome cl .groupOpenAtHome { s.homeFlight 0 with
              key := r.toNat, args := [w0, w1, BitVec.ofNat 64 w2], rd := rd.toNat })

/-- R188: the group home allocates the lowest free ID. -/
def execGroupOpenAtHome (flight : Nat) (s : State) : Out State :=
  .next (match s.flight? flight with
  | none => s
  | some f =>
    let g := lowestFree s.groups 1
    let reply (s : State) (v : Int) : State :=
      s.answerAt flight s.now f.aux { f with cause := ansValue, data := (BitVec.ofInt 64 v).setWidth 1024 }
    if 65536 ≤ g then reply s (-1)
    else
      let w0 := f.args.getD 0 0
      -- the completion word is reclaimed at its home; the reply does not wait for it (R183)
      let s := match (if w0 = 0 then none else s.storeKey w0) with
        | some key => s.sendFree s.now .vrclAtHome { f with
            next := .vrclAtHome 0, src := s.module.boot.hub f.aux, dst := keyCore key, va := w0, key := key, size := 8, args := [], via := none }
        | none => s
      let (born, s) := s.newId
      let v : Group :=
        { born := born, owner := f.owner, asid := f.asid, region := f.key, cword := w0, table := f.args.getD 1 0,
          size := (f.args.getD 2 0).toNat, changed := s.now }
      reply { s with groups := Tab.set s.groups g v } g)

/-- R189, R191: the checks of a group instruction. -/
def State.withGroup (s : State) (r : Word) (next : State → Nat → Group → State) : State :=
  if r.toNat / 65536 ≠ 0 then s.illegal
  else match Tab.find? s.groups r.toNat with
    | none => s.retire
    | some g => if g.owner ≠ s.me.owner then s.trap 0x10 r else next s r.toNat g

/-- R189: tgclose. -/
def execTgclose (rs1 : Reg) (s : State) : Out State :=
  .next (s.withGroup (s.x rs1) fun s g v => match s.groupHome v with
    | none => s.retire
    | some h => s.askHome h .groupCloseAtHome { s.homeFlight 0 with key := g })

/-- R190: tgseal. -/
def execTgseal (rs1 : Reg) (s : State) : Out State :=
  .next (s.userOnly fun s => s.withGroup (s.x rs1) fun s g v =>
    if v.state = .sealed then s.retire
    else if !v.complete then
      ((s.issued s.cur).modGroup g fun v => { v with sealers := v.sealers.filter (· != s.cur) ++ [s.cur] }).parkHere s.cur (.group g)
    else match s.groupHome v with
      | none => s.retire
      | some h => (s.modMe fun v => { v with park := none }).askHome h .groupSealWriteback { s.homeFlight 0 with key := g })

/-- R191: tgdrop. -/
def execTgdrop (rs1 : Reg) (s : State) : Out State :=
  .next (s.withGroup (s.x rs1) fun s g v => match s.groupHome v with
    | none => s.retire
    | some h => s.askHome h .groupDropAtHome { s.homeFlight 0 with key := g })

/-- R195: PRODUCING entries whose producer is listed in the group. -/
def Group.w (g : Group) : Nat := (g.producers.map fun p => if p.2.2 then p.2.1 else 0).sum

/-- R119, R189: the hardware's own versioned store, sent from a core with an owner's authority. -/
def State.sendVst (s : State) (src : Nat) (key : Nat) (owner : BitVec 8) (asid : BitVec 12) (v g : Nat) : State :=
  s.sendFree s.now .versionedStoreAtHome
    { next := .versionedStoreAtHome 0, src := src, dst := keyCore key, key := key, owner := owner, asid := asid,
      data := BitVec.ofNat 1024 v, op := g }

/-- R126, R190: the slots that wait for the group in `tgseal` go on. -/
def State.wakeSealers (s : State) (l : List Nat) : State :=
  l.foldl (fun t k => (t.modSlot k fun v => { v with park := v.park.map fun p => { p with met := true } }).wakeAt k (t.now + 1)) s

/-- R189: a group that is closed with P = 0 becomes complete, once. -/
def State.checkComplete (s : State) (g : Nat) : State :=
  match Tab.find? s.groups g with
  | none => s
  | some v =>
    if v.state = .opened ∨ v.p ≠ 0 ∨ v.complete then s
    else
      let s := s.modGroup g fun v => { v with complete := true, sealers := [] }
      let s := s.wakeSealers v.sealers
      match (if v.cword = 0 then none else s.storeKey v.cword), s.groupHome v with
      | some key, some h => s.sendVst (s.module.boot.hub h) key v.owner v.asid v.pubs 1
      | _, _ => s

/-- R189: a group home closes a group. -/
def execGroupCloseAtHome (flight : Nat) (s : State) : Out State :=
  .next (match s.flight? flight with
  | none => s
  | some f =>
    let s := s.modGroup f.key fun v => { v with state := if v.state = .opened then .closed else v.state }
    (s.checkComplete f.key).answerAt flight s.now f.aux { f with cause := ansOver })

/-- R190, R239: the page of a backing table that holds its part i is sealed, from the group home's hub router: the
append-table entry, then the leaf, then the report; the clk that this takes, and the page. What refuses or stops it is
reported (R188, R236). A page of 64 MiB, `last`, is sealed once. -/
def State.sealPage (s : State) (cl : Nat) (g : Group) (i : Nat) (last : Option Nat) : Nat × Option Nat × State :=
  let hub := s.module.boot.hub cl
  match s.backingLeaf g (1024 * i) true with
  | none => (0, last, s.backFault cl g (1024 * i))
  | some (_, e) =>
    let frame := leafFrame e.leaf
    if last = some e.page then (0, last, s)
    else if (Tab.find? (s.home (keyHome frame)).appends frame).isNone then (0, some e.page, s.noEntry frame)
    else if (s.badWord e.at_ 8).isSome then (0, some e.page, s.backFault cl g (1024 * i))
    else
    let (t, s) := s.service frame
    let s := s.modHome (keyHome frame) fun d => { d with
      appends := d.appends.map fun (k, x) => (k, if k = frame then { x with closed := true } else x) }
    let (u, s) := s.service e.at_
    let (d, s) := (s.homeWrite e.at_ 8 (s.read e.at_ 8 ||| 0x80)).openTime
    (2 * s.pathClk hub (keyCore frame) + t + 2 * s.pathClk hub (keyCore e.at_) + u + d % 65536, some e.page, s)

/-- R190: the DONE and FAILED entries of a complete group are written to its backing table, whose pages are sealed one
after another; the reply leaves when the last one is. Log 61. -/
def execGroupSealWriteback (flight : Nat) (s : State) : Out State :=
  .next (match s.flight? flight with
  | none => s
  | some f =>
    let fin (s : State) (t : Nat) : State := s.answerAt flight (s.now + t) f.aux { f with cause := ansOver }
    match Tab.find? s.groups f.key with
    | none => fin s 0
    | some g =>
      if g.state = .sealed ∨ !g.complete then fin s 0
      else
        let slices := ((Tab.find? s.regions g.region).map (·.clusters)).getD []
        let entries := slices.flatMap fun cl =>
          ((s.cluster cl).answers.entries.filter fun p => p.2.group == f.key && !p.2.pinned).map fun p => (cl, p.2)
        let s := entries.foldl (fun t p => t.writeBacking p.1 p.2) s
        let pages := if g.table = 0 then [] else List.range ((64 * g.size + 65535) / 65536)
        let (t, _, s) := pages.foldl (fun (p : Nat × Option Nat × State) i =>
          let (t, last, s) := p.2.2.sealPage f.aux g i p.2.1
          (p.1 + t, last, s)) (0, none, s)
        fin (s.modGroup f.key fun v => { v with state := .sealed }) t)

/-- R191: a group is freed: its entries leave every slice, and the consumers still listed resume. When the slices of other
clusters lose theirs the rule does not say: the model removes them in the step of the group home. DESIGN CHOICE, log 69. -/
def execGroupDropAtHome (flight : Nat) (s : State) : Out State :=
  .next (match s.flight? flight with
  | none => s
  | some f =>
    let fin (s : State) : State := s.answerAt flight s.now f.aux { f with cause := ansOver }
    match Tab.find? s.groups f.key with
    | none => fin s
    | some g =>
      let slices := ((Tab.find? s.regions g.region).map (·.clusters)).getD []
      let drop (s : State) (cl : Nat) : State :=
        let mine := (s.cluster cl).answers.entries.filter fun p => p.2.group == f.key
        let s := mine.foldl (fun t p => t.serveConsumers cl p.1 ⟨5, 0, none, 0⟩) s
        s.modAnswers cl fun a => { a with
          entries := a.entries.filter (fun p => p.2.group != f.key),
          lru := a.lru.filter (fun i => !(mine.any (·.1 == i))), reports := Tab.erase a.reports f.key }
      let s := slices.foldl drop s
      let s := s.wakeSealers g.sealers
      fin { s with groups := Tab.erase s.groups f.key })

/-- R194: changes the home's entry of a producer. -/
def Group.producer (g : Group) (e : Nat) (f : Nat × Bool → Nat × Bool) : Group :=
  let old := ((g.producers.find? (·.1 == e)).map (·.2)).getD (0, false)
  let rest := g.producers.filter (fun p => p.1 != e)
  let new := f old
  { g with producers := if new = (0, false) then rest else rest ++ [(e, new)] }

/-- R194: a report's effect on the counts. -/
def Group.reported (g : Group) (kind e : Nat) : Group :=
  match kind with
  | 0 => ({ g with p := g.p + 1 }).producer e fun (n, l) => (n + 1, l)
  | 1 => g.producer e fun (n, _) => (n, true)
  | 2 => g.producer e fun (n, _) => (n, false)
  | 3 => ({ g with p := g.p - 1, pubs := g.pubs + 1 }).producer e fun (n, l) => (n - 1, l)
  | 4 => ({ g with p := g.p - 1 }).producer e fun (n, l) => (n - 1, l)
  | 5 => g.producer e fun (n, l) => (n - 1, l)
  | 7 => g
  | _ => g.producer e fun (n, l) => (n + 1, l)

/-- R195, R353: the clk at which a probe round is due: 4,096 cycles of the group home's field after the last change. -/
def State.probeAt (s : State) (v : Group) : Nat := v.changed + s.clk (clusterField ((s.groupHome v).getD 0)) 4096

/-- R195: the counts stand at P = W ≠ 0; a probe round is due. -/
def State.armProbe (s : State) (g : Nat) : State :=
  match Tab.find? s.groups g with
  | some v =>
    if v.p = v.w ∧ v.p ≠ 0 then
      (s.modGroup g fun x => { x with due := s.probeAt v }).post (s.probeAt v) (.probeRoundStart g)
    else s
  | none => s

/-- R194: a report reaches the group home; one about an earlier group of the same ID counts for nothing. -/
def execGroupReport (flight : Nat) (s : State) : Out State :=
  .next (match s.flight? flight with
  | none => s
  | some f =>
    let s := s.land flight
    match Tab.find? s.groups f.aux with
    | none => s
    | some v =>
      if f.tval ≠ BitVec.ofNat 64 v.born then s
      else
      let v' := { v.reported f.op f.ember with latest := Tab.set v.latest f.key f.rd }
      let moved := decide (v'.p ≠ v.p ∨ v'.w ≠ v.w)
      let v' := if moved then { v' with changed := s.now, probe := v'.probe.map fun p => { p with good := false } } else v'
      let s := { s with groups := Tab.set s.groups f.aux v' }
      (if moved then s.armProbe f.aux else s).checkComplete f.aux)

/-- R195: a probe round starts: one question to every slice of the home region. It starts at `due`, whatever the clock of
the home's field has done since (R353). -/
def execProbeRoundStart (group : Nat) (s : State) : Out State :=
  .next (match Tab.find? s.groups group with
  | none => s
  | some v =>
    if v.p ≠ v.w ∨ v.p = 0 ∨ v.probe.isSome then s
    else if s.now < v.due then s.post v.due (.probeRoundStart group)
    else match s.groupHome v, Tab.find? s.regions v.region with
      | some h, some r =>
        let src := s.module.boot.hub h
        let s := s.modGroup group fun v => { v with probe := some ⟨r.clusters.length, true⟩ }
        r.clusters.foldl (fun t cl =>
          let dst := t.module.boot.hub cl
          let (id, t) := t.register .probeQuestion { next := .probeQuestion 0, src := src, dst := dst, aux := group, key := cl, tval := BitVec.ofNat 64 v.born }
          t.post (t.now + t.pathClk src dst) (.probeQuestion id)) s
      | _, _ => s)

/-- R195: a slice answers with the number of its latest report, 6 clk after the question. At which of these clk it takes
the number is open: the model takes it when the question arrives. DESIGN CHOICE, log 69. -/
def execProbeQuestion (flight : Nat) (s : State) : Out State :=
  .next (match s.flight? flight with
  | none => s
  | some f =>
    let n := Tab.get (s.cluster f.key).answers.reports f.aux 0
    { s with flights := Tab.set s.flights flight { f with next := .probeAnswer flight, rd := n } }.post
      (s.now + s.clk (clusterField f.key) 6 + s.pathClk f.dst f.src) (.probeAnswer flight))

/-- R195: the round confirms: every consumer listed in the group resumes with OUT 4. -/
def State.confirmCycle (s : State) (g : Nat) (v : Group) : State :=
  let slices := ((Tab.find? s.regions v.region).map (·.clusters)).getD []
  let s := slices.foldl (fun t cl =>
    let mine := (t.cluster cl).answers.entries.filter fun p => p.2.group == g && p.2.consumers != []
    mine.foldl (fun t p => t.serveConsumers cl p.1 ⟨4, 0, none, 0⟩) t) s
  s.modGroup g fun v => { v with
    producers := v.producers.map (fun p => (p.1, p.2.1, false)), changed := s.now, probe := none }

/-- R195: an answer reaches the group home; 1 clk after the last one (`op` = 1) the round confirms or fails. Whether an
answer is compared with the latest report received when it arrives, or when the round ends, is open: the model compares
it when it arrives. DESIGN CHOICE, log 69. -/
def execProbeAnswer (flight : Nat) (s : State) : Out State :=
  .next (match s.flight? flight with
  | none => s
  | some f =>
    match Tab.find? s.groups f.aux with
    | none => s.land flight
    | some v =>
      match (if f.tval = BitVec.ofNat 64 v.born then v.probe else none) with
      | none => s.land flight
      | some p =>
        if f.op = 1 then
          let s := s.land flight
          if p.good then s.confirmCycle f.aux v
          else (s.modGroup f.aux fun v => { v with probe := none, changed := s.now }).armProbe f.aux
        else
          let p := { left := p.left - 1, good := p.good && f.rd == Tab.get v.latest f.key 0 : Probe }
          let s := s.modGroup f.aux fun v => { v with probe := some p }
          if p.left = 0 then
            { s with flights := Tab.set s.flights flight { f with op := 1 } }.post (s.now + s.clk (coreField f.src) 1) (.probeAnswer flight)
          else s.land flight)

end Sys2Proof.Machine
end

