-- ==== Sys2Proof/Machine/Module.lean ====
section
/-! DEFINITION. The host, the module block and the module's controllers (spec/16, R292; spec/19, R338 to R344, R350 to R353;
R304, R320), and what chroez reads (R201, R287, R313). -/

namespace Sys2Proof.Machine

/-! Control registers (R292, R338, R339). -/

/-- R292: the core of a core block of field f. -/
def blockCore (f r : Nat) : Nat := flueCore f ((r - 0x400000) / 0x1000 % 1024)

/-- R305: the writable bits of BPC. -/
def bpcMask : Word := BitVec.ofNat 64 (2 ^ 63 + 2 ^ 20 + 0xFF000 + 0xFFF)

/-- R292, R305, R306, R308: a write to register `o` of a core block. -/
def State.writeCoreReg (s : State) (core o : Nat) (w : Word) : State :=
  let s := s.startCounting core
  if 0x100 ≤ o ∧ o < 0x300 then
    let k := (o - 0x100) % 64 / 8
    if 4 < k then s else s.modSlot (8 * core + (o - 0x100) / 64) fun v => { v with acct := Tab.set v.acct k w }
  else if 0x300 ≤ o ∧ o ≤ 0x340 then s.modCore core fun c => { c with hist := Tab.set c.hist ((o - 0x300) / 8) w }
  else if 0x400 ≤ o ∧ o < 0x420 then
    s.modCore core fun c => { c with bpa := Tab.set c.bpa ((o - 0x400) / 8) (w &&& 0xFFFFFFFFFFFFFC) }
  else if 0x440 ≤ o ∧ o < 0x460 then s.modCore core fun c => { c with bpc := Tab.set c.bpc ((o - 0x440) / 8) (w &&& bpcMask) }
  else if o = 0x500 then
    let s := s.modCore core fun c => { c with
      activeSet := if c.pcrotEn then c.activeSet % (w.toNat % 4 + 1) else 0, pcrotEn := w.getLsbD 16,
      pcrotPer := w.extractLsb' 8 5, pcrotSets := w.setWidth 2 }
    if w.getLsbD 16 then s.post (s.rotationAt core (s.now + 1)) (.counterSetRotate core) else s
  else if 0x600 ≤ o ∧ o < 0x700 ∧ o % 32 = 0 then
    s.modCore core fun c => { c with scount := Tab.set c.scount (8 * c.activeSet + (o - 0x600) / 32) w }
  else if 0x700 ≤ o ∧ o < 0x800 then
    s.modCore core fun c => { c with psel := Tab.set c.psel ((o - 0x700) / 8) (w &&& 0xFFFF) }
  else if 0x800 ≤ o ∧ o < 0x880 then
    let e := (o - 0x800) / 16
    s.modCore core fun c =>
      let (m, v) := Tab.get c.filters e (0, 0)
      { c with filters := Tab.set c.filters e (if o % 16 = 0 then (w, v) else (m, w)) }
  else if 0x900 ≤ o ∧ o < 0xA00 then s.modCore core fun c => { c with scount := Tab.set c.scount ((o - 0x900) / 8) w }
  else s

/-- R339: a write to register `o` of the module block. -/
def State.writeModuleReg (s : State) (o : Nat) (w : Word) : State :=
  if o < 0x40 then if s.module.lstat = 2 then s else s.modModule fun m => { m with ldesc := Tab.set m.ldesc (o / 8) w }
  else if 0x600 ≤ o ∧ o < 0x630 then s.modModule fun m => { m with anonce := Tab.set m.anonce ((o - 0x600) / 8) w }
  else if 0x1000 ≤ o ∧ o < 0x1800 then
    let i := (o - 0x1000) / 8
    s.modModule fun m => { m with
      hq := Tab.set m.hq i (if i % 2 = 0 then w &&& 0x8000000000000FFF else w &&& 0xFFFFFFFFC0000000) }
  else if 0x2000 ≤ o ∧ o < 0x4000 then
    s.modModule fun m => { m with pimp := Tab.set m.pimp ((o - 0x2000) / 8) (w &&& 0x8000FFFF0000FFFF) }
  else if 0x4000 ≤ o ∧ o < 0xC000 then
    s.modModule fun m => { m with proute := Tab.set m.proute ((o - 0x4000) / 8) (w &&& 0xFFFFFFFFFFFF) }
  else if o = 0xC000 then s.modModule fun m => { m with devnum := w.setWidth 12 }
  else if o = 0xC008 then s.modModule fun m => { m with pmap := w &&& 0xFFFFFFFFFF0 }
  else if 0xD000 ≤ o ∧ o < 0xF000 then
    s.modModule fun m => { m with excl := Tab.set m.excl ((o - 0xD000) / 8) (w &&& 0x800001FFFFFFFFFF) }
  else s

/-- R292, R338, R339: a write at an offset of the control BAR. Offsets that name no register drop it, and so does the control
space of a field that has not started (R350; log 11). -/
def execRegisterWrite (offset : Nat) (value : BitVec 64) (s : State) : Out State :=
  .next (
    if offset % 8 ≠ 0 then s
    else if 0x38000000 ≤ offset ∧ offset < 0x38010000 then s.writeModuleReg (offset - 0x38000000) value
    else
      let f := offset / 2 ^ 24
      let r := offset % 2 ^ 24
      if f < nFields ∧ (s.field f).started ∧ 0x400000 ≤ r ∧ r < 0x800000 then s.writeCoreReg (blockCore f r) (r % 0x1000) value else s)

/-- R339: PLIM. -/
def execPlimWrite (value : BitVec 64) (s : State) : Out State :=
  .next (s.modModule fun m => { m with plim := BitVec.ofNat 16 (min 6000 (max 1500 (value.toNat % 2 ^ 16))) })

/-- R293: the code of a mode. -/
def Mode.code : Mode → Nat
  | .vacant => 0
  | .active => 1
  | .stopped => 2
  | .outOfService => 3
  | .doubleFault => 4

/-- R102, R307: an accounting counter, with what has not been counted one by one. -/
def State.acctOf (s : State) (k c : Nat) : Word := Tab.get ((s.startCounting (slotCore k)).slot k).acct c 0
def State.histOf (s : State) (core j : Nat) : Word := Tab.get ((s.startCounting core).core core).hist j 0

/-- R292, R293, R305 to R308: a register of a core block reads. -/
def State.readCoreReg (s : State) (core o : Nat) : Word :=
  let c := s.core core
  if 0x40 ≤ o ∧ o < 0x80 then
    let v := s.slot (8 * core + (o - 0x40) / 8)
    BitVec.ofNat 64 ((if v.cmdBusy then 2 ^ 15 else 0) + (if v.level = .supervisor then 2 ^ 14 else 0)
      + (if v.bound then 2 ^ 13 else 0) + v.mode.code * 2 ^ 8)
  else if 0x80 ≤ o ∧ o < 0xC0 then BitVec.ofNat 64 (s.slot (8 * core + (o - 0x80) / 8)).ember
  else if 0x100 ≤ o ∧ o < 0x300 then s.acctOf (8 * core + (o - 0x100) / 64) ((o - 0x100) % 64 / 8)
  else if 0x300 ≤ o ∧ o ≤ 0x340 then s.histOf core ((o - 0x300) / 8)
  else if 0x400 ≤ o ∧ o < 0x420 then Tab.get c.bpa ((o - 0x400) / 8) 0
  else if 0x440 ≤ o ∧ o < 0x460 then Tab.get c.bpc ((o - 0x440) / 8) 0
  else if o = 0x500 then
    BitVec.ofNat 64 ((if c.pcrotEn then 2 ^ 16 else 0) + c.pcrotPer.toNat * 2 ^ 8 + c.pcrotSets.toNat)
  else if 0x600 ≤ o ∧ o < 0x700 then
    let i := 8 * c.activeSet + (o - 0x600) / 32
    match (o - 0x600) % 32 / 8 with
    | 0 => Tab.get c.scount i 0
    | 1 => c.tenabled
    | 2 => Tab.get c.strun c.activeSet 0
    | _ => Tab.get c.psel i 0
  else if 0x700 ≤ o ∧ o < 0x800 then Tab.get c.psel ((o - 0x700) / 8) 0
  else if 0x800 ≤ o ∧ o < 0x880 then
    let e := Tab.get c.filters ((o - 0x800) / 16) (0, 0)
    if o % 16 = 0 then e.1 else e.2
  else if 0x900 ≤ o ∧ o < 0xA00 then Tab.get c.scount ((o - 0x900) / 8) 0
  else if 0xA00 ≤ o ∧ o < 0xA20 then Tab.get c.strun ((o - 0xA00) / 8) 0
  else 0

/-- R339: FSTAT of a field. -/
def State.fstat (s : State) (f : Nat) : Word :=
  BitVec.ofNat 64 ((if (s.field f).half then 256 else 0)
    + ((s.cores.filter fun p => coreField p.1 == f).map fun p =>
        ((List.range 16).map (bankTemp p.2.temps)).foldl max 0).foldl max 0)

/-- R339: a register of the module block reads. -/
def State.readModuleReg (s : State) (o : Nat) : Word :=
  let m := s.module
  if o < 0x40 then Tab.get m.ldesc (o / 8) 0
  else if o = 0x48 then m.lstat.setWidth 64
  else if o = 0x50 ∨ o = 0x60 then Tab.get m.lcw ((o - 0x50) / 16) 0
  else if o = 0x58 ∨ o = 0x68 then (Tab.get m.lcwt ((o - 0x58) / 16) 0).setWidth 64
  else if 0x100 ≤ o ∧ o < 0x120 then Tab.get m.pwr ((o - 0x100) / 8) 0
  else if o = 0x140 then m.plim.setWidth 64
  else if 0x200 ≤ o ∧ o < 0x200 + 8 * nFields then s.fstat ((o - 0x200) / 8)
  else if 0x600 ≤ o ∧ o < 0x630 then Tab.get m.anonce ((o - 0x600) / 8) 0
  else if o = 0x638 then m.astat.setWidth 64
  else if 0x700 ≤ o ∧ o < 0x800 then Tab.get m.areport ((o - 0x700) / 8) 0
  else if 0x800 ≤ o ∧ o < 0x1000 then Tab.get m.acert ((o - 0x800) / 8) 0
  else if 0x1000 ≤ o ∧ o < 0x1800 then Tab.get m.hq ((o - 0x1000) / 8) 0
  else if 0x2000 ≤ o ∧ o < 0x4000 then Tab.get m.pimp ((o - 0x2000) / 8) 0
  else if 0x4000 ≤ o ∧ o < 0xC000 then Tab.get m.proute ((o - 0x4000) / 8) 0
  else if o = 0xC000 then m.devnum.setWidth 64
  else if o = 0xC008 then m.pmap
  else if 0xD000 ≤ o ∧ o < 0xF000 then Tab.get m.excl ((o - 0xD000) / 8) 0
  else 0

/-- R338: what the host reads at an offset of the control BAR; a read changes nothing (R292). A field that has not started
(R350) answers as a fenced one does: DESIGN CHOICE, log 11. -/
def State.controlRead (s : State) (o : Nat) : Word :=
  if 0x38000000 ≤ o then if o < 0x38010000 then s.readModuleReg (o - 0x38000000) else 0
  else
    let f := o / 2 ^ 24
    let r := o % 2 ^ 24
    if nFields ≤ f then 0
    else if (s.field f).fenced ∨ !(s.field f).started then BitVec.allOnes 64
    else if 0x400000 ≤ r ∧ r < 0x800000 then s.readCoreReg (blockCore f r) (r % 0x1000)
    else if 0x200000 ≤ r ∧ r < 0x208000 ∧ r % 0x100 = 0 then
      ((s.cluster (128 * f + (r - 0x200000) / 0x100)).flagUnion).setWidth 64
    else 0

/-! What chroez reads (R201, R287, R313): functions of the state, which they leave as it is. -/

/-- R287: a thing that chroez reads of a slot, its window and its memory; a tile half is rows of the window. -/
inductive Peek where
  | x (r : Nat) | f (r : Nat) | pc | csr (c : Nat) | row (r : Nat) | word (va : Word) | tag (va : Word)
deriving DecidableEq, Repr

/-- R287: what chroez reads of slot k through the field controller. -/
def State.peek (s : State) (k : Nat) (p : Peek) : Option Row :=
  let v := s.slot k
  match p with
  | .x r => some ((v.xr r).setWidth 1024)
  | .f r => some ((v.fr r).setWidth 1024)
  | .pc => some (v.pc.setWidth 1024)
  | .csr c => (State.csrRead { s with cur := k } c).map (·.setWidth 1024)
  | .row r => some (s.row k r)
  | .word va => (s.vaKey v.asid.toNat va).map fun key => (s.read64 key).setWidth 1024
  | .tag va => (s.vaKey v.asid.toNat va).map fun key => (s.tag key).setWidth 1024

/-- R313: what `page` prints: the leaf, the home core, the bank, the append-table entry, and the replicas by field. -/
structure PageInfo where
  leaf     : TlbEntry
  home     : Nat
  bank     : Nat
  entry    : Option AppendEntry
  replicas : List (Nat × Replica)
deriving DecidableEq, Repr

/-- R313: `page va` for the ember of slot k. -/
def State.page (s : State) (k : Nat) (va : Word) : Option PageInfo :=
  let v := s.slot k
  match (if translated va then s.asidRoot v.asid.toNat v.owner else none).map fun root => s.walk v.asid.toNat root va with
  | some (.leaf t) =>
    let frame := leafFrame t.leaf
    some { leaf := t, home := keyCore frame, bank := keyBank frame, entry := Tab.find? (s.home (keyHome frame)).appends frame,
           replicas := (s.fields.map fun p => (p.2.replicas.filter (·.frame == frame)).map fun r => (p.1, r)).flatten }
  | _ => none

/-- R201: what `at` prints: a group, its home region's clusters, W, and the entries of the group in their slices, by cluster and
index. -/
structure GroupInfo where
  group    : Group
  clusters : List Nat
  w        : Nat
  entries  : List (Nat × Nat × Answer)
deriving DecidableEq, Repr

/-- R201: `at g`. It consults no backing table. -/
def State.peekGroup (s : State) (g : Nat) : Option GroupInfo :=
  (Tab.find? s.groups g).map fun v =>
    { group := v, clusters := ((Tab.find? s.regions v.region).map (·.clusters)).getD [], w := v.w,
      entries := (s.clusters.map fun p => (p.2.answers.entries.filter fun e => e.2.group == g).map fun e => (p.1, e)).flatten }

/-- R201: the entry at an index of a cluster's slice. -/
def State.peekAnswer (s : State) (cl index : Nat) : Option Answer := Tab.find? (s.cluster cl).answers.entries index

/-! The order of a port's accesses (R341). A posted write that its home holds while a bank is zeroed stands at the head of the
port's entries in `writes`; what arrives later through the port waits behind it, and all of it arrives again once a unit has
been zeroed (`State.resumeAll`). -/

/-- An access of a port waits behind those before it. -/
def State.behind (s : State) (port : Nat) (i : Instr) : State := s.modModule fun m => { m with writes := m.writes ++ [(port, i)] }

/-- R341: access i of a port is performed, unless an earlier one waits. -/
def State.portTurn (s : State) (port : Nat) (i : Instr) (go : State → State) : State :=
  if s.module.writes.any (·.1 == port) then s.behind port i else go s

/-! Launches by the host (R341, R342). -/

/-- R342: a write to LDOOR; the launch is the port's latest (R339). -/
def execLdoor (port : Nat) (s : State) : Out State :=
  if 2 ≤ port then .fault .noSuchUnit
  else .next (s.portTurn port (.ldoor port) fun s =>
    if s.module.lstat = 2 then s
    else
      let s := s.modModule fun m => { m with
        lstat := 2, lcwt := Tab.set m.lcwt port (Tab.get m.lcwt port 0 &&& 7), posted := Tab.set m.posted port s.nextId }
      s.postLaunch ((List.range 8).map fun i => Tab.get s.module.ldesc i 0) (some port) 0)

/-! The memory window (R340). -/

/-- R340: the access at an offset of a port's window: its address, ASID and owner, and its key with the leaf, or why there is
none: the access is refused, or it waits for the zeroing of storage at a key (R220). -/
def State.hostAccess (s : State) (port offset : Nat) (write : Bool) :
    Word × BitVec 12 × BitVec 8 × Except (Option Nat) (Nat × TlbEntry) :=
  let i := 2 * (64 * port + bits offset 30 6)
  let w0 := Tab.get s.module.hq i 0
  let va : Word := Tab.get s.module.hq (i + 1) 0 + BitVec.ofNat 64 (offset % 2 ^ 30 / 8 * 8)
  let asid : BitVec 12 := w0.setWidth 12
  let e := (Tab.get s.asids asid.toNat 0).toNat
  let owner := BitVec.ofNat 8 (e / 2 ^ 56)
  let found := if w0.getLsbD 63 = false ∨ e % 2 = 0 ∨ !translated va ∨ !s.anyStarted then .error none
    else match s.walk asid.toNat (bits e 13 31 * 2 ^ 13) va with
      | .leaf t =>
        let may := if write then leafW t.leaf else leafR t.leaf
        if leafClass t.leaf = 2 ∧ may ∧ s.ownerOk (t.key va) owner (!write && !leafW t.leaf) then
          if s.zeroing (t.key va) then .error (some (t.key va)) else .ok (t.key va, t)
        else .error none
      | .busy a => .error (some a)
      | _ => .error none
  (va, asid, owner, found)

/-- R340, R299, R300: a refused access writes a record of class 13; a bad node is quarantined. While no field has started there
is no controller to write one (R350). -/
def State.hostRefused (s : State) (va : Word) (asid : BitVec 12) (owner : BitVec 8) : State :=
  if !s.anyStarted then s else (s.noteWalk asid va).errorRecord 0 13 0 owner asid 0 0 [va, va + 7]

/-- R296, R326: what the walk of a host access and the access itself, of 8 bytes, leave: rows open, and errors corrected. -/
def State.hostTouches (s : State) (asid : BitVec 12) (va : Word) (key : Nat) : State :=
  ((s.walked (bits (Tab.get s.asids asid.toNat 0).toNat 13 31 * 2 ^ 13) va).openRow key).scrub key 8

/-- R296, R300: a host access meets an uncorrectable error. -/
def State.hostBad (s : State) (va : Word) (asid : BitVec 12) (owner : BitVec 8) (key : Nat) : State :=
  s.errorRecord (coreField (keyCore key)) 2 0 owner asid 0 0
    [va / 64 * 64, va / 64 * 64 + 63, BitVec.ofNat 64 (key / 64 * 64), BitVec.ofNat 64 (key / 64 * 64 + 63)]

/-- R340, R341: a read of 8 bytes completes with data, or with Unsupported Request, behind the port's posted writes. A fenced
field refuses it, which is no refusal of R340: it completes with Unsupported Request and writes no record. DESIGN CHOICE,
log 65. -/
def execHostWindowRead (port offset : Nat) (s : State) : Out State :=
  if 2 ≤ port ∨ 2 ^ 36 ≤ offset then .fault .noSuchUnit
  else .next (s.portTurn port (.hostWindowRead port offset) fun s =>
    let (va, asid, owner, found) := s.hostAccess port offset false
    let done (s : State) (r : Option Word) : State := s.modModule fun m => { m with hostOut := m.hostOut ++ [r] }
    match found with
    | .error none => done (s.hostRefused va asid owner) none
    | .error (some a) => if s.fencedKey a then done s none else s.holdZero a (.hostWindowRead port offset)
    | .ok (key, _) =>
      if s.fencedKey key then done s none
      else if (s.badWord key 8).isSome then done (s.hostBad va asid owner key) none
      else done (s.hostTouches asid va key) (some (s.read64 key)))

/-- R340, R341: a posted write of 8 bytes is performed in order of arrival, or dropped. One that would merge into an
uncorrectable unit, or reaches DRAM after an alarm erasure, is dropped with a record (R296, R304); one that a fenced field
refuses is dropped. -/
def execHostWindowWrite (port offset : Nat) (value : BitVec 64) (s : State) : Out State :=
  if 2 ≤ port ∨ 2 ^ 36 ≤ offset then .fault .noSuchUnit
  else .next (s.portTurn port (.hostWindowWrite port offset value) fun s =>
    let (va, asid, owner, found) := s.hostAccess port offset true
    match found with
    | .error none => s.hostRefused va asid owner
    | .error (some a) => if s.fencedKey a then s else s.behind port (.hostWindowWrite port offset value)
    | .ok (key, _) =>
      if s.fencedKey key then s
      else if s.partBad key 8 then s.hostBad va asid owner key
      else (s.hostTouches asid va key).homeWrite key 8 value.toNat)

/-! Attestation (R352) and the security alarm (R304). -/

/-- R344: vector v fires on both ports. -/
def State.msiAll (s : State) (v : Nat) : State := (s.msi 0 v).msi 1 v

/-- The 96 bytes of a signature, which the spec does not let one compute (log 16). -/
def State.freeSig (s : State) : BitVec 768 × State :=
  (List.range 12).foldl (fun (r : BitVec 768 × State) i =>
    let (w, t) := r.2.freeWord
    (r.1 ||| BitVec.ofNat 768 (w.toNat * 2 ^ (64 * i)), t)) (0, s)

/-- R341, R352: a write to ADOOR. -/
def execAdoor (port : Nat) (s : State) : Out State :=
  if 2 ≤ port then .fault .noSuchUnit
  else .next (s.portTurn port (.adoor port) fun s =>
    if s.module.astat = 1 then s
    else if s.module.alarm ≠ 0 ∨ !s.anyStarted then (s.modModule fun m => { m with astat := 3 }).msiAll 4
    else
      let (sig, s) := s.freeSig
      let (d, s) := s.openTime
      (s.modModule fun m => { m with astat := 1 }).post (s.now + 1 + d % 3000000) (.attestReportReady sig))

/-- R352: the words of the report. -/
def Module.report (m : Module) (sig : BitVec 768) : List Word :=
  [m.serial, m.devcap] ++ (List.range 6).map (fun i => Tab.get m.anonce i 0)
    ++ (List.range 6).map (fun i => BitVec.ofNat 64 (m.boot.digest / 2 ^ (64 * i)))
    ++ [m.boot.version, m.resets, BitVec.ofNat 64 m.alarms]
    ++ (List.range 12).map (fun i => BitVec.ofNat 64 (sig.toNat / 2 ^ (64 * i))) ++ [0, 0, 0]

/-- R352: the report stands in AREPORT. -/
def execAttestReportReady (sig : BitVec 768) (s : State) : Out State :=
  .next (
    if s.module.astat ≠ 1 then s
    else (s.modModule fun m => { m with astat := 2, areport := (List.range 32).zip (m.report sig) }).msiAll 4)

/-- R304, R352: the alarm is raised and recorded, which outlasts a module reset (log 66); with alarm erasure every key is gone, and every region is stopped. -/
def execSecurityAlarm (s : State) : Out State :=
  .next (
    let erase := s.module.boot.erase
    let busy := s.module.astat = 1
    let s := s.modModule fun m => { m with
      alarm := if erase then 2 else max 1 m.alarm, alarms := if erase then 2 else max 1 m.alarms, astat := if busy then 3 else m.astat }
    let s := (s.errorRecord 0 12 0 0 0 0 0 []).msiAll 2
    let s := if busy then s.msiAll 4 else s
    if erase then s.regions.foldl (fun (t : State) p => if p.2.running then t.post t.now (.regionStop p.1) else t) s else s)

/-! Power (R353). -/

/-- R353: the field of extreme power among some, by `better`. -/
def pickField (power : Nat → Nat) (better : Nat → Nat → Bool) : List Nat → Option Nat
  | [] => none
  | f :: fs => match pickField power better fs with
    | none => some f
    | some g => if better (power g) (power f) then some g else some f

/-- R353: the field's speed changes at its next counter multiple of 16 behind this clk. -/
def State.decideSpeed (s : State) (f : Nat) (half heat : Bool) : State :=
  let z := (s.field f).zero
  (s.modField f fun d => { d with speedTo := some half, heat := heat }).post
    (z + ((s.now - z) / 16 + 1) * 16) (.speedChange f)

/-- R353: a bank of field f that its region's owner owns is hotter than n °C at the last readings. -/
def State.ownHeat (s : State) (f n : Nat) : Bool :=
  s.cores.any fun p => coreField p.1 == f && (List.range 16).any fun b => s.ownBank p.1 b && decide (n < bankTemp p.2.temps b)

/-- R353: the power manager's check, every 2^16 clk of field 0's counter. `rails` holds the readings: 0 to 3 as in PWR, 16 + f
the power of field f. -/
def execPowerCheck (hot cool : Nat) (s : State) : Out State :=
  .next (if s.counter 0 % 2 ^ 16 ≠ 0 then s
  else
    let m := s.module
    let mw (i : Nat) : Nat := (Tab.get m.rails i 0).toNat % 2 ^ 32
    let t := s.counter 0 % 2 ^ 32
    let s := (s.modModule fun m => { m with
      pwr := (List.range 4).map fun i => (i, BitVec.ofNat 64 (t * 2 ^ 32 + mw i)) }).post (s.now + 65536) (.powerCheck hot cool)
    let half (f : Nat) : Bool := (s.field f).speedTo.getD (s.field f).half
    let power (f : Nat) : Nat := mw (16 + f)
    let all := List.range nFields
    let limit := 1000 * m.plim.toNat
    let s := if limit < mw 3 then
        match pickField power (fun a b => decide (b < a)) (all.filter (!half ·)) with
        | some f => s.decideSpeed f true (s.field f).heat
        | none => s
      else if 100 * mw 3 < 95 * limit then
        match pickField power (fun a b => decide (a < b)) (all.filter fun f => half f && !(s.field f).heat && !s.ownHeat f hot) with
        | some f => s.decideSpeed f false false
        | none => s
      else s
    all.foldl (fun (t : State) f =>
      let d := t.field f
      if s.ownHeat f hot ∧ !d.heat then t.decideSpeed f true true
      else if !s.ownHeat f (cool - 1) ∧ d.heat then t.decideSpeed f false false
      else t) s)

/-- The slot whose issue cycle an event waits for. -/
def slotEvent : Instr → Option Nat
  | .vectorEntryExecute k | .matrixEnqueue k | .emberTakeup k | .suspendWriteback k | .slotKill k => some k
  | _ => none

/-- R353: a clk of a delay that is under way when its field's clock changes, at `now`, to the halved one or back: as many cycles
as before lie between it and now. -/
def retime (half : Bool) (now t : Nat) : Nat :=
  if now < t then if half then now + 2 * (t - now) else now + (t - now + 1) / 2
  else if half then now - 2 * (now - t) else now - (now - t) / 2

/-- The field whose clock times the delay that an event ends, if it is one field's. A packet that crosses fields keeps the time
with which it set out. DESIGN CHOICE, log 48. -/
def State.clockOf (s : State) (i : Instr) : Option Nat :=
  match slotEvent i with
  | some k => some (slotField k)
  | none => match i with
    | .zeroingDone k u => some (match k.toNat with
      | 0 => coreField (u / 16)
      | 1 => coreField u
      | _ => clusterField u)
    | .pageWalk k _ | .emberRestore k => some (slotField k)
    | .meterAdmit c | .matrixOperandArrival c => some (coreField c)
    | .matrixGrant cl | .matrixSetback cl | .matrixComplete cl | .consumerResume cl _ => some (clusterField cl)
    | .relayReinject f | .barrierAndUpdate _ _ f | .barrierReleaseSeen _ _ f => some f
    | .probeRoundStart g => ((Tab.find? s.groups g).bind s.groupHome).map clusterField
    | .peerAckTimeout id => (s.flight? id).map fun f => coreField f.src
    | .loadReply id | .acknowledgement id | .versionedReply id | .tcallReply id | .probeAnswer id =>
      ((s.flight? id).filter fun f => coreField f.src == coreField f.dst).map fun f => coreField f.src
    | _ => ((requestOf i).bind s.flight?).bind fun f =>
      if coreField f.src = coreField f.dst then some (coreField f.src) else none

/-- R353: the clk that the units of field f keep move as the delays do. -/
def State.retimeUnits (s : State) (f : Nat) (half : Bool) : State :=
  let m (t : Nat) : Nat := retime half s.now t
  let tile (t : Tile) : Tile := { t with readEnd := m t.readEnd }
  let slot_ (v : Slot) : Slot := { v with
    due := v.due.map (m ·), inject := m v.inject, vbuf := v.vbuf.map fun e => { e with at_ := m e.at_ } }
  let core_ (c : Nat) (v : Core) : Core := { v with
    mq := v.mq.map tile, arr := v.arr.map fun p => (p.1, m p.2), mask := v.mask.map (m ·), meter := s.meterNow c }
  let cluster_ (cl : Nat) (v : Cluster) : Cluster := { v with
    engMeter := s.engMeterNow cl, answers := { v.answers with cells := v.answers.cells.map fun p => (p.1, { p.2 with at_ := m p.2.at_ }) },
    mx := { v.mx with grantAt := m v.mx.grantAt, busyTo := if v.mx.busyTo = 0 then 0 else m v.mx.busyTo,
                      running := v.mx.running.map fun p => (p.1, tile p.2) } }
  let bar_ (b : BarCtx) : BarCtx := { b with sent := b.sent.map fun p => (p.1, if p.1 = f then m p.2 else p.2) }
  let home (v : Group) : Bool := (s.groupHome v).any fun cl => clusterField cl == f
  { s with
    slots := s.slots.map fun p => (p.1, if slotField p.1 = f then slot_ p.2 else p.2),
    cores := s.cores.map fun p => (p.1, if coreField p.1 = f then core_ p.1 p.2 else p.2),
    clusters := s.clusters.map fun p => (p.1, if clusterField p.1 = f then cluster_ p.1 p.2 else p.2),
    regions := s.regions.map fun p => (p.1, { p.2 with bar := p.2.bar.map fun b => (b.1, bar_ b.2) }),
    groups := s.groups.map fun p => (p.1, if home p.2 then { p.2 with due := m p.2.due } else p.2),
    fields := s.fields.map fun p => (p.1, if p.1 = f then { p.2 with
      relayAt := m p.2.relayAt, turnsTo := s.now, turns := (List.range 8).map fun i => (i, s.issueTurns f i) } else p.2) }

/-- R353, R344: a field changes speed at a clk at which its rotation begins: the delays that its clock counts, and the issue
cycles, go on with the cycles that are left of them. -/
def execSpeedChange (field : Nat) (s : State) : Out State :=
  if nFields ≤ field then .fault .noSuchUnit
  else .next (match (s.field field).speedTo with
    | none => s
    | some h =>
      if (s.now - (s.field field).zero) % 16 ≠ 0 ∨ (s.field field).half = h then s.modField field fun d => { d with speedTo := none }
      else
        let s := (s.retimeUnits field h).modField field fun d => { d with half := h, speedTo := none }
        let mine (e : Nat × Instr) : Bool := s.clockOf e.2 == some field
        let moved := s.agenda.filter mine
        let s := moved.foldl (fun (t : State) e => t.postRank (retime h t.now (e.1 / 8)) (e.1 % 8) e.2)
          { s with agenda := s.agenda.filter (!mine ·) }
        -- R330: the gateway sees once more what has arrived by the new clock
        let s := s.regions.foldl (fun (t : State) p => if p.2.running && p.2.fields.contains field then
          (List.range 8).foldl (fun t k => t.tellGateway p.1 k field) t else t) s
        s.msiAll 3)

/-! Module reset (R320, R350, R351). -/

/-- R320: every ordered pair of live routers is joined by a route or a relay. -/
def Boot.joined (b : Boot) : Bool :=
  let live := (List.range nCores).filter fun c => !b.dead.contains c
  live.all fun x => live.all fun y => (route b x y).isSome ||
    ((route b x (b.relayOf x)).isSome && (route b (b.relayOf x) y).isSome)

/-- R320: marks further routers dead, by descending field and flue number, until every pair is joined. -/
def Boot.prune (b : Boot) : List Nat → Option Boot
  | [] => if b.joined then some b else none
  | c :: cs =>
    if b.joined then some b
    else if b.dead.contains c ∨ (List.range nFields).any (fun f => b.gateway f == c) then b.prune cs
    else Boot.prune { b with dead := c :: b.dead } cs

/-- R320: the flue map that the field controllers apply. Without a dead router every pair is joined (R319). -/
def Boot.check (b : Boot) : Option Boot :=
  if b.dead = [] then some b
  else b.prune ((List.range nCores).map fun i => flueCore ((nCores - 1 - i) / 1024) ((nCores - 1 - i) % 1024))

/-- An event that comes from outside the wafer, which a module reset does not undo. -/
def isInput : Instr → Bool
  | .registerWrite .. | .plimWrite _ | .hostWindowRead .. | .hostWindowWrite .. | .ldoor _ | .adoor _
  | .securityAlarm | .moduleReset | .regionStart _ | .ownerChange .. | .thermalReading .. | .lockstepMismatch _
  | .fatalError _ | .peerFrame .. => true
  | _ => false

/-- R350: the module after a reset. -/
def Module.afterReset (m : Module) : Module :=
  { stepping := m.stepping, variant := m.variant, peer := m.peer, wafers := m.wafers, alarms := m.alarms, boot := m.boot, acert := m.acert, excl := m.excl, serial := m.serial, resets := m.resets + 1, msix := m.msix,
    hostOut := m.hostOut, peerOut := m.peerOut, rails := m.rails }

/-- R351: the slots of the exclusion list are out of service. -/
def State.applyExclusion (s : State) : State :=
  s.module.excl.foldl (fun (t : State) (_, w) =>
    if w.getLsbD 63 = false then t
    else match coreAt (bits w.toNat 32 9) (bits w.toNat 24 8) with
      | none => t
      | some c => t.modSlot (8 * c + bits w.toNat 0 3) fun v => { v with mode := .outOfService, barred := true }) s

/-- R221, R304: owner 0 cannot read the byte, since it was written under the key of another owner, or the keys are gone. -/
def State.foreign (s : State) (key : Nat) : Bool :=
  s.module.alarm == 2 || Tab.get (s.home (keyHome key)).bankOwner (keyBank key) 0 != 0

/-- R221: what DRAM holds once every bank is owner 0's: a byte that was written under another key, or under one that is gone,
reads as a free value. Log 48. -/
def State.decrypted (s : State) : List Host.Cell :=
  s.mem.filterMap fun c =>
    if 2 ^ 44 ≤ c.1 then none
    else if s.foreign c.1 then
      let b := Config.undecrypted s.free c.1
      if b = unlistedByte then none else some (c.1, b)
    else some c

/-- R350: what a module reset leaves of the machine before the fields start: DRAM, its tags and its errors, the plans, and
what the outside will still do. A slice is cleared (R204). -/
def State.bare (s : State) : State :=
  { now := s.now, nextId := s.nextId, free := s.free + 1, mem := s.decrypted,
    tags := s.tags.filter (fun c => decide (8 * c.1 < 2 ^ 44)), bad := s.bad.filter (fun a => decide (a < 2 ^ 44)),
    soft := s.soft.filter (fun a => decide (a < 2 ^ 44)), plans := s.plans, asids := s.asids, agenda := s.agenda.filter (fun e => isInput e.2), module := s.module.afterReset }

/-- R320, R327, R350, R351, R353: a module reset. The slots of cores that the map does not enable stay vacant, and never take
up an ember (R3, R4). -/
def execModuleReset (s : State) : Out State :=
  .next (
    let s := s.bare
    let boot := if Config.verifyBoot s.module.boot.digest s.module.boot.signature then s.module.boot.check else none
    match boot with
    | none => (s.modModule fun m => { m with astat := 3 }).msiAll 4
    | some b =>
      let s := s.modModule fun m => { m with boot := b }
      let s := (List.range nFields).foldl (fun (t : State) f =>
        (t.modField f fun d => { d with started := true, zero := t.now }).post (t.now + 65536) (.replicaPeriod f)) s
      s.writeFabric.applyExclusion.post (s.now + 65536) (.powerCheck 95 90))

end Sys2Proof.Machine
end

