-- ==== Sys2Proof/Machine/Replies.lean ====
section
/-! DEFINITION. Replies and acknowledgements that reach a core (R30, R142, R169 to R171, R217, R285). -/

namespace Sys2Proof.Machine

/-- The state that an outcome names, or else s. -/
def outState (o : Out State) (s : State) : State :=
  match o with
  | .next t => t
  | _ => s

/-- The meaning, in slot cur, of an instruction word that reads a block (R138, R188, R270, R282). -/
def State.blockMeaning (s : State) (w : Code) : Out State :=
  let n := w.toNat
  let rd : Reg := BitVec.ofNat 5 (bits n 7 5)
  let a : Reg := BitVec.ofNat 5 (bits n 15 5)
  let b : Reg := BitVec.ofNat 5 (bits n 20 5)
  match n % 128, bits n 12 3 with
  | 0x0B, 2 => execDput rd a b s
  | 0x0B, _ => execTgopen rd a b s
  | _, 2 => execMsct (BitVec.ofNat 3 (bits n 7 3)) a s
  | _, _ =>
    let q : BitVec 1 := BitVec.ofNat 1 (bits n 25 1)
    match bits n 26 6 with
    | 0 => execCpy rd a b q s
    | 1 => execCpy2 rd a b q s
    | 2 => execCpyz rd a b q s
    | 3 => execCput rd a b q s
    | _ => execCget rd a b q s

/-- R138, R188, R270, R282: the words of a block have arrived, and the instruction of slot k goes on with them at once; a
trap waits for the slot's issue cycle. -/
def State.blockArrived (s : State) (k : Nat) (ws : List Word) : State :=
  let with_ := s.modSlot k fun v => { v with block := some ws }
  let t := outState (State.blockMeaning { with_ with cur := k } (s.slot k).word) s
  if (t.slot k).lastIssue = some s.now then with_.wakeAt k s.now
  else { t with cur := s.cur }.modSlot k fun v => { v with due := v.due.map fun _ => t.nextIssue k t.now }

/-- R138: a `dput` that has its words goes on once every access and message before it is done. -/
def State.dputGoesOn (s : State) (k : Nat) : State :=
  let v := s.slot k
  match v.block with
  | some ws =>
    if v.mode = .active ∧ v.due = none ∧ v.outs.isEmpty ∧ v.word.toNat % 2 ^ 15 / 2 ^ 12 = 2 ∧ v.word.toNat % 128 = 0x0B
    then s.blockArrived k ws else s
  | none => s

/-- R169: one read of a `vdqnt` has come: its bytes go to the other read while that is out, and else to the lanes. -/
def State.dequantPart (s : State) (k : Nat) (f : Flight) : State :=
  match f.pair.bind s.flight? with
  | some g =>
    let g := { g with pair := none, bytes := if f.cause = 0 then f.args else [] }
    { s with flights := Tab.set s.flights (f.pair.getD 0) g }
  | none => if f.cause = 0 then s.putDequant k f f.dequantBytes else s

/-- R243: one read of a block has come: the words go to the other read while that is out; else the block is complete, or
the first word that met a fault is known. -/
def State.blockPart (s : State) (k : Nat) (f : Flight) : State :=
  let mine := if f.cause = 0 then none else some (f.cause, f.tval)
  match f.pair.bind s.flight? with
  | some g => { s with flights := Tab.set s.flights (f.pair.getD 0) { g with pair := none, bytes := f.args, fault := mine } }
  | none =>
    match (if f.aux = 0 then mine.or f.fault else f.fault.or mine) with
    | some (c, a) => s.trapLater k c a
    | none => s.blockArrived k (if f.aux = 0 then f.args ++ f.bytes else f.bytes ++ f.args)

/-- The kinds of reply that bring a row or part of one, behind an instruction that has retired. -/
def Flight.toRow (f : Flight) : Bool := f.op == opRow || f.op == opGather || f.op == opDequant

/-- What the data of a reply do in the slot that asked. R173 does not say whether an issue cycle in the very clk in which the
last row of a far `vrest` arrives comes after it: in the model it does. DESIGN CHOICE, log 67. -/
def State.deliver (s : State) (k : Nat) (f : Flight) : State :=
  if f.op = opRow then s.setRow k f.rd f.data
  else if f.op = opGather then s.putWords k f.rd ((maskLanes f.aux).zip (f.args.map (·.toNat)))
  else if f.op = opWindow then (s.putWindow k f.args).complete k
  else
    let s := s.modSlot k fun v =>
      if f.op = opScalar then
        if f.isF then v.setF f.rd (f.data.setWidth 32) else v.setX f.rd (loadValue f.data.toNat f.size f.sext)
      else v.setX f.rd (f.data.setWidth 64)
    s.complete k

/-- R217, R30: data or a refusal return to the slot that asked. A refused row read is reported, and so is an append that would
merge into an uncorrectable unit, which goes on (R237, log 59); any other refusal is a trap. -/
def execLoadReply (flight : Nat) (s : State) : Out State :=
  .next (match s.flight? flight with
  | none => s
  | some f =>
    let k := f.slot
    let v := s.slot k
    let here := v.ember == f.ember && f.ember != 0 && !f.dead
    let s := s.land flight
    let s := if here then (s.dropOut k flight).modSlot k fun v => { v with
      rowPend := v.rowPend.filter fun p => p.1 != flight } else s
    let s := s.releaseHeld f.src flight
    if f.op = opPeer then
      if f.cause = 0 then s.sendFrame f.aux [2, 0, s.module.devnum.setWidth 64, BitVec.ofNat 64 f.key] f.data else s
    else if !here then s
    else if f.op = opBlock then s.blockPart k f
    else
      let late := f.toRow || (f.op == opAppend && f.cause == 0x0F)
      let s := if f.cause = 0 then s else if late then s.report k f.ember f.cause f.tval else s.trapLater k f.cause f.tval
      let s := if f.op = opDequant then s.dequantPart k f
        else if f.cause = 0 ∨ late && !f.toRow then s.deliver k f else s
      if f.toRow then s.dputGoesOn k else s)

/-- R30, R142: a home or a destination has acknowledged; what waited for it leaves. A refusal is an imprecise report. -/
def execAcknowledgement (flight : Nat) (s : State) : Out State :=
  .next (match s.flight? flight with
  | none => s
  | some f =>
    let k := f.slot
    let v := s.slot k
    let here := v.ember == f.ember && f.ember != 0 && !f.dead
    let s := s.land flight
    let s := if here then s.dropOut k flight else s
    let s := s.releaseHeld f.src flight
    let s := if f.cause = 0 then s
      else if f.dead then s.lostReport k f.ember 0 f.owner f.asid f.cause f.tval else s.report k f.ember f.cause f.tval
    if here then s.dputGoesOn k else s)

end Sys2Proof.Machine
end

