-- ==== Sys2Proof/Machine/Dispatch.lean ====
section
/-! DEFINITION. The meaning of every instruction, one arm per constructor. -/

namespace Sys2Proof.Machine

def exec (i : Instr) (s : State) : Host.Outcome State Fault Refusal :=
  match i with
  | .impreciseReport slot ember cause val => Sys2Proof.Machine.execImpreciseReport slot ember cause val s
  | .pendingTrapDelivery slot => Sys2Proof.Machine.execPendingTrapDelivery slot s
  | .emberTakeup slot => Sys2Proof.Machine.execEmberTakeup slot s
  | .emberRestore slot => Sys2Proof.Machine.execEmberRestore slot s
  | .suspendWriteback slot => Sys2Proof.Machine.execSuspendWriteback slot s
  | .attractionMove slot => Sys2Proof.Machine.execAttractionMove slot s
  | .migrationArrival core ember => Sys2Proof.Machine.execMigrationArrival core ember s
  | .dispenserItemArrival flight => Sys2Proof.Machine.execDispenserItemArrival flight s
  | .dispenserHandover cluster => Sys2Proof.Machine.execDispenserHandover cluster s
  | .ldoor port => Sys2Proof.Machine.execLdoor port s
  | .launchDescriptor launch => Sys2Proof.Machine.execLaunchDescriptor launch s
  | .chunkFinished launch chunk => Sys2Proof.Machine.execChunkFinished launch chunk s
  | .launchCompletion launch => Sys2Proof.Machine.execLaunchCompletion launch s
  | .masterReelection field => Sys2Proof.Machine.execMasterReelection field s
  | .deadlineExpiry ember armed => Sys2Proof.Machine.execDeadlineExpiry ember armed s
  | .parkTimeout ember since => Sys2Proof.Machine.execParkTimeout ember since s
  | .messageArrival flight => Sys2Proof.Machine.execMessageArrival flight s
  | .queueRefill core q => Sys2Proof.Machine.execQueueRefill core q s
  | .acknowledgement flight => Sys2Proof.Machine.execAcknowledgement flight s
  | .loadReply flight => Sys2Proof.Machine.execLoadReply flight s
  | .farLoadAtHome flight => Sys2Proof.Machine.execFarLoadAtHome flight s
  | .farStoreAtHome flight => Sys2Proof.Machine.execFarStoreAtHome flight s
  | .atomicAtHome flight => Sys2Proof.Machine.execAtomicAtHome flight s
  | .versionedLoadAtHome flight => Sys2Proof.Machine.execVersionedLoadAtHome flight s
  | .versionedStoreAtHome flight => Sys2Proof.Machine.execVersionedStoreAtHome flight s
  | .versionedReply flight => Sys2Proof.Machine.execVersionedReply flight s
  | .vrclAtHome flight => Sys2Proof.Machine.execVrclAtHome flight s
  | .appendAtHome flight => Sys2Proof.Machine.execAppendAtHome flight s
  | .sealAtHome flight => Sys2Proof.Machine.execSealAtHome flight s
  | .leafSealOr flight => Sys2Proof.Machine.execLeafSealOr flight s
  | .sealReportAck flight => Sys2Proof.Machine.execSealReportAck flight s
  | .sreplAccept flight => Sys2Proof.Machine.execSreplAccept flight s
  | .replicaCreate field frame => Sys2Proof.Machine.execReplicaCreate field frame s
  | .replicaCopyDone field frame => Sys2Proof.Machine.execReplicaCopyDone field frame s
  | .replicaDrop field frame => Sys2Proof.Machine.execReplicaDrop field frame s
  | .replicaPeriod field => Sys2Proof.Machine.execReplicaPeriod field s
  | .pageWalk slot va => Sys2Proof.Machine.execPageWalk slot va s
  | .ownerChange kind unit owner => Sys2Proof.Machine.execOwnerChange kind unit owner s
  | .zeroingDone kind unit => Sys2Proof.Machine.execZeroingDone kind unit s
  | .thermalReading core temps => Sys2Proof.Machine.execThermalReading core temps s
  | .meterAdmit unit => Sys2Proof.Machine.execMeterAdmit unit s
  | .tcallAtHome flight => Sys2Proof.Machine.execTcallAtHome flight s
  | .backingTableLookup flight => Sys2Proof.Machine.execBackingTableLookup flight s
  | .tcallReply flight => Sys2Proof.Machine.execTcallReply flight s
  | .tlookAtHome flight => Sys2Proof.Machine.execTlookAtHome flight s
  | .publicationAtHome flight => Sys2Proof.Machine.execPublicationAtHome flight s
  | .consumerResume cluster ember => Sys2Proof.Machine.execConsumerResume cluster ember s
  | .groupOpenAtHome flight => Sys2Proof.Machine.execGroupOpenAtHome flight s
  | .groupCloseAtHome flight => Sys2Proof.Machine.execGroupCloseAtHome flight s
  | .groupSealWriteback flight => Sys2Proof.Machine.execGroupSealWriteback flight s
  | .groupDropAtHome flight => Sys2Proof.Machine.execGroupDropAtHome flight s
  | .groupReport flight => Sys2Proof.Machine.execGroupReport flight s
  | .probeRoundStart group => Sys2Proof.Machine.execProbeRoundStart group s
  | .probeQuestion flight => Sys2Proof.Machine.execProbeQuestion flight s
  | .probeAnswer flight => Sys2Proof.Machine.execProbeAnswer flight s
  | .producerKillAtHome flight => Sys2Proof.Machine.execProducerKillAtHome flight s
  | .answerEntryError cluster index => Sys2Proof.Machine.execAnswerEntryError cluster index s
  | .vectorEntryExecute slot => Sys2Proof.Machine.execVectorEntryExecute slot s
  | .matrixEnqueue slot => Sys2Proof.Machine.execMatrixEnqueue slot s
  | .matrixGrant cluster => Sys2Proof.Machine.execMatrixGrant cluster s
  | .matrixOperandArrival core => Sys2Proof.Machine.execMatrixOperandArrival core s
  | .matrixSetback cluster => Sys2Proof.Machine.execMatrixSetback cluster s
  | .matrixComplete cluster => Sys2Proof.Machine.execMatrixComplete cluster s
  | .copyChunk cluster => Sys2Proof.Machine.execCopyChunk cluster s
  | .copyQueueReset core q => Sys2Proof.Machine.execCopyQueueReset core q s
  | .peerFrame device sown rown addr len put data => Sys2Proof.Machine.execPeerFrame device sown rown addr len put data s
  | .peerChunkAck flight refused data => Sys2Proof.Machine.execPeerChunkAck flight refused data s
  | .peerAckTimeout flight => Sys2Proof.Machine.execPeerAckTimeout flight s
  | .relayAccept flight => Sys2Proof.Machine.execRelayAccept flight s
  | .relayReinject field => Sys2Proof.Machine.execRelayReinject field s
  | .barrierAndUpdate region ctx field => Sys2Proof.Machine.execBarrierAndUpdate region ctx field s
  | .barrierRelease region ctx => Sys2Proof.Machine.execBarrierRelease region ctx s
  | .barrierReleaseSeen region ctx field => Sys2Proof.Machine.execBarrierReleaseSeen region ctx field s
  | .barrierMaskSet core => Sys2Proof.Machine.execBarrierMaskSet core s
  | .collContribution flight => Sys2Proof.Machine.execCollContribution flight s
  | .collPartialAtRoot flight => Sys2Proof.Machine.execCollPartialAtRoot flight s
  | .collResultDelivery flight => Sys2Proof.Machine.execCollResultDelivery flight s
  | .scmdStop slot => Sys2Proof.Machine.execScmdStop slot s
  | .scmdRestart slot => Sys2Proof.Machine.execScmdRestart slot s
  | .scmdStep slot => Sys2Proof.Machine.execScmdStep slot s
  | .scmdKill slot => Sys2Proof.Machine.execScmdKill slot s
  | .scmdRestore slot => Sys2Proof.Machine.execScmdRestore slot s
  | .slotKill slot => Sys2Proof.Machine.execSlotKill slot s
  | .preemptSlot slot => Sys2Proof.Machine.execPreemptSlot slot s
  | .preemptBudgetExhausted region => Sys2Proof.Machine.execPreemptBudgetExhausted region s
  | .regionStart region => Sys2Proof.Machine.execRegionStart region s
  | .regionStop region => Sys2Proof.Machine.execRegionStop region s
  | .kernelKill slot => Sys2Proof.Machine.execKernelKill slot s
  | .trapForward slot => Sys2Proof.Machine.execTrapForward slot s
  | .demandPageMap slot frame => Sys2Proof.Machine.execDemandPageMap slot frame s
  | .pageMigration slot frame => Sys2Proof.Machine.execPageMigration slot frame s
  | .timeoutResume slot => Sys2Proof.Machine.execTimeoutResume slot s
  | .ebreakStop slot => Sys2Proof.Machine.execEbreakStop slot s
  | .ecallForwardRegister slot => Sys2Proof.Machine.execEcallForwardRegister slot s
  | .ecallRouteWrite slot => Sys2Proof.Machine.execEcallRouteWrite slot s
  | .ecallLaunch slot => Sys2Proof.Machine.execEcallLaunch slot s
  | .ecallRetire slot => Sys2Proof.Machine.execEcallRetire slot s
  | .hwBreakpointStop slot => Sys2Proof.Machine.execHwBreakpointStop slot s
  | .counterSetRotate core => Sys2Proof.Machine.execCounterSetRotate core s
  | .flagUnionClear cluster ones => Sys2Proof.Machine.execFlagUnionClear cluster ones s
  | .registerWrite offset value => Sys2Proof.Machine.execRegisterWrite offset value s
  | .plimWrite value => Sys2Proof.Machine.execPlimWrite value s
  | .hostWindowRead port offset => Sys2Proof.Machine.execHostWindowRead port offset s
  | .hostWindowWrite port offset value => Sys2Proof.Machine.execHostWindowWrite port offset value s
  | .adoor port => Sys2Proof.Machine.execAdoor port s
  | .attestReportReady sig => Sys2Proof.Machine.execAttestReportReady sig s
  | .powerCheck hot cool => Sys2Proof.Machine.execPowerCheck hot cool s
  | .speedChange field => Sys2Proof.Machine.execSpeedChange field s
  | .lockstepMismatch field => Sys2Proof.Machine.execLockstepMismatch field s
  | .firmwareRestart field => Sys2Proof.Machine.execFirmwareRestart field s
  | .securityAlarm => Sys2Proof.Machine.execSecurityAlarm s
  | .moduleReset => Sys2Proof.Machine.execModuleReset s
  | .illegalInstruction word => Sys2Proof.Machine.execIllegalInstruction word s
  | .fetchFault cause val => Sys2Proof.Machine.execFetchFault cause val s
  | .issueCycle core => Sys2Proof.Machine.execIssueCycle core s
  | .emberRestart ember => Sys2Proof.Machine.execEmberRestart ember s
  | .poolExtension region page => Sys2Proof.Machine.execPoolExtension region page s
  | .quarantineLift field node => Sys2Proof.Machine.execQuarantineLift field node s
  | .fatalError field => Sys2Proof.Machine.execFatalError field s
  | .lui rd imm20 => Sys2Proof.Machine.execLui rd imm20 s
  | .auipc rd imm20 => Sys2Proof.Machine.execAuipc rd imm20 s
  | .jal rd imm20 => Sys2Proof.Machine.execJal rd imm20 s
  | .jalr rd rs1 imm12 => Sys2Proof.Machine.execJalr rd rs1 imm12 s
  | .beq rs1 rs2 imm12 => Sys2Proof.Machine.execBeq rs1 rs2 imm12 s
  | .bne rs1 rs2 imm12 => Sys2Proof.Machine.execBne rs1 rs2 imm12 s
  | .blt rs1 rs2 imm12 => Sys2Proof.Machine.execBlt rs1 rs2 imm12 s
  | .bge rs1 rs2 imm12 => Sys2Proof.Machine.execBge rs1 rs2 imm12 s
  | .bltu rs1 rs2 imm12 => Sys2Proof.Machine.execBltu rs1 rs2 imm12 s
  | .bgeu rs1 rs2 imm12 => Sys2Proof.Machine.execBgeu rs1 rs2 imm12 s
  | .lb rd rs1 imm12 => Sys2Proof.Machine.execLb rd rs1 imm12 s
  | .lh rd rs1 imm12 => Sys2Proof.Machine.execLh rd rs1 imm12 s
  | .lw rd rs1 imm12 => Sys2Proof.Machine.execLw rd rs1 imm12 s
  | .ld rd rs1 imm12 => Sys2Proof.Machine.execLd rd rs1 imm12 s
  | .lbu rd rs1 imm12 => Sys2Proof.Machine.execLbu rd rs1 imm12 s
  | .lhu rd rs1 imm12 => Sys2Proof.Machine.execLhu rd rs1 imm12 s
  | .lwu rd rs1 imm12 => Sys2Proof.Machine.execLwu rd rs1 imm12 s
  | .sb rs1 rs2 imm12 => Sys2Proof.Machine.execSb rs1 rs2 imm12 s
  | .sh rs1 rs2 imm12 => Sys2Proof.Machine.execSh rs1 rs2 imm12 s
  | .sw rs1 rs2 imm12 => Sys2Proof.Machine.execSw rs1 rs2 imm12 s
  | .sd rs1 rs2 imm12 => Sys2Proof.Machine.execSd rs1 rs2 imm12 s
  | .addi rd rs1 imm12 => Sys2Proof.Machine.execAddi rd rs1 imm12 s
  | .slti rd rs1 imm12 => Sys2Proof.Machine.execSlti rd rs1 imm12 s
  | .sltiu rd rs1 imm12 => Sys2Proof.Machine.execSltiu rd rs1 imm12 s
  | .xori rd rs1 imm12 => Sys2Proof.Machine.execXori rd rs1 imm12 s
  | .ori rd rs1 imm12 => Sys2Proof.Machine.execOri rd rs1 imm12 s
  | .andi rd rs1 imm12 => Sys2Proof.Machine.execAndi rd rs1 imm12 s
  | .slli rd rs1 sh6 => Sys2Proof.Machine.execSlli rd rs1 sh6 s
  | .srli rd rs1 sh6 => Sys2Proof.Machine.execSrli rd rs1 sh6 s
  | .srai rd rs1 sh6 => Sys2Proof.Machine.execSrai rd rs1 sh6 s
  | .add rd rs1 rs2 => Sys2Proof.Machine.execAdd rd rs1 rs2 s
  | .sub rd rs1 rs2 => Sys2Proof.Machine.execSub rd rs1 rs2 s
  | .sll rd rs1 rs2 => Sys2Proof.Machine.execSll rd rs1 rs2 s
  | .slt rd rs1 rs2 => Sys2Proof.Machine.execSlt rd rs1 rs2 s
  | .sltu rd rs1 rs2 => Sys2Proof.Machine.execSltu rd rs1 rs2 s
  | .xor rd rs1 rs2 => Sys2Proof.Machine.execXor rd rs1 rs2 s
  | .srl rd rs1 rs2 => Sys2Proof.Machine.execSrl rd rs1 rs2 s
  | .sra rd rs1 rs2 => Sys2Proof.Machine.execSra rd rs1 rs2 s
  | .or rd rs1 rs2 => Sys2Proof.Machine.execOr rd rs1 rs2 s
  | .and rd rs1 rs2 => Sys2Proof.Machine.execAnd rd rs1 rs2 s
  | .addiw rd rs1 imm12 => Sys2Proof.Machine.execAddiw rd rs1 imm12 s
  | .slliw rd rs1 sh5 => Sys2Proof.Machine.execSlliw rd rs1 sh5 s
  | .srliw rd rs1 sh5 => Sys2Proof.Machine.execSrliw rd rs1 sh5 s
  | .sraiw rd rs1 sh5 => Sys2Proof.Machine.execSraiw rd rs1 sh5 s
  | .addw rd rs1 rs2 => Sys2Proof.Machine.execAddw rd rs1 rs2 s
  | .subw rd rs1 rs2 => Sys2Proof.Machine.execSubw rd rs1 rs2 s
  | .sllw rd rs1 rs2 => Sys2Proof.Machine.execSllw rd rs1 rs2 s
  | .srlw rd rs1 rs2 => Sys2Proof.Machine.execSrlw rd rs1 rs2 s
  | .sraw rd rs1 rs2 => Sys2Proof.Machine.execSraw rd rs1 rs2 s
  | .mul rd rs1 rs2 => Sys2Proof.Machine.execMul rd rs1 rs2 s
  | .mulh rd rs1 rs2 => Sys2Proof.Machine.execMulh rd rs1 rs2 s
  | .mulhsu rd rs1 rs2 => Sys2Proof.Machine.execMulhsu rd rs1 rs2 s
  | .mulhu rd rs1 rs2 => Sys2Proof.Machine.execMulhu rd rs1 rs2 s
  | .div rd rs1 rs2 => Sys2Proof.Machine.execDiv rd rs1 rs2 s
  | .divu rd rs1 rs2 => Sys2Proof.Machine.execDivu rd rs1 rs2 s
  | .rem rd rs1 rs2 => Sys2Proof.Machine.execRem rd rs1 rs2 s
  | .remu rd rs1 rs2 => Sys2Proof.Machine.execRemu rd rs1 rs2 s
  | .mulw rd rs1 rs2 => Sys2Proof.Machine.execMulw rd rs1 rs2 s
  | .divw rd rs1 rs2 => Sys2Proof.Machine.execDivw rd rs1 rs2 s
  | .divuw rd rs1 rs2 => Sys2Proof.Machine.execDivuw rd rs1 rs2 s
  | .remw rd rs1 rs2 => Sys2Proof.Machine.execRemw rd rs1 rs2 s
  | .remuw rd rs1 rs2 => Sys2Proof.Machine.execRemuw rd rs1 rs2 s
  | .fence => Sys2Proof.Machine.execFence s
  | .fenceI => Sys2Proof.Machine.execFenceI s
  | .ecall => Sys2Proof.Machine.execEcall s
  | .ebreak => Sys2Proof.Machine.execEbreak s
  | .flw rd rs1 imm12 => Sys2Proof.Machine.execFlw rd rs1 imm12 s
  | .fsw rs1 rs2 imm12 => Sys2Proof.Machine.execFsw rs1 rs2 imm12 s
  | .fmaddS rd rs1 rs2 rs3 rm => Sys2Proof.Machine.execFmaddS rd rs1 rs2 rs3 rm s
  | .fmsubS rd rs1 rs2 rs3 rm => Sys2Proof.Machine.execFmsubS rd rs1 rs2 rs3 rm s
  | .fnmsubS rd rs1 rs2 rs3 rm => Sys2Proof.Machine.execFnmsubS rd rs1 rs2 rs3 rm s
  | .fnmaddS rd rs1 rs2 rs3 rm => Sys2Proof.Machine.execFnmaddS rd rs1 rs2 rs3 rm s
  | .faddS rd rs1 rs2 rm => Sys2Proof.Machine.execFaddS rd rs1 rs2 rm s
  | .fsubS rd rs1 rs2 rm => Sys2Proof.Machine.execFsubS rd rs1 rs2 rm s
  | .fmulS rd rs1 rs2 rm => Sys2Proof.Machine.execFmulS rd rs1 rs2 rm s
  | .fdivS rd rs1 rs2 rm => Sys2Proof.Machine.execFdivS rd rs1 rs2 rm s
  | .fsqrtS rd rs1 rm => Sys2Proof.Machine.execFsqrtS rd rs1 rm s
  | .fsgnjS rd rs1 rs2 => Sys2Proof.Machine.execFsgnjS rd rs1 rs2 s
  | .fsgnjnS rd rs1 rs2 => Sys2Proof.Machine.execFsgnjnS rd rs1 rs2 s
  | .fsgnjxS rd rs1 rs2 => Sys2Proof.Machine.execFsgnjxS rd rs1 rs2 s
  | .fminS rd rs1 rs2 => Sys2Proof.Machine.execFminS rd rs1 rs2 s
  | .fmaxS rd rs1 rs2 => Sys2Proof.Machine.execFmaxS rd rs1 rs2 s
  | .fcvtWS rd rs1 rm => Sys2Proof.Machine.execFcvtWS rd rs1 rm s
  | .fcvtWuS rd rs1 rm => Sys2Proof.Machine.execFcvtWuS rd rs1 rm s
  | .fcvtLS rd rs1 rm => Sys2Proof.Machine.execFcvtLS rd rs1 rm s
  | .fcvtLuS rd rs1 rm => Sys2Proof.Machine.execFcvtLuS rd rs1 rm s
  | .fcvtSW rd rs1 rm => Sys2Proof.Machine.execFcvtSW rd rs1 rm s
  | .fcvtSWu rd rs1 rm => Sys2Proof.Machine.execFcvtSWu rd rs1 rm s
  | .fcvtSL rd rs1 rm => Sys2Proof.Machine.execFcvtSL rd rs1 rm s
  | .fcvtSLu rd rs1 rm => Sys2Proof.Machine.execFcvtSLu rd rs1 rm s
  | .feqS rd rs1 rs2 => Sys2Proof.Machine.execFeqS rd rs1 rs2 s
  | .fltS rd rs1 rs2 => Sys2Proof.Machine.execFltS rd rs1 rs2 s
  | .fleS rd rs1 rs2 => Sys2Proof.Machine.execFleS rd rs1 rs2 s
  | .fmvXW rd rs1 => Sys2Proof.Machine.execFmvXW rd rs1 s
  | .fclassS rd rs1 => Sys2Proof.Machine.execFclassS rd rs1 s
  | .fmvWX rd rs1 => Sys2Proof.Machine.execFmvWX rd rs1 s
  | .csrrw rd rs1 csr => Sys2Proof.Machine.execCsrrw rd rs1 csr s
  | .csrrs rd rs1 csr => Sys2Proof.Machine.execCsrrs rd rs1 csr s
  | .csrrc rd rs1 csr => Sys2Proof.Machine.execCsrrc rd rs1 csr s
  | .csrrwi rd z csr => Sys2Proof.Machine.execCsrrwi rd z csr s
  | .csrrsi rd z csr => Sys2Proof.Machine.execCsrrsi rd z csr s
  | .csrrci rd z csr => Sys2Proof.Machine.execCsrrci rd z csr s
  | .xret => Sys2Proof.Machine.execXret s
  | .tlbinv rs1 rs2 => Sys2Proof.Machine.execTlbinv rs1 rs2 s
  | .sig sigv len => Sys2Proof.Machine.execSig sigv len s
  | .spawn rd rs1 rs2 => Sys2Proof.Machine.execSpawn rd rs1 rs2 s
  | .park => Sys2Proof.Machine.execPark s
  | .yield => Sys2Proof.Machine.execYield s
  | .exit => Sys2Proof.Machine.execExit s
  | .send rs1 rs2 => Sys2Proof.Machine.execSend rs1 rs2 s
  | .sendV rs1 rs2 => Sys2Proof.Machine.execSendV rs1 rs2 s
  | .recv rd rs1 => Sys2Proof.Machine.execRecv rd rs1 s
  | .recvV rd rs1 => Sys2Proof.Machine.execRecvV rd rs1 s
  | .rpoll rd rs1 => Sys2Proof.Machine.execRpoll rd rs1 s
  | .wfw => Sys2Proof.Machine.execWfw s
  | .dput rd rs1 rs2 => Sys2Proof.Machine.execDput rd rs1 rs2 s
  | .dlarm rs1 => Sys2Proof.Machine.execDlarm rs1 s
  | .dldone => Sys2Proof.Machine.execDldone s
  | .tcall rs1 n => Sys2Proof.Machine.execTcall rs1 n s
  | .tret rs1 => Sys2Proof.Machine.execTret rs1 s
  | .tfail rs1 rs2 => Sys2Proof.Machine.execTfail rs1 rs2 s
  | .tlook rd rs1 n => Sys2Proof.Machine.execTlook rd rs1 n s
  | .tgopen rd rs1 rs2 => Sys2Proof.Machine.execTgopen rd rs1 rs2 s
  | .tgclose rs1 => Sys2Proof.Machine.execTgclose rs1 s
  | .tgseal rs1 => Sys2Proof.Machine.execTgseal rs1 s
  | .tgdrop rs1 => Sys2Proof.Machine.execTgdrop rs1 s
  | .barA rs1 => Sys2Proof.Machine.execBarA rs1 s
  | .barW rs1 => Sys2Proof.Machine.execBarW rs1 s
  | .barAw rs1 => Sys2Proof.Machine.execBarAw rs1 s
  | .collRed rd rs1 rs2 => Sys2Proof.Machine.execCollRed rd rs1 rs2 s
  | .collBc rd rs1 rs2 => Sys2Proof.Machine.execCollBc rd rs1 rs2 s
  | .waitc l s' c t => Sys2Proof.Machine.execWaitc l s' c t s
  | .vld rd rs1 off g => Sys2Proof.Machine.execVld rd rs1 off g s
  | .vst rs1 rs2 off g => Sys2Proof.Machine.execVst rs1 rs2 off g s
  | .vtake rd rs1 off g => Sys2Proof.Machine.execVtake rd rs1 off g s
  | .amaddW rd rs1 rs2 => Sys2Proof.Machine.execAmaddW rd rs1 rs2 s
  | .amaddD rd rs1 rs2 => Sys2Proof.Machine.execAmaddD rd rs1 rs2 s
  | .amsminW rd rs1 rs2 => Sys2Proof.Machine.execAmsminW rd rs1 rs2 s
  | .amsminD rd rs1 rs2 => Sys2Proof.Machine.execAmsminD rd rs1 rs2 s
  | .amsmaxW rd rs1 rs2 => Sys2Proof.Machine.execAmsmaxW rd rs1 rs2 s
  | .amsmaxD rd rs1 rs2 => Sys2Proof.Machine.execAmsmaxD rd rs1 rs2 s
  | .amuminW rd rs1 rs2 => Sys2Proof.Machine.execAmuminW rd rs1 rs2 s
  | .amuminD rd rs1 rs2 => Sys2Proof.Machine.execAmuminD rd rs1 rs2 s
  | .amumaxW rd rs1 rs2 => Sys2Proof.Machine.execAmumaxW rd rs1 rs2 s
  | .amumaxD rd rs1 rs2 => Sys2Proof.Machine.execAmumaxD rd rs1 rs2 s
  | .amswapW rd rs1 rs2 => Sys2Proof.Machine.execAmswapW rd rs1 rs2 s
  | .amswapD rd rs1 rs2 => Sys2Proof.Machine.execAmswapD rd rs1 rs2 s
  | .amcasW rd rs1 rs2 => Sys2Proof.Machine.execAmcasW rd rs1 rs2 s
  | .amcasD rd rs1 rs2 => Sys2Proof.Machine.execAmcasD rd rs1 rs2 s
  | .apndD rd rs1 rs2 => Sys2Proof.Machine.execApndD rd rs1 rs2 s
  | .apndV rd rs1 rs2 lll => Sys2Proof.Machine.execApndV rd rs1 rs2 lll s
  | .seal rd rs1 => Sys2Proof.Machine.execSeal rd rs1 s
  | .roam rs1 => Sys2Proof.Machine.execRoam rs1 s
  | .vtag rd rs1 => Sys2Proof.Machine.execVtag rd rs1 s
  | .vrcl rs1 rs2 => Sys2Proof.Machine.execVrcl rs1 rs2 s
  | .srepl rs1 rs2 => Sys2Proof.Machine.execSrepl rs1 rs2 s
  | .fncC => Sys2Proof.Machine.execFncC s
  | .fncL => Sys2Proof.Machine.execFncL s
  | .fncF => Sys2Proof.Machine.execFncF s
  | .fncW => Sys2Proof.Machine.execFncW s
  | .fncS => Sys2Proof.Machine.execFncS s
  | .vlr rd rs1 => Sys2Proof.Machine.execVlr rd rs1 s
  | .vsr rs1 rs2 => Sys2Proof.Machine.execVsr rs1 rs2 s
  | .vlrg rd rs1 rs2 => Sys2Proof.Machine.execVlrg rd rs1 rs2 s
  | .vaddVv rd rs1 rs2 => Sys2Proof.Machine.execVaddVv rd rs1 rs2 s
  | .vaddVx rd rs1 rs2 => Sys2Proof.Machine.execVaddVx rd rs1 rs2 s
  | .vaddVf rd rs1 rs2 => Sys2Proof.Machine.execVaddVf rd rs1 rs2 s
  | .vaddVi rd rs1 imm5 => Sys2Proof.Machine.execVaddVi rd rs1 imm5 s
  | .vsubVv rd rs1 rs2 => Sys2Proof.Machine.execVsubVv rd rs1 rs2 s
  | .vsubVx rd rs1 rs2 => Sys2Proof.Machine.execVsubVx rd rs1 rs2 s
  | .vsubVf rd rs1 rs2 => Sys2Proof.Machine.execVsubVf rd rs1 rs2 s
  | .vsubVi rd rs1 imm5 => Sys2Proof.Machine.execVsubVi rd rs1 imm5 s
  | .vmulVv rd rs1 rs2 => Sys2Proof.Machine.execVmulVv rd rs1 rs2 s
  | .vmulVx rd rs1 rs2 => Sys2Proof.Machine.execVmulVx rd rs1 rs2 s
  | .vmulVf rd rs1 rs2 => Sys2Proof.Machine.execVmulVf rd rs1 rs2 s
  | .vmulVi rd rs1 imm5 => Sys2Proof.Machine.execVmulVi rd rs1 imm5 s
  | .vminVv rd rs1 rs2 => Sys2Proof.Machine.execVminVv rd rs1 rs2 s
  | .vminVx rd rs1 rs2 => Sys2Proof.Machine.execVminVx rd rs1 rs2 s
  | .vminVf rd rs1 rs2 => Sys2Proof.Machine.execVminVf rd rs1 rs2 s
  | .vminVi rd rs1 imm5 => Sys2Proof.Machine.execVminVi rd rs1 imm5 s
  | .vmaxVv rd rs1 rs2 => Sys2Proof.Machine.execVmaxVv rd rs1 rs2 s
  | .vmaxVx rd rs1 rs2 => Sys2Proof.Machine.execVmaxVx rd rs1 rs2 s
  | .vmaxVf rd rs1 rs2 => Sys2Proof.Machine.execVmaxVf rd rs1 rs2 s
  | .vmaxVi rd rs1 imm5 => Sys2Proof.Machine.execVmaxVi rd rs1 imm5 s
  | .vfmaVv rd rs1 rs2 => Sys2Proof.Machine.execVfmaVv rd rs1 rs2 s
  | .vfmaVx rd rs1 rs2 => Sys2Proof.Machine.execVfmaVx rd rs1 rs2 s
  | .vfmaVf rd rs1 rs2 => Sys2Proof.Machine.execVfmaVf rd rs1 rs2 s
  | .vfnmaVv rd rs1 rs2 => Sys2Proof.Machine.execVfnmaVv rd rs1 rs2 s
  | .vfnmaVx rd rs1 rs2 => Sys2Proof.Machine.execVfnmaVx rd rs1 rs2 s
  | .vfnmaVf rd rs1 rs2 => Sys2Proof.Machine.execVfnmaVf rd rs1 rs2 s
  | .vandVv rd rs1 rs2 => Sys2Proof.Machine.execVandVv rd rs1 rs2 s
  | .vandVx rd rs1 rs2 => Sys2Proof.Machine.execVandVx rd rs1 rs2 s
  | .vandVi rd rs1 imm5 => Sys2Proof.Machine.execVandVi rd rs1 imm5 s
  | .vorVv rd rs1 rs2 => Sys2Proof.Machine.execVorVv rd rs1 rs2 s
  | .vorVx rd rs1 rs2 => Sys2Proof.Machine.execVorVx rd rs1 rs2 s
  | .vorVi rd rs1 imm5 => Sys2Proof.Machine.execVorVi rd rs1 imm5 s
  | .vxorVv rd rs1 rs2 => Sys2Proof.Machine.execVxorVv rd rs1 rs2 s
  | .vxorVx rd rs1 rs2 => Sys2Proof.Machine.execVxorVx rd rs1 rs2 s
  | .vxorVi rd rs1 imm5 => Sys2Proof.Machine.execVxorVi rd rs1 imm5 s
  | .vsllVv rd rs1 rs2 => Sys2Proof.Machine.execVsllVv rd rs1 rs2 s
  | .vsllVx rd rs1 rs2 => Sys2Proof.Machine.execVsllVx rd rs1 rs2 s
  | .vsllVi rd rs1 imm5 => Sys2Proof.Machine.execVsllVi rd rs1 imm5 s
  | .vsrlVv rd rs1 rs2 => Sys2Proof.Machine.execVsrlVv rd rs1 rs2 s
  | .vsrlVx rd rs1 rs2 => Sys2Proof.Machine.execVsrlVx rd rs1 rs2 s
  | .vsrlVi rd rs1 imm5 => Sys2Proof.Machine.execVsrlVi rd rs1 imm5 s
  | .vsraVv rd rs1 rs2 => Sys2Proof.Machine.execVsraVv rd rs1 rs2 s
  | .vsraVx rd rs1 rs2 => Sys2Proof.Machine.execVsraVx rd rs1 rs2 s
  | .vsraVi rd rs1 imm5 => Sys2Proof.Machine.execVsraVi rd rs1 imm5 s
  | .vceqVv rs1 rs2 => Sys2Proof.Machine.execVceqVv rs1 rs2 s
  | .vceqVx rs1 rs2 => Sys2Proof.Machine.execVceqVx rs1 rs2 s
  | .vceqVf rs1 rs2 => Sys2Proof.Machine.execVceqVf rs1 rs2 s
  | .vceqVi rs1 imm5 => Sys2Proof.Machine.execVceqVi rs1 imm5 s
  | .vcneVv rs1 rs2 => Sys2Proof.Machine.execVcneVv rs1 rs2 s
  | .vcneVx rs1 rs2 => Sys2Proof.Machine.execVcneVx rs1 rs2 s
  | .vcneVf rs1 rs2 => Sys2Proof.Machine.execVcneVf rs1 rs2 s
  | .vcneVi rs1 imm5 => Sys2Proof.Machine.execVcneVi rs1 imm5 s
  | .vcltVv rs1 rs2 => Sys2Proof.Machine.execVcltVv rs1 rs2 s
  | .vcltVx rs1 rs2 => Sys2Proof.Machine.execVcltVx rs1 rs2 s
  | .vcltVf rs1 rs2 => Sys2Proof.Machine.execVcltVf rs1 rs2 s
  | .vcltVi rs1 imm5 => Sys2Proof.Machine.execVcltVi rs1 imm5 s
  | .vcleVv rs1 rs2 => Sys2Proof.Machine.execVcleVv rs1 rs2 s
  | .vcleVx rs1 rs2 => Sys2Proof.Machine.execVcleVx rs1 rs2 s
  | .vcleVf rs1 rs2 => Sys2Proof.Machine.execVcleVf rs1 rs2 s
  | .vcleVi rs1 imm5 => Sys2Proof.Machine.execVcleVi rs1 imm5 s
  | .vselVv rd rs1 rs2 => Sys2Proof.Machine.execVselVv rd rs1 rs2 s
  | .vselVx rd rs1 rs2 => Sys2Proof.Machine.execVselVx rd rs1 rs2 s
  | .vselVf rd rs1 rs2 => Sys2Proof.Machine.execVselVf rd rs1 rs2 s
  | .vselVi rd rs1 imm5 => Sys2Proof.Machine.execVselVi rd rs1 imm5 s
  | .vpermVv rd rs1 rs2 => Sys2Proof.Machine.execVpermVv rd rs1 rs2 s
  | .vrotVx rd rs1 rs2 => Sys2Proof.Machine.execVrotVx rd rs1 rs2 s
  | .vrotVi rd rs1 imm5 => Sys2Proof.Machine.execVrotVi rd rs1 imm5 s
  | .vbcVx rd rs2 => Sys2Proof.Machine.execVbcVx rd rs2 s
  | .vbcVf rd rs2 => Sys2Proof.Machine.execVbcVf rd rs2 s
  | .vmv rd rs1 => Sys2Proof.Machine.execVmv rd rs1 s
  | .vneg rd rs1 => Sys2Proof.Machine.execVneg rd rs1 s
  | .vabs rd rs1 => Sys2Proof.Machine.execVabs rd rs1 s
  | .vrcp rd rs1 => Sys2Proof.Machine.execVrcp rd rs1 s
  | .vrsq rd rs1 => Sys2Proof.Machine.execVrsq rd rs1 s
  | .vexp2 rd rs1 => Sys2Proof.Machine.execVexp2 rd rs1 s
  | .vlog2 rd rs1 => Sys2Proof.Machine.execVlog2 rd rs1 s
  | .vtanh rd rs1 => Sys2Proof.Machine.execVtanh rd rs1 s
  | .vcvt rd rs1 ty => Sys2Proof.Machine.execVcvt rd rs1 ty s
  | .vconj rd rs1 => Sys2Proof.Machine.execVconj rd rs1 s
  | .vnorm rd rs1 => Sys2Proof.Machine.execVnorm rd rs1 s
  | .vhad rd rs1 => Sys2Proof.Machine.execVhad rd rs1 s
  | .vhadS rd rs1 => Sys2Proof.Machine.execVhadS rd rs1 s
  | .vamulVv rd rs1 rs2 => Sys2Proof.Machine.execVamulVv rd rs1 rs2 s
  | .vrsumX rd rs1 => Sys2Proof.Machine.execVrsumX rd rs1 s
  | .vrsumF rd rs1 => Sys2Proof.Machine.execVrsumF rd rs1 s
  | .vrmaxX rd rs1 => Sys2Proof.Machine.execVrmaxX rd rs1 s
  | .vrmaxF rd rs1 => Sys2Proof.Machine.execVrmaxF rd rs1 s
  | .vrminX rd rs1 => Sys2Proof.Machine.execVrminX rd rs1 s
  | .vrminF rd rs1 => Sys2Proof.Machine.execVrminF rd rs1 s
  | .vgetX rd rs1 rs2 => Sys2Proof.Machine.execVgetX rd rs1 rs2 s
  | .vgetF rd rs1 rs2 => Sys2Proof.Machine.execVgetF rd rs1 rs2 s
  | .vrep cnt rs1 stride adv => Sys2Proof.Machine.execVrep cnt rs1 stride adv s
  | .vqnt rs1 rs2 => Sys2Proof.Machine.execVqnt rs1 rs2 s
  | .vdqnt rd rs2 => Sys2Proof.Machine.execVdqnt rd rs2 s
  | .vsave rs1 => Sys2Proof.Machine.execVsave rs1 s
  | .vrest rs1 => Sys2Proof.Machine.execVrest rs1 s
  | .mma asl h rs1 rs2 rs3 => Sys2Proof.Machine.execMma asl h rs1 rs2 rs3 s
  | .mmaO asl h rs1 rs2 rs3 => Sys2Proof.Machine.execMmaO asl h rs1 rs2 rs3 s
  | .mmaR asl h rs1 rs2 rs3 => Sys2Proof.Machine.execMmaR asl h rs1 rs2 rs3 s
  | .mmal asl h rs2 rs3 => Sys2Proof.Machine.execMmal asl h rs2 rs3 s
  | .mmalO asl h rs2 rs3 => Sys2Proof.Machine.execMmalO asl h rs2 rs3 s
  | .mmalR asl h rs2 rs3 => Sys2Proof.Machine.execMmalR asl h rs2 rs3 s
  | .mgth rs1 rs2 => Sys2Proof.Machine.execMgth rs1 rs2 s
  | .msct k rs1 => Sys2Proof.Machine.execMsct k rs1 s
  | .mclr h => Sys2Proof.Machine.execMclr h s
  | .cpy rd rs1 rs2 q => Sys2Proof.Machine.execCpy rd rs1 rs2 q s
  | .cpy2 rd rs1 rs2 q => Sys2Proof.Machine.execCpy2 rd rs1 rs2 q s
  | .cpyz rd rs1 rs2 q => Sys2Proof.Machine.execCpyz rd rs1 rs2 q s
  | .cput rd rs1 rs2 q => Sys2Proof.Machine.execCput rd rs1 rs2 q s
  | .cget rd rs1 rs2 q => Sys2Proof.Machine.execCget rd rs1 rs2 q s
  | .cfnc q rs1 => Sys2Proof.Machine.execCfnc q rs1 s
  | .cseq rd q => Sys2Proof.Machine.execCseq rd q s

end Sys2Proof.Machine
end

