-- ==== Sys2Proof/WellFormed.lean ====
section
/-! DEFINITION. Which instructions are well formed: operand limits of the words (R39 to R47, R61) and, for the events,
that the unit named exists (R6, R7, R113 to R361). -/

namespace Sys2Proof

/-- R39 to R47: a used field stays inside its stated limits; R6: an event names a unit that exists. -/
def Instr.wf (i : Instr) : Bool :=
  match i with
  | .impreciseReport slot ember cause _ => decide (slot < nSlots) && decide (ember < 2 ^ 50) && decide (cause < 256)
  | .pendingTrapDelivery slot => decide (slot < nSlots)
  | .emberTakeup slot => decide (slot < nSlots)
  | .emberRestore slot => decide (slot < nSlots)
  | .suspendWriteback slot => decide (slot < nSlots)
  | .attractionMove slot => decide (slot < nSlots)
  | .migrationArrival core ember => decide (core < nCores) && decide (ember < 2 ^ 50)
  | .dispenserItemArrival _ => true
  | .dispenserHandover cluster => decide (cluster < nClusters)
  | .ldoor port => decide (port < 2)
  | .launchDescriptor _ => true
  | .chunkFinished _ _ => true
  | .launchCompletion _ => true
  | .masterReelection field => decide (field < nFields)
  | .deadlineExpiry ember _ => decide (ember < 2 ^ 50)
  | .parkTimeout ember _ => decide (ember < 2 ^ 50)
  | .messageArrival _ => true
  | .queueRefill core q => decide (core < nCores) && decide (q < 8)
  | .acknowledgement _ => true
  | .loadReply _ => true
  | .farLoadAtHome _ => true
  | .farStoreAtHome _ => true
  | .atomicAtHome _ => true
  | .versionedLoadAtHome _ => true
  | .versionedStoreAtHome _ => true
  | .versionedReply _ => true
  | .vrclAtHome _ => true
  | .appendAtHome _ => true
  | .sealAtHome _ => true
  | .leafSealOr _ => true
  | .sealReportAck _ => true
  | .sreplAccept _ => true
  | .replicaCreate field frame => decide (field < nFields) && decide (frame < 2 ^ 44)
  | .replicaCopyDone field frame => decide (field < nFields) && decide (frame < 2 ^ 44)
  | .replicaDrop field frame => decide (field < nFields) && decide (frame < 2 ^ 44)
  | .replicaPeriod field => decide (field < nFields)
  | .pageWalk slot _ => decide (slot < nSlots)
  | .ownerChange .. => true
  | .zeroingDone kind _ => decide (kind ≠ 3#2)
  | .thermalReading core _ => decide (core < nCores)
  | .meterAdmit _ => true
  | .tcallAtHome _ => true
  | .backingTableLookup _ => true
  | .tcallReply _ => true
  | .tlookAtHome _ => true
  | .publicationAtHome _ => true
  | .consumerResume cluster ember => decide (cluster < nClusters) && decide (ember < 2 ^ 50)
  | .groupOpenAtHome _ => true
  | .groupCloseAtHome _ => true
  | .groupSealWriteback _ => true
  | .groupDropAtHome _ => true
  | .groupReport _ => true
  | .probeRoundStart group => decide (group < 65536)
  | .probeQuestion _ => true
  | .probeAnswer _ => true
  | .producerKillAtHome _ => true
  | .answerEntryError cluster index => decide (cluster < nClusters) && decide (index < 8192)
  | .vectorEntryExecute slot => decide (slot < nSlots)
  | .matrixEnqueue slot => decide (slot < nSlots)
  | .matrixGrant cluster => decide (cluster < nClusters)
  | .matrixOperandArrival core => decide (core < nCores)
  | .matrixSetback cluster => decide (cluster < nClusters)
  | .matrixComplete cluster => decide (cluster < nClusters)
  | .copyChunk cluster => decide (cluster < nClusters)
  | .copyQueueReset core q => decide (core < nCores) && decide (q < 2)
  | .peerFrame device _ _ addr len _ _ => decide (device < 4096) && decide (addr < 2 ^ 44) && decide (len < 129)
  | .peerChunkAck _ _ _ => true
  | .peerAckTimeout _ => true
  | .relayAccept _ => true
  | .relayReinject field => decide (field < nFields)
  | .barrierAndUpdate region ctx field => decide (region < 65536) && decide (ctx < 8) && decide (field < nFields)
  | .barrierRelease region ctx => decide (region < 65536) && decide (ctx < 8)
  | .barrierReleaseSeen region ctx field => decide (region < 65536) && decide (ctx < 8) && decide (field < nFields)
  | .barrierMaskSet core => decide (core < nCores)
  | .collContribution _ => true
  | .collPartialAtRoot _ => true
  | .collResultDelivery _ => true
  | .scmdStop slot => decide (slot < nSlots)
  | .scmdRestart slot => decide (slot < nSlots)
  | .scmdStep slot => decide (slot < nSlots)
  | .scmdKill slot => decide (slot < nSlots)
  | .scmdRestore slot => decide (slot < nSlots)
  | .slotKill slot => decide (slot < nSlots)
  | .preemptSlot slot => decide (slot < nSlots)
  | .preemptBudgetExhausted region => decide (region < 65536)
  | .regionStart region => decide (region < 65536)
  | .regionStop region => decide (region < 65536)
  | .kernelKill slot => decide (slot < nSlots)
  | .trapForward slot => decide (slot < nSlots)
  | .demandPageMap slot frame => decide (slot < nSlots) && decide (frame < 2 ^ 44)
  | .pageMigration slot frame => decide (slot < nSlots) && decide (frame < 2 ^ 44)
  | .timeoutResume slot => decide (slot < nSlots)
  | .ebreakStop slot => decide (slot < nSlots)
  | .ecallForwardRegister slot => decide (slot < nSlots)
  | .ecallRouteWrite slot => decide (slot < nSlots)
  | .ecallLaunch slot => decide (slot < nSlots)
  | .ecallRetire slot => decide (slot < nSlots)
  | .hwBreakpointStop slot => decide (slot < nSlots)
  | .counterSetRotate core => decide (core < nCores)
  | .flagUnionClear cluster _ => decide (cluster < nClusters)
  | .registerWrite offset _ => decide (offset < 2 ^ 36)
  | .plimWrite _ => true
  | .hostWindowRead port offset => decide (port < 2) && decide (offset < 2 ^ 36)
  | .hostWindowWrite port offset _ => decide (port < 2) && decide (offset < 2 ^ 36)
  | .adoor port => decide (port < 2)
  | .attestReportReady _ => true
  | .powerCheck hot cool => decide (hot = 95) && decide (cool = 90)
  | .speedChange field => decide (field < nFields)
  | .lockstepMismatch field => decide (field < nFields)
  | .firmwareRestart field => decide (field < nFields)
  | .securityAlarm => true
  | .moduleReset => true
  | .illegalInstruction _ => true
  | .fetchFault cause _ => decide (cause < 256)
  | .issueCycle core => decide (core < nCores)
  | .emberRestart ember => decide (ember < 2 ^ 50)
  | .poolExtension region _ => decide (region < 65536)
  | .quarantineLift field node => decide (field < nFields) && decide (node < 2 ^ 44)
  | .fatalError field => decide (field < nFields)
  | .lui _ _ => true
  | .auipc _ _ => true
  | .jal _ _ => true
  | .jalr _ _ _ => true
  | .beq _ _ _ => true
  | .bne _ _ _ => true
  | .blt _ _ _ => true
  | .bge _ _ _ => true
  | .bltu _ _ _ => true
  | .bgeu _ _ _ => true
  | .lb _ _ _ => true
  | .lh _ _ _ => true
  | .lw _ _ _ => true
  | .ld _ _ _ => true
  | .lbu _ _ _ => true
  | .lhu _ _ _ => true
  | .lwu _ _ _ => true
  | .sb _ _ _ => true
  | .sh _ _ _ => true
  | .sw _ _ _ => true
  | .sd _ _ _ => true
  | .addi _ _ _ => true
  | .slti _ _ _ => true
  | .sltiu _ _ _ => true
  | .xori _ _ _ => true
  | .ori _ _ _ => true
  | .andi _ _ _ => true
  | .slli _ _ _ => true
  | .srli _ _ _ => true
  | .srai _ _ _ => true
  | .add _ _ _ => true
  | .sub _ _ _ => true
  | .sll _ _ _ => true
  | .slt _ _ _ => true
  | .sltu _ _ _ => true
  | .xor _ _ _ => true
  | .srl _ _ _ => true
  | .sra _ _ _ => true
  | .or _ _ _ => true
  | .and _ _ _ => true
  | .addiw _ _ _ => true
  | .slliw _ _ _ => true
  | .srliw _ _ _ => true
  | .sraiw _ _ _ => true
  | .addw _ _ _ => true
  | .subw _ _ _ => true
  | .sllw _ _ _ => true
  | .srlw _ _ _ => true
  | .sraw _ _ _ => true
  | .mul _ _ _ => true
  | .mulh _ _ _ => true
  | .mulhsu _ _ _ => true
  | .mulhu _ _ _ => true
  | .div _ _ _ => true
  | .divu _ _ _ => true
  | .rem _ _ _ => true
  | .remu _ _ _ => true
  | .mulw _ _ _ => true
  | .divw _ _ _ => true
  | .divuw _ _ _ => true
  | .remw _ _ _ => true
  | .remuw _ _ _ => true
  | .fence => true
  | .fenceI => true
  | .ecall => true
  | .ebreak => true
  | .flw _ _ _ => true
  | .fsw _ _ _ => true
  | .fmaddS _ _ _ _ rm => decide (rm ≠ 5#3 ∧ rm ≠ 6#3)
  | .fmsubS _ _ _ _ rm => decide (rm ≠ 5#3 ∧ rm ≠ 6#3)
  | .fnmsubS _ _ _ _ rm => decide (rm ≠ 5#3 ∧ rm ≠ 6#3)
  | .fnmaddS _ _ _ _ rm => decide (rm ≠ 5#3 ∧ rm ≠ 6#3)
  | .faddS _ _ _ rm => decide (rm ≠ 5#3 ∧ rm ≠ 6#3)
  | .fsubS _ _ _ rm => decide (rm ≠ 5#3 ∧ rm ≠ 6#3)
  | .fmulS _ _ _ rm => decide (rm ≠ 5#3 ∧ rm ≠ 6#3)
  | .fdivS _ _ _ rm => decide (rm ≠ 5#3 ∧ rm ≠ 6#3)
  | .fsqrtS _ _ rm => decide (rm ≠ 5#3 ∧ rm ≠ 6#3)
  | .fsgnjS _ _ _ => true
  | .fsgnjnS _ _ _ => true
  | .fsgnjxS _ _ _ => true
  | .fminS _ _ _ => true
  | .fmaxS _ _ _ => true
  | .fcvtWS _ _ rm => decide (rm ≠ 5#3 ∧ rm ≠ 6#3)
  | .fcvtWuS _ _ rm => decide (rm ≠ 5#3 ∧ rm ≠ 6#3)
  | .fcvtLS _ _ rm => decide (rm ≠ 5#3 ∧ rm ≠ 6#3)
  | .fcvtLuS _ _ rm => decide (rm ≠ 5#3 ∧ rm ≠ 6#3)
  | .fcvtSW _ _ rm => decide (rm ≠ 5#3 ∧ rm ≠ 6#3)
  | .fcvtSWu _ _ rm => decide (rm ≠ 5#3 ∧ rm ≠ 6#3)
  | .fcvtSL _ _ rm => decide (rm ≠ 5#3 ∧ rm ≠ 6#3)
  | .fcvtSLu _ _ rm => decide (rm ≠ 5#3 ∧ rm ≠ 6#3)
  | .feqS _ _ _ => true
  | .fltS _ _ _ => true
  | .fleS _ _ _ => true
  | .fmvXW _ _ => true
  | .fclassS _ _ => true
  | .fmvWX _ _ => true
  | .csrrw _ _ _ => true
  | .csrrs _ _ _ => true
  | .csrrc _ _ _ => true
  | .csrrwi _ _ _ => true
  | .csrrsi _ _ _ => true
  | .csrrci _ _ _ => true
  | .xret => true
  | .tlbinv _ _ => true
  | .sig _ len => decide (len ≠ 0#6)
  | .spawn _ _ _ => true
  | .park => true
  | .yield => true
  | .exit => true
  | .send _ _ => true
  | .sendV _ _ => true
  | .recv _ _ => true
  | .recvV _ _ => true
  | .rpoll _ _ => true
  | .wfw => true
  | .dput _ _ _ => true
  | .dlarm _ => true
  | .dldone => true
  | .tcall _ n => decide (n.toNat ≤ 4)
  | .tret _ => true
  | .tfail _ _ => true
  | .tlook _ _ n => decide (n.toNat ≤ 4)
  | .tgopen _ _ _ => true
  | .tgclose _ => true
  | .tgseal _ => true
  | .tgdrop _ => true
  | .barA _ => true
  | .barW _ => true
  | .barAw _ => true
  | .collRed _ _ _ => true
  | .collBc _ _ _ => true
  | .waitc _ _ _ _ => true
  | .vld _ _ _ _ => true
  | .vst _ _ _ _ => true
  | .vtake _ _ _ _ => true
  | .amaddW _ _ _ => true
  | .amaddD _ _ _ => true
  | .amsminW _ _ _ => true
  | .amsminD _ _ _ => true
  | .amsmaxW _ _ _ => true
  | .amsmaxD _ _ _ => true
  | .amuminW _ _ _ => true
  | .amuminD _ _ _ => true
  | .amumaxW _ _ _ => true
  | .amumaxD _ _ _ => true
  | .amswapW _ _ _ => true
  | .amswapD _ _ _ => true
  | .amcasW _ _ _ => true
  | .amcasD _ _ _ => true
  | .apndD _ _ _ => true
  | .apndV _ _ _ _ => true
  | .seal _ _ => true
  | .roam _ => true
  | .vtag _ _ => true
  | .vrcl _ _ => true
  | .srepl _ _ => true
  | .fncC => true
  | .fncL => true
  | .fncF => true
  | .fncW => true
  | .fncS => true
  | .vlr _ _ => true
  | .vsr _ _ => true
  | .vlrg _ _ _ => true
  | .vaddVv _ _ _ => true
  | .vaddVx _ _ _ => true
  | .vaddVf _ _ _ => true
  | .vaddVi _ _ _ => true
  | .vsubVv _ _ _ => true
  | .vsubVx _ _ _ => true
  | .vsubVf _ _ _ => true
  | .vsubVi _ _ _ => true
  | .vmulVv _ _ _ => true
  | .vmulVx _ _ _ => true
  | .vmulVf _ _ _ => true
  | .vmulVi _ _ _ => true
  | .vminVv _ _ _ => true
  | .vminVx _ _ _ => true
  | .vminVf _ _ _ => true
  | .vminVi _ _ _ => true
  | .vmaxVv _ _ _ => true
  | .vmaxVx _ _ _ => true
  | .vmaxVf _ _ _ => true
  | .vmaxVi _ _ _ => true
  | .vfmaVv _ _ _ => true
  | .vfmaVx _ _ _ => true
  | .vfmaVf _ _ _ => true
  | .vfnmaVv _ _ _ => true
  | .vfnmaVx _ _ _ => true
  | .vfnmaVf _ _ _ => true
  | .vandVv _ _ _ => true
  | .vandVx _ _ _ => true
  | .vandVi _ _ _ => true
  | .vorVv _ _ _ => true
  | .vorVx _ _ _ => true
  | .vorVi _ _ _ => true
  | .vxorVv _ _ _ => true
  | .vxorVx _ _ _ => true
  | .vxorVi _ _ _ => true
  | .vsllVv _ _ _ => true
  | .vsllVx _ _ _ => true
  | .vsllVi _ _ _ => true
  | .vsrlVv _ _ _ => true
  | .vsrlVx _ _ _ => true
  | .vsrlVi _ _ _ => true
  | .vsraVv _ _ _ => true
  | .vsraVx _ _ _ => true
  | .vsraVi _ _ _ => true
  | .vceqVv _ _ => true
  | .vceqVx _ _ => true
  | .vceqVf _ _ => true
  | .vceqVi _ _ => true
  | .vcneVv _ _ => true
  | .vcneVx _ _ => true
  | .vcneVf _ _ => true
  | .vcneVi _ _ => true
  | .vcltVv _ _ => true
  | .vcltVx _ _ => true
  | .vcltVf _ _ => true
  | .vcltVi _ _ => true
  | .vcleVv _ _ => true
  | .vcleVx _ _ => true
  | .vcleVf _ _ => true
  | .vcleVi _ _ => true
  | .vselVv _ _ _ => true
  | .vselVx _ _ _ => true
  | .vselVf _ _ _ => true
  | .vselVi _ _ _ => true
  | .vpermVv _ _ _ => true
  | .vrotVx _ _ _ => true
  | .vrotVi _ _ _ => true
  | .vbcVx _ _ => true
  | .vbcVf _ _ => true
  | .vmv _ _ => true
  | .vneg _ _ => true
  | .vabs _ _ => true
  | .vrcp _ _ => true
  | .vrsq _ _ => true
  | .vexp2 _ _ => true
  | .vlog2 _ _ => true
  | .vtanh _ _ => true
  | .vcvt _ _ ty => decide ((ty.extractLsb' 0 3).toNat ≤ 5)
  | .vconj _ _ => true
  | .vnorm _ _ => true
  | .vhad _ _ => true
  | .vhadS _ _ => true
  | .vamulVv _ _ _ => true
  | .vrsumX _ _ => true
  | .vrsumF _ _ => true
  | .vrmaxX _ _ => true
  | .vrmaxF _ _ => true
  | .vrminX _ _ => true
  | .vrminF _ _ => true
  | .vgetX _ _ _ => true
  | .vgetF _ _ _ => true
  | .vrep _ _ _ _ => true
  | .vqnt _ _ => true
  | .vdqnt _ _ => true
  | .vsave _ => true
  | .vrest _ => true
  | .mma _ _ _ _ _ => true
  | .mmaO _ _ _ _ _ => true
  | .mmaR _ _ _ _ _ => true
  | .mmal _ _ _ _ => true
  | .mmalO _ _ _ _ => true
  | .mmalR _ _ _ _ => true
  | .mgth _ _ => true
  | .msct k _ => decide (k ≠ 0#3)
  | .mclr _ => true
  | .cpy _ _ _ _ => true
  | .cpy2 _ _ _ _ => true
  | .cpyz _ _ _ _ => true
  | .cput _ _ _ _ => true
  | .cget _ _ _ _ => true
  | .cfnc _ _ => true
  | .cseq _ _ => true

end Sys2Proof
end

