-- ==== Sys2Proof/Decode.lean ====
section
/-! DEFINITION. Decoding of instruction words (spec/02, R34 to R47), total on every word: a word that no rule
assigns decodes to nothing, and the slot then takes the illegal-instruction trap. After it, the encoder. -/

namespace Sys2Proof

/-- The fields of a word in the R format (R34). -/
structure Fields where
  op  : BitVec 7
  rd  : BitVec 5
  f3  : BitVec 3
  rs1 : BitVec 5
  rs2 : BitVec 5
  f7  : BitVec 7
deriving DecidableEq, Repr

/-- R34: the fields of a word. -/
def fieldsOf (w : Code) : Fields :=
  ⟨w.extractLsb' 0 7, w.extractLsb' 7 5, w.extractLsb' 12 3, w.extractLsb' 15 5, w.extractLsb' 20 5, w.extractLsb' 25 7⟩

/-- R34: the word of some fields. -/
def wordOf (f : Fields) : Code := f.f7 ++ f.rs2 ++ f.rs1 ++ f.f3 ++ f.rd ++ f.op

/-- R35: the I immediate. -/
def immI (f : Fields) : BitVec 12 := f.f7 ++ f.rs2
/-- R35: the S immediate. -/
def immS (f : Fields) : BitVec 12 := f.f7 ++ f.rd
/-- R35: bits [12:1] of the B immediate. -/
def immB (f : Fields) : BitVec 12 :=
  f.f7.extractLsb' 6 1 ++ f.rd.extractLsb' 0 1 ++ f.f7.extractLsb' 0 6 ++ f.rd.extractLsb' 1 4
/-- R35: bits [31:12] of the U immediate. -/
def immU (f : Fields) : BitVec 20 := f.f7 ++ f.rs2 ++ f.rs1 ++ f.f3
/-- R35: bits [20:1] of the J immediate. -/
def immJ (f : Fields) : BitVec 20 :=
  f.f7.extractLsb' 6 1 ++ f.rs1 ++ f.f3 ++ f.rs2.extractLsb' 0 1 ++ f.f7.extractLsb' 0 6 ++ f.rs2.extractLsb' 1 4

noncomputable section

/-- R37 to R47: the words of major opcode 0x63. -/
def decBranch (f : Fields) : Option Instr :=
  match f.f3.toNat with
  | 0 => some (.beq f.rs1 f.rs2 (immB f))
  | 1 => some (.bne f.rs1 f.rs2 (immB f))
  | 4 => some (.blt f.rs1 f.rs2 (immB f))
  | 5 => some (.bge f.rs1 f.rs2 (immB f))
  | 6 => some (.bltu f.rs1 f.rs2 (immB f))
  | 7 => some (.bgeu f.rs1 f.rs2 (immB f))
  | _ => none

/-- R37 to R47: the words of major opcode 0x03. -/
def decLoad (f : Fields) : Option Instr :=
  match f.f3.toNat with
  | 0 => some (.lb f.rd f.rs1 (immI f))
  | 1 => some (.lh f.rd f.rs1 (immI f))
  | 2 => some (.lw f.rd f.rs1 (immI f))
  | 3 => some (.ld f.rd f.rs1 (immI f))
  | 4 => some (.lbu f.rd f.rs1 (immI f))
  | 5 => some (.lhu f.rd f.rs1 (immI f))
  | 6 => some (.lwu f.rd f.rs1 (immI f))
  | _ => none

/-- R37 to R47: the words of major opcode 0x23. -/
def decStore (f : Fields) : Option Instr :=
  match f.f3.toNat with
  | 0 => some (.sb f.rs1 f.rs2 (immS f))
  | 1 => some (.sh f.rs1 f.rs2 (immS f))
  | 2 => some (.sw f.rs1 f.rs2 (immS f))
  | 3 => some (.sd f.rs1 f.rs2 (immS f))
  | _ => none

/-- R37 to R47: opcode 0x13, funct3 5. -/
def decOpImm_5 (f : Fields) : Option Instr :=
  match f.f7.toNat with
    | _ => if f.f7.extractLsb' 1 6 = 0x0#6 then some (.srli f.rd f.rs1 (f.f7.extractLsb' 0 1 ++ f.rs2)) else if f.f7.extractLsb' 1 6 = 0x10#6 then some (.srai f.rd f.rs1 (f.f7.extractLsb' 0 1 ++ f.rs2)) else none

/-- R37 to R47: the words of major opcode 0x13. -/
def decOpImm (f : Fields) : Option Instr :=
  match f.f3.toNat with
  | 0 => some (.addi f.rd f.rs1 (immI f))
  | 2 => some (.slti f.rd f.rs1 (immI f))
  | 3 => some (.sltiu f.rd f.rs1 (immI f))
  | 4 => some (.xori f.rd f.rs1 (immI f))
  | 6 => some (.ori f.rd f.rs1 (immI f))
  | 7 => some (.andi f.rd f.rs1 (immI f))
  | 1 => if f.f7.extractLsb' 1 6 = 0x0#6 then some (.slli f.rd f.rs1 (f.f7.extractLsb' 0 1 ++ f.rs2)) else none
  | 5 => decOpImm_5 f
  | _ => none

/-- R37 to R47: opcode 0x33, funct3 0. -/
def decOp_0 (f : Fields) : Option Instr :=
  match f.f7.toNat with
    | 0x00 => some (.add f.rd f.rs1 f.rs2)
    | 0x20 => some (.sub f.rd f.rs1 f.rs2)
    | 0x01 => some (.mul f.rd f.rs1 f.rs2)
    | _ => none

/-- R37 to R47: opcode 0x33, funct3 1. -/
def decOp_1 (f : Fields) : Option Instr :=
  match f.f7.toNat with
    | 0x00 => some (.sll f.rd f.rs1 f.rs2)
    | 0x01 => some (.mulh f.rd f.rs1 f.rs2)
    | _ => none

/-- R37 to R47: opcode 0x33, funct3 2. -/
def decOp_2 (f : Fields) : Option Instr :=
  match f.f7.toNat with
    | 0x00 => some (.slt f.rd f.rs1 f.rs2)
    | 0x01 => some (.mulhsu f.rd f.rs1 f.rs2)
    | _ => none

/-- R37 to R47: opcode 0x33, funct3 3. -/
def decOp_3 (f : Fields) : Option Instr :=
  match f.f7.toNat with
    | 0x00 => some (.sltu f.rd f.rs1 f.rs2)
    | 0x01 => some (.mulhu f.rd f.rs1 f.rs2)
    | _ => none

/-- R37 to R47: opcode 0x33, funct3 4. -/
def decOp_4 (f : Fields) : Option Instr :=
  match f.f7.toNat with
    | 0x00 => some (.xor f.rd f.rs1 f.rs2)
    | 0x01 => some (.div f.rd f.rs1 f.rs2)
    | _ => none

/-- R37 to R47: opcode 0x33, funct3 5. -/
def decOp_5 (f : Fields) : Option Instr :=
  match f.f7.toNat with
    | 0x00 => some (.srl f.rd f.rs1 f.rs2)
    | 0x20 => some (.sra f.rd f.rs1 f.rs2)
    | 0x01 => some (.divu f.rd f.rs1 f.rs2)
    | _ => none

/-- R37 to R47: opcode 0x33, funct3 6. -/
def decOp_6 (f : Fields) : Option Instr :=
  match f.f7.toNat with
    | 0x00 => some (.or f.rd f.rs1 f.rs2)
    | 0x01 => some (.rem f.rd f.rs1 f.rs2)
    | _ => none

/-- R37 to R47: opcode 0x33, funct3 7. -/
def decOp_7 (f : Fields) : Option Instr :=
  match f.f7.toNat with
    | 0x00 => some (.and f.rd f.rs1 f.rs2)
    | 0x01 => some (.remu f.rd f.rs1 f.rs2)
    | _ => none

/-- R37 to R47: the words of major opcode 0x33. -/
def decOp (f : Fields) : Option Instr :=
  match f.f3.toNat with
  | 0 => decOp_0 f
  | 1 => decOp_1 f
  | 2 => decOp_2 f
  | 3 => decOp_3 f
  | 4 => decOp_4 f
  | 5 => decOp_5 f
  | 6 => decOp_6 f
  | 7 => decOp_7 f
  | _ => none

/-- R37 to R47: opcode 0x1B, funct3 5. -/
def decOpImm32_5 (f : Fields) : Option Instr :=
  match f.f7.toNat with
    | 0x00 => some (.srliw f.rd f.rs1 f.rs2)
    | 0x20 => some (.sraiw f.rd f.rs1 f.rs2)
    | _ => none

/-- R37 to R47: the words of major opcode 0x1B. -/
def decOpImm32 (f : Fields) : Option Instr :=
  match f.f3.toNat with
  | 0 => some (.addiw f.rd f.rs1 (immI f))
  | 1 => if f.f7 = 0x0#7 then some (.slliw f.rd f.rs1 f.rs2) else none
  | 5 => decOpImm32_5 f
  | _ => none

/-- R37 to R47: opcode 0x3B, funct3 0. -/
def decOp32_0 (f : Fields) : Option Instr :=
  match f.f7.toNat with
    | 0x00 => some (.addw f.rd f.rs1 f.rs2)
    | 0x20 => some (.subw f.rd f.rs1 f.rs2)
    | 0x01 => some (.mulw f.rd f.rs1 f.rs2)
    | _ => none

/-- R37 to R47: opcode 0x3B, funct3 5. -/
def decOp32_5 (f : Fields) : Option Instr :=
  match f.f7.toNat with
    | 0x00 => some (.srlw f.rd f.rs1 f.rs2)
    | 0x20 => some (.sraw f.rd f.rs1 f.rs2)
    | 0x01 => some (.divuw f.rd f.rs1 f.rs2)
    | _ => none

/-- R37 to R47: the words of major opcode 0x3B. -/
def decOp32 (f : Fields) : Option Instr :=
  match f.f3.toNat with
  | 0 => decOp32_0 f
  | 1 => if f.f7 = 0x0#7 then some (.sllw f.rd f.rs1 f.rs2) else none
  | 5 => decOp32_5 f
  | 4 => if f.f7 = 0x1#7 then some (.divw f.rd f.rs1 f.rs2) else none
  | 6 => if f.f7 = 0x1#7 then some (.remw f.rd f.rs1 f.rs2) else none
  | 7 => if f.f7 = 0x1#7 then some (.remuw f.rd f.rs1 f.rs2) else none
  | _ => none

/-- R37 to R47: the words of major opcode 0x0F. -/
def decMiscMem (f : Fields) : Option Instr :=
  match f.f3.toNat with
  | 0 => some (.fence)
  | 1 => some (.fenceI)
  | _ => none

/-- R37 to R47: opcode 0x73, funct3 0. -/
def decSystem_0 (f : Fields) : Option Instr :=
  match f.f7.toNat with
    | 0x00 => if f.rd = 0x0#5 ∧ f.rs1 = 0x0#5 ∧ f.rs2 = 0x0#5 then some (.ecall) else if f.rd = 0x0#5 ∧ f.rs1 = 0x0#5 ∧ f.rs2 = 0x1#5 then some (.ebreak) else none
    | _ => none

/-- R37 to R47: the words of major opcode 0x73. -/
def decSystem (f : Fields) : Option Instr :=
  match f.f3.toNat with
  | 0 => decSystem_0 f
  | 1 => some (.csrrw f.rd f.rs1 (f.f7 ++ f.rs2))
  | 2 => some (.csrrs f.rd f.rs1 (f.f7 ++ f.rs2))
  | 3 => some (.csrrc f.rd f.rs1 (f.f7 ++ f.rs2))
  | 5 => some (.csrrwi f.rd f.rs1 (f.f7 ++ f.rs2))
  | 6 => some (.csrrsi f.rd f.rs1 (f.f7 ++ f.rs2))
  | 7 => some (.csrrci f.rd f.rs1 (f.f7 ++ f.rs2))
  | _ => none

def decOpFp (f : Fields) : Option Instr :=
  match f.f7.toNat with
    | 0x00 => if f.f3 ≠ 5#3 ∧ f.f3 ≠ 6#3 then some (.faddS f.rd f.rs1 f.rs2 f.f3) else none
    | 0x04 => if f.f3 ≠ 5#3 ∧ f.f3 ≠ 6#3 then some (.fsubS f.rd f.rs1 f.rs2 f.f3) else none
    | 0x08 => if f.f3 ≠ 5#3 ∧ f.f3 ≠ 6#3 then some (.fmulS f.rd f.rs1 f.rs2 f.f3) else none
    | 0x0C => if f.f3 ≠ 5#3 ∧ f.f3 ≠ 6#3 then some (.fdivS f.rd f.rs1 f.rs2 f.f3) else none
    | 0x2C => if f.rs2 = 0x0#5 ∧ f.f3 ≠ 5#3 ∧ f.f3 ≠ 6#3 then some (.fsqrtS f.rd f.rs1 f.f3) else none
    | 0x10 => if f.f3 = 0x0#3 then some (.fsgnjS f.rd f.rs1 f.rs2) else if f.f3 = 0x1#3 then some (.fsgnjnS f.rd f.rs1 f.rs2) else if f.f3 = 0x2#3 then some (.fsgnjxS f.rd f.rs1 f.rs2) else none
    | 0x14 => if f.f3 = 0x0#3 then some (.fminS f.rd f.rs1 f.rs2) else if f.f3 = 0x1#3 then some (.fmaxS f.rd f.rs1 f.rs2) else none
    | 0x60 => if f.rs2 = 0x0#5 ∧ f.f3 ≠ 5#3 ∧ f.f3 ≠ 6#3 then some (.fcvtWS f.rd f.rs1 f.f3) else if f.rs2 = 0x1#5 ∧ f.f3 ≠ 5#3 ∧ f.f3 ≠ 6#3 then some (.fcvtWuS f.rd f.rs1 f.f3) else if f.rs2 = 0x2#5 ∧ f.f3 ≠ 5#3 ∧ f.f3 ≠ 6#3 then some (.fcvtLS f.rd f.rs1 f.f3) else if f.rs2 = 0x3#5 ∧ f.f3 ≠ 5#3 ∧ f.f3 ≠ 6#3 then some (.fcvtLuS f.rd f.rs1 f.f3) else none
    | 0x68 => if f.rs2 = 0x0#5 ∧ f.f3 ≠ 5#3 ∧ f.f3 ≠ 6#3 then some (.fcvtSW f.rd f.rs1 f.f3) else if f.rs2 = 0x1#5 ∧ f.f3 ≠ 5#3 ∧ f.f3 ≠ 6#3 then some (.fcvtSWu f.rd f.rs1 f.f3) else if f.rs2 = 0x2#5 ∧ f.f3 ≠ 5#3 ∧ f.f3 ≠ 6#3 then some (.fcvtSL f.rd f.rs1 f.f3) else if f.rs2 = 0x3#5 ∧ f.f3 ≠ 5#3 ∧ f.f3 ≠ 6#3 then some (.fcvtSLu f.rd f.rs1 f.f3) else none
    | 0x50 => if f.f3 = 0x2#3 then some (.feqS f.rd f.rs1 f.rs2) else if f.f3 = 0x1#3 then some (.fltS f.rd f.rs1 f.rs2) else if f.f3 = 0x0#3 then some (.fleS f.rd f.rs1 f.rs2) else none
    | 0x70 => if f.f3 = 0x0#3 ∧ f.rs2 = 0x0#5 then some (.fmvXW f.rd f.rs1) else if f.f3 = 0x1#3 ∧ f.rs2 = 0x0#5 then some (.fclassS f.rd f.rs1) else none
    | 0x78 => if f.f3 = 0x0#3 ∧ f.rs2 = 0x0#5 then some (.fmvWX f.rd f.rs1) else none
    | _ => none

/-- R37 to R47: opcode 0x7B, funct3 5. -/
def decCustom3_5 (f : Fields) : Option Instr :=
  match f.f7.toNat with
    | 0x00 => if f.rd = 0x0#5 ∧ f.rs1 = 0x0#5 ∧ f.rs2 = 0x0#5 then some (.xret) else none
    | 0x01 => if f.rd = 0x0#5 then some (.tlbinv f.rs1 f.rs2) else none
    | 0x02 => if f.rd = 0x0#5 ∧ f.rs2 = 0x0#5 then some (.vsave f.rs1) else none
    | 0x03 => if f.rd = 0x0#5 ∧ f.rs2 = 0x0#5 then some (.vrest f.rs1) else none
    | _ => none

/-- R37 to R47: opcode 0x7B, funct3 0. -/
def decCustom3_0 (f : Fields) : Option Instr :=
  match f.f7.toNat with
    | _ => if f.rd.extractLsb' 4 1 = 0x0#1 ∧ f.f7.extractLsb' 0 2 = 0x0#2 then some (.mma (f.rd.extractLsb' 1 3) (f.rd.extractLsb' 0 1) f.rs1 f.rs2 (f.f7.extractLsb' 2 5)) else if f.rd.extractLsb' 4 1 = 0x0#1 ∧ f.f7.extractLsb' 0 2 = 0x1#2 then some (.mmaO (f.rd.extractLsb' 1 3) (f.rd.extractLsb' 0 1) f.rs1 f.rs2 (f.f7.extractLsb' 2 5)) else if f.rd.extractLsb' 4 1 = 0x0#1 ∧ f.f7.extractLsb' 0 2 = 0x2#2 then some (.mmaR (f.rd.extractLsb' 1 3) (f.rd.extractLsb' 0 1) f.rs1 f.rs2 (f.f7.extractLsb' 2 5)) else none

/-- R37 to R47: opcode 0x7B, funct3 1. -/
def decCustom3_1 (f : Fields) : Option Instr :=
  match f.f7.toNat with
    | _ => if f.rd.extractLsb' 4 1 = 0x0#1 ∧ f.rs1 = 0x0#5 ∧ f.f7.extractLsb' 0 2 = 0x0#2 then some (.mmal (f.rd.extractLsb' 1 3) (f.rd.extractLsb' 0 1) f.rs2 (f.f7.extractLsb' 2 5)) else if f.rd.extractLsb' 4 1 = 0x0#1 ∧ f.rs1 = 0x0#5 ∧ f.f7.extractLsb' 0 2 = 0x1#2 then some (.mmalO (f.rd.extractLsb' 1 3) (f.rd.extractLsb' 0 1) f.rs2 (f.f7.extractLsb' 2 5)) else if f.rd.extractLsb' 4 1 = 0x0#1 ∧ f.rs1 = 0x0#5 ∧ f.f7.extractLsb' 0 2 = 0x2#2 then some (.mmalR (f.rd.extractLsb' 1 3) (f.rd.extractLsb' 0 1) f.rs2 (f.f7.extractLsb' 2 5)) else none

/-- R37 to R47: opcode 0x7B, funct3 2. -/
def decCustom3_2 (f : Fields) : Option Instr :=
  match f.f7.toNat with
    | 0x00 => if f.rd = 0x0#5 then some (.mgth f.rs1 f.rs2) else none
    | 0x01 => if f.rs2 = 0x0#5 ∧ f.rd.extractLsb' 3 2 = 0x0#2 ∧ f.rd.extractLsb' 0 3 ≠ 0#3 then some (.msct (f.rd.extractLsb' 0 3) f.rs1) else none
    | 0x02 => if f.rd.extractLsb' 1 4 = 0x0#4 ∧ f.rs1 = 0x0#5 ∧ f.rs2 = 0x0#5 then some (.mclr (f.rd.extractLsb' 0 1)) else none
    | _ => none

/-- R37 to R47: opcode 0x7B, funct3 3. -/
def decCustom3_3 (f : Fields) : Option Instr :=
  match f.f7.toNat with
    | _ => if f.f7.extractLsb' 1 6 = 0x0#6 then some (.cpy f.rd f.rs1 f.rs2 (f.f7.extractLsb' 0 1)) else if f.f7.extractLsb' 1 6 = 0x1#6 then some (.cpy2 f.rd f.rs1 f.rs2 (f.f7.extractLsb' 0 1)) else if f.f7.extractLsb' 1 6 = 0x2#6 then some (.cpyz f.rd f.rs1 f.rs2 (f.f7.extractLsb' 0 1)) else if f.f7.extractLsb' 1 6 = 0x3#6 then some (.cput f.rd f.rs1 f.rs2 (f.f7.extractLsb' 0 1)) else if f.f7.extractLsb' 1 6 = 0x4#6 then some (.cget f.rd f.rs1 f.rs2 (f.f7.extractLsb' 0 1)) else none

/-- R37 to R47: opcode 0x7B, funct3 4. -/
def decCustom3_4 (f : Fields) : Option Instr :=
  match f.f7.toNat with
    | _ => if f.rd = 0x0#5 ∧ f.rs2 = 0x0#5 ∧ f.f7.extractLsb' 1 6 = 0x0#6 then some (.cfnc (f.f7.extractLsb' 0 1) f.rs1) else if f.rs1 = 0x0#5 ∧ f.rs2 = 0x0#5 ∧ f.f7.extractLsb' 1 6 = 0x1#6 then some (.cseq f.rd (f.f7.extractLsb' 0 1)) else none

/-- R37 to R47: the words of major opcode 0x7B. -/
def decCustom3 (f : Fields) : Option Instr :=
  match f.f3.toNat with
  | 5 => decCustom3_5 f
  | 0 => decCustom3_0 f
  | 1 => decCustom3_1 f
  | 2 => decCustom3_2 f
  | 3 => decCustom3_3 f
  | 4 => decCustom3_4 f
  | _ => none

/-- R37 to R47: opcode 0x0B, funct3 0. -/
def decCustom0_0 (f : Fields) : Option Instr :=
  match f.f7.toNat with
    | 0x00 => some (.spawn f.rd f.rs1 f.rs2)
    | 0x01 => if f.rd = 0x0#5 ∧ f.rs1 = 0x0#5 ∧ f.rs2 = 0x0#5 then some (.park) else none
    | 0x02 => if f.rd = 0x0#5 ∧ f.rs1 = 0x0#5 ∧ f.rs2 = 0x0#5 then some (.yield) else none
    | 0x03 => if f.rd = 0x0#5 ∧ f.rs1 = 0x0#5 ∧ f.rs2 = 0x0#5 then some (.exit) else none
    | _ => none

/-- R37 to R47: opcode 0x0B, funct3 1. -/
def decCustom0_1 (f : Fields) : Option Instr :=
  match f.f7.toNat with
    | 0x00 => if f.rd = 0x0#5 then some (.send f.rs1 f.rs2) else none
    | 0x01 => if f.rd = 0x0#5 then some (.sendV f.rs1 f.rs2) else none
    | 0x02 => if f.rs2 = 0x0#5 then some (.recv f.rd f.rs1) else none
    | 0x03 => if f.rs2 = 0x0#5 then some (.recvV f.rd f.rs1) else none
    | 0x04 => if f.rs2 = 0x0#5 then some (.rpoll f.rd f.rs1) else none
    | _ => none

/-- R37 to R47: opcode 0x0B, funct3 2. -/
def decCustom0_2 (f : Fields) : Option Instr :=
  match f.f7.toNat with
    | 0x00 => if f.rd = 0x0#5 ∧ f.rs1 = 0x0#5 ∧ f.rs2 = 0x0#5 then some (.wfw) else none
    | 0x01 => some (.dput f.rd f.rs1 f.rs2)
    | 0x02 => if f.rd = 0x0#5 ∧ f.rs2 = 0x0#5 then some (.dlarm f.rs1) else none
    | 0x03 => if f.rd = 0x0#5 ∧ f.rs1 = 0x0#5 ∧ f.rs2 = 0x0#5 then some (.dldone) else none
    | _ => none

/-- R37 to R47: opcode 0x0B, funct3 3. -/
def decCustom0_3 (f : Fields) : Option Instr :=
  match f.f7.toNat with
    | 0x00 => if f.rd = 0x0#5 ∧ f.rs2.toNat ≤ 4 then some (.tcall f.rs1 f.rs2) else none
    | 0x01 => if f.rd = 0x0#5 ∧ f.rs2 = 0x0#5 then some (.tret f.rs1) else none
    | 0x02 => if f.rd = 0x0#5 then some (.tfail f.rs1 f.rs2) else none
    | 0x03 => if f.rs2.toNat ≤ 4 then some (.tlook f.rd f.rs1 f.rs2) else none
    | 0x04 => some (.tgopen f.rd f.rs1 f.rs2)
    | 0x05 => if f.rd = 0x0#5 ∧ f.rs2 = 0x0#5 then some (.tgclose f.rs1) else none
    | 0x06 => if f.rd = 0x0#5 ∧ f.rs2 = 0x0#5 then some (.tgseal f.rs1) else none
    | 0x07 => if f.rd = 0x0#5 ∧ f.rs2 = 0x0#5 then some (.tgdrop f.rs1) else none
    | _ => none

/-- R37 to R47: opcode 0x0B, funct3 4. -/
def decCustom0_4 (f : Fields) : Option Instr :=
  match f.f7.toNat with
    | 0x00 => if f.rd = 0x0#5 ∧ f.rs2 = 0x0#5 then some (.barA f.rs1) else none
    | 0x01 => if f.rd = 0x0#5 ∧ f.rs2 = 0x0#5 then some (.barW f.rs1) else none
    | 0x02 => if f.rd = 0x0#5 ∧ f.rs2 = 0x0#5 then some (.barAw f.rs1) else none
    | 0x03 => some (.collRed f.rd f.rs1 f.rs2)
    | 0x04 => some (.collBc f.rd f.rs1 f.rs2)
    | _ => none

/-- R37 to R47: the words of major opcode 0x0B. -/
def decCustom0 (f : Fields) : Option Instr :=
  match f.f3.toNat with
  | 5 => if f.f7.extractLsb' 1 6 ≠ 0#6 then some (.sig (f.f7.extractLsb' 0 1 ++ f.rs2 ++ f.rs1 ++ f.rd) (f.f7.extractLsb' 1 6)) else none
  | 0 => decCustom0_0 f
  | 1 => decCustom0_1 f
  | 2 => decCustom0_2 f
  | 3 => decCustom0_3 f
  | 4 => decCustom0_4 f
  | 6 => if f.rd = 0x0#5 ∧ f.rs1 = 0x0#5 then some (.waitc (f.f7.extractLsb' 4 3) (f.f7.extractLsb' 1 3) (f.f7.extractLsb' 0 1 ++ f.rs2.extractLsb' 3 2) (f.rs2.extractLsb' 0 3)) else none
  | _ => none

/-- R37 to R47: opcode 0x2B, funct3 3. -/
def decCustom1_3 (f : Fields) : Option Instr :=
  match f.f7.toNat with
    | 0x00 => some (.amaddW f.rd f.rs1 f.rs2)
    | 0x01 => some (.amaddD f.rd f.rs1 f.rs2)
    | 0x04 => some (.amsminW f.rd f.rs1 f.rs2)
    | 0x05 => some (.amsminD f.rd f.rs1 f.rs2)
    | 0x08 => some (.amsmaxW f.rd f.rs1 f.rs2)
    | 0x09 => some (.amsmaxD f.rd f.rs1 f.rs2)
    | 0x0C => some (.amuminW f.rd f.rs1 f.rs2)
    | 0x0D => some (.amuminD f.rd f.rs1 f.rs2)
    | 0x10 => some (.amumaxW f.rd f.rs1 f.rs2)
    | 0x11 => some (.amumaxD f.rd f.rs1 f.rs2)
    | 0x14 => some (.amswapW f.rd f.rs1 f.rs2)
    | 0x15 => some (.amswapD f.rd f.rs1 f.rs2)
    | 0x18 => some (.amcasW f.rd f.rs1 f.rs2)
    | 0x19 => some (.amcasD f.rd f.rs1 f.rs2)
    | _ => none

/-- R37 to R47: opcode 0x2B, funct3 4. -/
def decCustom1_4 (f : Fields) : Option Instr :=
  match f.f7.toNat with
    | 0x00 => some (.apndD f.rd f.rs1 f.rs2)
    | 0x10 => if f.rs2 = 0x0#5 then some (.seal f.rd f.rs1) else none
    | 0x11 => if f.rd = 0x0#5 ∧ f.rs2 = 0x0#5 then some (.roam f.rs1) else none
    | 0x12 => if f.rs2 = 0x0#5 then some (.vtag f.rd f.rs1) else none
    | 0x13 => if f.rd = 0x0#5 then some (.vrcl f.rs1 f.rs2) else none
    | 0x14 => if f.rd = 0x0#5 then some (.srepl f.rs1 f.rs2) else none
    | _ => if f.f7.extractLsb' 3 4 = 0x1#4 then some (.apndV f.rd f.rs1 f.rs2 (f.f7.extractLsb' 0 3)) else none

/-- R37 to R47: opcode 0x2B, funct3 5. -/
def decCustom1_5 (f : Fields) : Option Instr :=
  match f.f7.toNat with
    | 0x00 => if f.rd = 0x0#5 ∧ f.rs1 = 0x0#5 ∧ f.rs2 = 0x0#5 then some (.fncC) else none
    | 0x01 => if f.rd = 0x0#5 ∧ f.rs1 = 0x0#5 ∧ f.rs2 = 0x0#5 then some (.fncL) else none
    | 0x02 => if f.rd = 0x0#5 ∧ f.rs1 = 0x0#5 ∧ f.rs2 = 0x0#5 then some (.fncF) else none
    | 0x03 => if f.rd = 0x0#5 ∧ f.rs1 = 0x0#5 ∧ f.rs2 = 0x0#5 then some (.fncW) else none
    | 0x04 => if f.rd = 0x0#5 ∧ f.rs1 = 0x0#5 ∧ f.rs2 = 0x0#5 then some (.fncS) else none
    | _ => none

/-- R37 to R47: opcode 0x2B, funct3 6. -/
def decCustom1_6 (f : Fields) : Option Instr :=
  match f.f7.toNat with
    | 0x00 => if f.rs2 = 0x0#5 then some (.vlr f.rd f.rs1) else none
    | 0x01 => if f.rd = 0x0#5 then some (.vsr f.rs1 f.rs2) else none
    | 0x02 => some (.vlrg f.rd f.rs1 f.rs2)
    | _ => none

/-- R37 to R47: the words of major opcode 0x2B. -/
def decCustom1 (f : Fields) : Option Instr :=
  match f.f3.toNat with
  | 0 => some (.vld f.rd f.rs1 (f.f7 ++ f.rs2.extractLsb' 3 2) (f.rs2.extractLsb' 0 3))
  | 1 => some (.vst f.rs1 f.rs2 (f.f7 ++ f.rd.extractLsb' 3 2) (f.rd.extractLsb' 0 3))
  | 2 => some (.vtake f.rd f.rs1 (f.f7 ++ f.rs2.extractLsb' 3 2) (f.rs2.extractLsb' 0 3))
  | 3 => decCustom1_3 f
  | 4 => decCustom1_4 f
  | 5 => decCustom1_5 f
  | 6 => decCustom1_6 f
  | _ => none

/-- R37 to R47: opcode 0x5B, funct3 0. -/
def decCustom2_0 (f : Fields) : Option Instr :=
  match f.f7.toNat with
    | 0x00 => some (.vaddVv f.rd f.rs1 f.rs2)
    | 0x01 => some (.vsubVv f.rd f.rs1 f.rs2)
    | 0x02 => some (.vmulVv f.rd f.rs1 f.rs2)
    | 0x03 => some (.vminVv f.rd f.rs1 f.rs2)
    | 0x04 => some (.vmaxVv f.rd f.rs1 f.rs2)
    | 0x05 => some (.vfmaVv f.rd f.rs1 f.rs2)
    | 0x06 => some (.vfnmaVv f.rd f.rs1 f.rs2)
    | 0x08 => some (.vandVv f.rd f.rs1 f.rs2)
    | 0x09 => some (.vorVv f.rd f.rs1 f.rs2)
    | 0x0A => some (.vxorVv f.rd f.rs1 f.rs2)
    | 0x0B => some (.vsllVv f.rd f.rs1 f.rs2)
    | 0x0C => some (.vsrlVv f.rd f.rs1 f.rs2)
    | 0x0D => some (.vsraVv f.rd f.rs1 f.rs2)
    | 0x10 => if f.rd = 0x0#5 then some (.vceqVv f.rs1 f.rs2) else none
    | 0x11 => if f.rd = 0x0#5 then some (.vcneVv f.rs1 f.rs2) else none
    | 0x12 => if f.rd = 0x0#5 then some (.vcltVv f.rs1 f.rs2) else none
    | 0x13 => if f.rd = 0x0#5 then some (.vcleVv f.rs1 f.rs2) else none
    | 0x14 => some (.vselVv f.rd f.rs1 f.rs2)
    | 0x18 => some (.vpermVv f.rd f.rs1 f.rs2)
    | 0x38 => some (.vamulVv f.rd f.rs1 f.rs2)
    | _ => none

/-- R37 to R47: opcode 0x5B, funct3 1. -/
def decCustom2_1 (f : Fields) : Option Instr :=
  match f.f7.toNat with
    | 0x00 => some (.vaddVx f.rd f.rs1 f.rs2)
    | 0x01 => some (.vsubVx f.rd f.rs1 f.rs2)
    | 0x02 => some (.vmulVx f.rd f.rs1 f.rs2)
    | 0x03 => some (.vminVx f.rd f.rs1 f.rs2)
    | 0x04 => some (.vmaxVx f.rd f.rs1 f.rs2)
    | 0x05 => some (.vfmaVx f.rd f.rs1 f.rs2)
    | 0x06 => some (.vfnmaVx f.rd f.rs1 f.rs2)
    | 0x08 => some (.vandVx f.rd f.rs1 f.rs2)
    | 0x09 => some (.vorVx f.rd f.rs1 f.rs2)
    | 0x0A => some (.vxorVx f.rd f.rs1 f.rs2)
    | 0x0B => some (.vsllVx f.rd f.rs1 f.rs2)
    | 0x0C => some (.vsrlVx f.rd f.rs1 f.rs2)
    | 0x0D => some (.vsraVx f.rd f.rs1 f.rs2)
    | 0x10 => if f.rd = 0x0#5 then some (.vceqVx f.rs1 f.rs2) else none
    | 0x11 => if f.rd = 0x0#5 then some (.vcneVx f.rs1 f.rs2) else none
    | 0x12 => if f.rd = 0x0#5 then some (.vcltVx f.rs1 f.rs2) else none
    | 0x13 => if f.rd = 0x0#5 then some (.vcleVx f.rs1 f.rs2) else none
    | 0x14 => some (.vselVx f.rd f.rs1 f.rs2)
    | 0x19 => some (.vrotVx f.rd f.rs1 f.rs2)
    | 0x1A => if f.rs1 = 0x0#5 then some (.vbcVx f.rd f.rs2) else none
    | _ => none

/-- R37 to R47: opcode 0x5B, funct3 2. -/
def decCustom2_2 (f : Fields) : Option Instr :=
  match f.f7.toNat with
    | 0x00 => some (.vaddVf f.rd f.rs1 f.rs2)
    | 0x01 => some (.vsubVf f.rd f.rs1 f.rs2)
    | 0x02 => some (.vmulVf f.rd f.rs1 f.rs2)
    | 0x03 => some (.vminVf f.rd f.rs1 f.rs2)
    | 0x04 => some (.vmaxVf f.rd f.rs1 f.rs2)
    | 0x05 => some (.vfmaVf f.rd f.rs1 f.rs2)
    | 0x06 => some (.vfnmaVf f.rd f.rs1 f.rs2)
    | 0x10 => if f.rd = 0x0#5 then some (.vceqVf f.rs1 f.rs2) else none
    | 0x11 => if f.rd = 0x0#5 then some (.vcneVf f.rs1 f.rs2) else none
    | 0x12 => if f.rd = 0x0#5 then some (.vcltVf f.rs1 f.rs2) else none
    | 0x13 => if f.rd = 0x0#5 then some (.vcleVf f.rs1 f.rs2) else none
    | 0x14 => some (.vselVf f.rd f.rs1 f.rs2)
    | 0x1A => if f.rs1 = 0x0#5 then some (.vbcVf f.rd f.rs2) else none
    | _ => none

/-- R37 to R47: opcode 0x5B, funct3 3. -/
def decCustom2_3 (f : Fields) : Option Instr :=
  match f.f7.toNat with
    | 0x00 => some (.vaddVi f.rd f.rs1 f.rs2)
    | 0x01 => some (.vsubVi f.rd f.rs1 f.rs2)
    | 0x02 => some (.vmulVi f.rd f.rs1 f.rs2)
    | 0x03 => some (.vminVi f.rd f.rs1 f.rs2)
    | 0x04 => some (.vmaxVi f.rd f.rs1 f.rs2)
    | 0x08 => some (.vandVi f.rd f.rs1 f.rs2)
    | 0x09 => some (.vorVi f.rd f.rs1 f.rs2)
    | 0x0A => some (.vxorVi f.rd f.rs1 f.rs2)
    | 0x0B => some (.vsllVi f.rd f.rs1 f.rs2)
    | 0x0C => some (.vsrlVi f.rd f.rs1 f.rs2)
    | 0x0D => some (.vsraVi f.rd f.rs1 f.rs2)
    | 0x10 => if f.rd = 0x0#5 then some (.vceqVi f.rs1 f.rs2) else none
    | 0x11 => if f.rd = 0x0#5 then some (.vcneVi f.rs1 f.rs2) else none
    | 0x12 => if f.rd = 0x0#5 then some (.vcltVi f.rs1 f.rs2) else none
    | 0x13 => if f.rd = 0x0#5 then some (.vcleVi f.rs1 f.rs2) else none
    | 0x14 => some (.vselVi f.rd f.rs1 f.rs2)
    | 0x19 => some (.vrotVi f.rd f.rs1 f.rs2)
    | _ => none

/-- R37 to R47: opcode 0x5B, funct3 4. -/
def decCustom2_4 (f : Fields) : Option Instr :=
  match f.f7.toNat with
    | 0x20 => if f.rs2 = 0x0#5 then some (.vmv f.rd f.rs1) else none
    | 0x21 => if f.rs2 = 0x0#5 then some (.vneg f.rd f.rs1) else none
    | 0x22 => if f.rs2 = 0x0#5 then some (.vabs f.rd f.rs1) else none
    | 0x24 => if f.rs2 = 0x0#5 then some (.vrcp f.rd f.rs1) else none
    | 0x25 => if f.rs2 = 0x0#5 then some (.vrsq f.rd f.rs1) else none
    | 0x26 => if f.rs2 = 0x0#5 then some (.vexp2 f.rd f.rs1) else none
    | 0x27 => if f.rs2 = 0x0#5 then some (.vlog2 f.rd f.rs1) else none
    | 0x28 => if f.rs2 = 0x0#5 then some (.vtanh f.rd f.rs1) else none
    | 0x2C => if f.rs2.extractLsb' 4 1 = 0x0#1 ∧ (f.rs2.extractLsb' 0 3).toNat ≤ 5 then some (.vcvt f.rd f.rs1 (f.rs2.extractLsb' 0 4)) else none
    | 0x30 => if f.rs2 = 0x0#5 then some (.vconj f.rd f.rs1) else none
    | 0x31 => if f.rs2 = 0x0#5 then some (.vnorm f.rd f.rs1) else none
    | 0x34 => if f.rs2 = 0x0#5 then some (.vhad f.rd f.rs1) else none
    | 0x35 => if f.rs2 = 0x0#5 then some (.vhadS f.rd f.rs1) else none
    | _ => none

/-- R37 to R47: opcode 0x5B, funct3 5. -/
def decCustom2_5 (f : Fields) : Option Instr :=
  match f.f7.toNat with
    | 0x00 => if f.rs2 = 0x0#5 then some (.vrsumX f.rd f.rs1) else none
    | 0x40 => if f.rs2 = 0x0#5 then some (.vrsumF f.rd f.rs1) else none
    | 0x01 => if f.rs2 = 0x0#5 then some (.vrmaxX f.rd f.rs1) else none
    | 0x41 => if f.rs2 = 0x0#5 then some (.vrmaxF f.rd f.rs1) else none
    | 0x02 => if f.rs2 = 0x0#5 then some (.vrminX f.rd f.rs1) else none
    | 0x42 => if f.rs2 = 0x0#5 then some (.vrminF f.rd f.rs1) else none
    | 0x03 => some (.vgetX f.rd f.rs1 f.rs2)
    | 0x43 => some (.vgetF f.rd f.rs1 f.rs2)
    | _ => none

/-- R37 to R47: opcode 0x5B, funct3 7. -/
def decCustom2_7 (f : Fields) : Option Instr :=
  match f.f7.toNat with
    | 0x00 => if f.rd = 0x0#5 then some (.vqnt f.rs1 f.rs2) else none
    | 0x01 => if f.rs1 = 0x0#5 then some (.vdqnt f.rd f.rs2) else none
    | _ => none

/-- R37 to R47: the words of major opcode 0x5B. -/
def decCustom2 (f : Fields) : Option Instr :=
  match f.f3.toNat with
  | 0 => decCustom2_0 f
  | 1 => decCustom2_1 f
  | 2 => decCustom2_2 f
  | 3 => decCustom2_3 f
  | 4 => decCustom2_4 f
  | 5 => decCustom2_5 f
  | 6 => if f.rd.extractLsb' 4 1 = 0x0#1 ∧ f.f7.extractLsb' 3 4 = 0x0#4 then some (.vrep (f.rd.extractLsb' 0 4) f.rs1 f.rs2 (f.f7.extractLsb' 0 3)) else none
  | 7 => decCustom2_7 f
  | _ => none

/-- R37: decoding by major opcode. -/
def decodeFields (f : Fields) : Option Instr :=
  match f.op.toNat with
  | 0x37 => some (.lui f.rd (immU f))
  | 0x17 => some (.auipc f.rd (immU f))
  | 0x6F => some (.jal f.rd (immJ f))
  | 0x67 => if f.f3 = 0x0#3 then some (.jalr f.rd f.rs1 (immI f)) else none
  | 0x63 => decBranch f
  | 0x03 => decLoad f
  | 0x23 => decStore f
  | 0x13 => decOpImm f
  | 0x33 => decOp f
  | 0x1B => decOpImm32 f
  | 0x3B => decOp32 f
  | 0x0F => decMiscMem f
  | 0x73 => decSystem f
  | 0x07 => if f.f3 = 0x2#3 then some (.flw f.rd f.rs1 (immI f)) else none
  | 0x27 => if f.f3 = 0x2#3 then some (.fsw f.rs1 f.rs2 (immS f)) else none
  | 0x43 => if f.f7.extractLsb' 0 2 = 0x0#2 ∧ f.f3 ≠ 5#3 ∧ f.f3 ≠ 6#3 then some (.fmaddS f.rd f.rs1 f.rs2 (f.f7.extractLsb' 2 5) f.f3) else none
  | 0x47 => if f.f7.extractLsb' 0 2 = 0x0#2 ∧ f.f3 ≠ 5#3 ∧ f.f3 ≠ 6#3 then some (.fmsubS f.rd f.rs1 f.rs2 (f.f7.extractLsb' 2 5) f.f3) else none
  | 0x4B => if f.f7.extractLsb' 0 2 = 0x0#2 ∧ f.f3 ≠ 5#3 ∧ f.f3 ≠ 6#3 then some (.fnmsubS f.rd f.rs1 f.rs2 (f.f7.extractLsb' 2 5) f.f3) else none
  | 0x4F => if f.f7.extractLsb' 0 2 = 0x0#2 ∧ f.f3 ≠ 5#3 ∧ f.f3 ≠ 6#3 then some (.fnmaddS f.rd f.rs1 f.rs2 (f.f7.extractLsb' 2 5) f.f3) else none
  | 0x53 => decOpFp f
  | 0x7B => decCustom3 f
  | 0x0B => decCustom0 f
  | 0x2B => decCustom1 f
  | 0x5B => decCustom2 f
  | _ => none

/-- The instruction of a word, or nothing: an illegal word (R29, R37 to R39). -/
def decode (w : Code) : Option Instr := decodeFields (fieldsOf w)

end

/-- The fields of an instruction (R34 to R47, R56, R62, R68, R128, R180, R225, R267, R281, R335); events have none. -/
def encodeFields (i : Instr) : Option Fields :=
  match i with
  | .lui rd imm20 => some ⟨0x37#7, rd, imm20.extractLsb' 0 3, imm20.extractLsb' 3 5, imm20.extractLsb' 8 5, imm20.extractLsb' 13 7⟩
  | .auipc rd imm20 => some ⟨0x17#7, rd, imm20.extractLsb' 0 3, imm20.extractLsb' 3 5, imm20.extractLsb' 8 5, imm20.extractLsb' 13 7⟩
  | .jal rd imm20 => some ⟨0x6F#7, rd, imm20.extractLsb' 11 3, imm20.extractLsb' 14 5, imm20.extractLsb' 0 4 ++ imm20.extractLsb' 10 1, imm20.extractLsb' 19 1 ++ imm20.extractLsb' 4 6⟩
  | .jalr rd rs1 imm12 => some ⟨0x67#7, rd, 0x0#3, rs1, imm12.extractLsb' 0 5, imm12.extractLsb' 5 7⟩
  | .beq rs1 rs2 imm12 => some ⟨0x63#7, imm12.extractLsb' 0 4 ++ imm12.extractLsb' 10 1, 0x0#3, rs1, rs2, imm12.extractLsb' 11 1 ++ imm12.extractLsb' 4 6⟩
  | .bne rs1 rs2 imm12 => some ⟨0x63#7, imm12.extractLsb' 0 4 ++ imm12.extractLsb' 10 1, 0x1#3, rs1, rs2, imm12.extractLsb' 11 1 ++ imm12.extractLsb' 4 6⟩
  | .blt rs1 rs2 imm12 => some ⟨0x63#7, imm12.extractLsb' 0 4 ++ imm12.extractLsb' 10 1, 0x4#3, rs1, rs2, imm12.extractLsb' 11 1 ++ imm12.extractLsb' 4 6⟩
  | .bge rs1 rs2 imm12 => some ⟨0x63#7, imm12.extractLsb' 0 4 ++ imm12.extractLsb' 10 1, 0x5#3, rs1, rs2, imm12.extractLsb' 11 1 ++ imm12.extractLsb' 4 6⟩
  | .bltu rs1 rs2 imm12 => some ⟨0x63#7, imm12.extractLsb' 0 4 ++ imm12.extractLsb' 10 1, 0x6#3, rs1, rs2, imm12.extractLsb' 11 1 ++ imm12.extractLsb' 4 6⟩
  | .bgeu rs1 rs2 imm12 => some ⟨0x63#7, imm12.extractLsb' 0 4 ++ imm12.extractLsb' 10 1, 0x7#3, rs1, rs2, imm12.extractLsb' 11 1 ++ imm12.extractLsb' 4 6⟩
  | .lb rd rs1 imm12 => some ⟨0x03#7, rd, 0x0#3, rs1, imm12.extractLsb' 0 5, imm12.extractLsb' 5 7⟩
  | .lh rd rs1 imm12 => some ⟨0x03#7, rd, 0x1#3, rs1, imm12.extractLsb' 0 5, imm12.extractLsb' 5 7⟩
  | .lw rd rs1 imm12 => some ⟨0x03#7, rd, 0x2#3, rs1, imm12.extractLsb' 0 5, imm12.extractLsb' 5 7⟩
  | .ld rd rs1 imm12 => some ⟨0x03#7, rd, 0x3#3, rs1, imm12.extractLsb' 0 5, imm12.extractLsb' 5 7⟩
  | .lbu rd rs1 imm12 => some ⟨0x03#7, rd, 0x4#3, rs1, imm12.extractLsb' 0 5, imm12.extractLsb' 5 7⟩
  | .lhu rd rs1 imm12 => some ⟨0x03#7, rd, 0x5#3, rs1, imm12.extractLsb' 0 5, imm12.extractLsb' 5 7⟩
  | .lwu rd rs1 imm12 => some ⟨0x03#7, rd, 0x6#3, rs1, imm12.extractLsb' 0 5, imm12.extractLsb' 5 7⟩
  | .sb rs1 rs2 imm12 => some ⟨0x23#7, imm12.extractLsb' 0 5, 0x0#3, rs1, rs2, imm12.extractLsb' 5 7⟩
  | .sh rs1 rs2 imm12 => some ⟨0x23#7, imm12.extractLsb' 0 5, 0x1#3, rs1, rs2, imm12.extractLsb' 5 7⟩
  | .sw rs1 rs2 imm12 => some ⟨0x23#7, imm12.extractLsb' 0 5, 0x2#3, rs1, rs2, imm12.extractLsb' 5 7⟩
  | .sd rs1 rs2 imm12 => some ⟨0x23#7, imm12.extractLsb' 0 5, 0x3#3, rs1, rs2, imm12.extractLsb' 5 7⟩
  | .addi rd rs1 imm12 => some ⟨0x13#7, rd, 0x0#3, rs1, imm12.extractLsb' 0 5, imm12.extractLsb' 5 7⟩
  | .slti rd rs1 imm12 => some ⟨0x13#7, rd, 0x2#3, rs1, imm12.extractLsb' 0 5, imm12.extractLsb' 5 7⟩
  | .sltiu rd rs1 imm12 => some ⟨0x13#7, rd, 0x3#3, rs1, imm12.extractLsb' 0 5, imm12.extractLsb' 5 7⟩
  | .xori rd rs1 imm12 => some ⟨0x13#7, rd, 0x4#3, rs1, imm12.extractLsb' 0 5, imm12.extractLsb' 5 7⟩
  | .ori rd rs1 imm12 => some ⟨0x13#7, rd, 0x6#3, rs1, imm12.extractLsb' 0 5, imm12.extractLsb' 5 7⟩
  | .andi rd rs1 imm12 => some ⟨0x13#7, rd, 0x7#3, rs1, imm12.extractLsb' 0 5, imm12.extractLsb' 5 7⟩
  | .slli rd rs1 sh6 => some ⟨0x13#7, rd, 0x1#3, rs1, sh6.extractLsb' 0 5, 0x0#6 ++ sh6.extractLsb' 5 1⟩
  | .srli rd rs1 sh6 => some ⟨0x13#7, rd, 0x5#3, rs1, sh6.extractLsb' 0 5, 0x0#6 ++ sh6.extractLsb' 5 1⟩
  | .srai rd rs1 sh6 => some ⟨0x13#7, rd, 0x5#3, rs1, sh6.extractLsb' 0 5, 0x10#6 ++ sh6.extractLsb' 5 1⟩
  | .add rd rs1 rs2 => some ⟨0x33#7, rd, 0x0#3, rs1, rs2, 0x0#7⟩
  | .sub rd rs1 rs2 => some ⟨0x33#7, rd, 0x0#3, rs1, rs2, 0x20#7⟩
  | .sll rd rs1 rs2 => some ⟨0x33#7, rd, 0x1#3, rs1, rs2, 0x0#7⟩
  | .slt rd rs1 rs2 => some ⟨0x33#7, rd, 0x2#3, rs1, rs2, 0x0#7⟩
  | .sltu rd rs1 rs2 => some ⟨0x33#7, rd, 0x3#3, rs1, rs2, 0x0#7⟩
  | .xor rd rs1 rs2 => some ⟨0x33#7, rd, 0x4#3, rs1, rs2, 0x0#7⟩
  | .srl rd rs1 rs2 => some ⟨0x33#7, rd, 0x5#3, rs1, rs2, 0x0#7⟩
  | .sra rd rs1 rs2 => some ⟨0x33#7, rd, 0x5#3, rs1, rs2, 0x20#7⟩
  | .or rd rs1 rs2 => some ⟨0x33#7, rd, 0x6#3, rs1, rs2, 0x0#7⟩
  | .and rd rs1 rs2 => some ⟨0x33#7, rd, 0x7#3, rs1, rs2, 0x0#7⟩
  | .mul rd rs1 rs2 => some ⟨0x33#7, rd, 0x0#3, rs1, rs2, 0x1#7⟩
  | .mulh rd rs1 rs2 => some ⟨0x33#7, rd, 0x1#3, rs1, rs2, 0x1#7⟩
  | .mulhsu rd rs1 rs2 => some ⟨0x33#7, rd, 0x2#3, rs1, rs2, 0x1#7⟩
  | .mulhu rd rs1 rs2 => some ⟨0x33#7, rd, 0x3#3, rs1, rs2, 0x1#7⟩
  | .div rd rs1 rs2 => some ⟨0x33#7, rd, 0x4#3, rs1, rs2, 0x1#7⟩
  | .divu rd rs1 rs2 => some ⟨0x33#7, rd, 0x5#3, rs1, rs2, 0x1#7⟩
  | .rem rd rs1 rs2 => some ⟨0x33#7, rd, 0x6#3, rs1, rs2, 0x1#7⟩
  | .remu rd rs1 rs2 => some ⟨0x33#7, rd, 0x7#3, rs1, rs2, 0x1#7⟩
  | .addiw rd rs1 imm12 => some ⟨0x1B#7, rd, 0x0#3, rs1, imm12.extractLsb' 0 5, imm12.extractLsb' 5 7⟩
  | .slliw rd rs1 sh5 => some ⟨0x1B#7, rd, 0x1#3, rs1, sh5, 0x0#7⟩
  | .srliw rd rs1 sh5 => some ⟨0x1B#7, rd, 0x5#3, rs1, sh5, 0x0#7⟩
  | .sraiw rd rs1 sh5 => some ⟨0x1B#7, rd, 0x5#3, rs1, sh5, 0x20#7⟩
  | .addw rd rs1 rs2 => some ⟨0x3B#7, rd, 0x0#3, rs1, rs2, 0x0#7⟩
  | .subw rd rs1 rs2 => some ⟨0x3B#7, rd, 0x0#3, rs1, rs2, 0x20#7⟩
  | .sllw rd rs1 rs2 => some ⟨0x3B#7, rd, 0x1#3, rs1, rs2, 0x0#7⟩
  | .srlw rd rs1 rs2 => some ⟨0x3B#7, rd, 0x5#3, rs1, rs2, 0x0#7⟩
  | .sraw rd rs1 rs2 => some ⟨0x3B#7, rd, 0x5#3, rs1, rs2, 0x20#7⟩
  | .mulw rd rs1 rs2 => some ⟨0x3B#7, rd, 0x0#3, rs1, rs2, 0x1#7⟩
  | .divw rd rs1 rs2 => some ⟨0x3B#7, rd, 0x4#3, rs1, rs2, 0x1#7⟩
  | .divuw rd rs1 rs2 => some ⟨0x3B#7, rd, 0x5#3, rs1, rs2, 0x1#7⟩
  | .remw rd rs1 rs2 => some ⟨0x3B#7, rd, 0x6#3, rs1, rs2, 0x1#7⟩
  | .remuw rd rs1 rs2 => some ⟨0x3B#7, rd, 0x7#3, rs1, rs2, 0x1#7⟩
  | .fence => some ⟨0x0F#7, 0x0#5, 0x0#3, 0x0#5, 0x0#5, 0x0#7⟩
  | .fenceI => some ⟨0x0F#7, 0x0#5, 0x1#3, 0x0#5, 0x0#5, 0x0#7⟩
  | .ecall => some ⟨0x73#7, 0x0#5, 0x0#3, 0x0#5, 0x0#5, 0x0#7⟩
  | .ebreak => some ⟨0x73#7, 0x0#5, 0x0#3, 0x0#5, 0x1#5, 0x0#7⟩
  | .csrrw rd rs1 csr => some ⟨0x73#7, rd, 0x1#3, rs1, csr.extractLsb' 0 5, csr.extractLsb' 5 7⟩
  | .csrrs rd rs1 csr => some ⟨0x73#7, rd, 0x2#3, rs1, csr.extractLsb' 0 5, csr.extractLsb' 5 7⟩
  | .csrrc rd rs1 csr => some ⟨0x73#7, rd, 0x3#3, rs1, csr.extractLsb' 0 5, csr.extractLsb' 5 7⟩
  | .csrrwi rd z csr => some ⟨0x73#7, rd, 0x5#3, z, csr.extractLsb' 0 5, csr.extractLsb' 5 7⟩
  | .csrrsi rd z csr => some ⟨0x73#7, rd, 0x6#3, z, csr.extractLsb' 0 5, csr.extractLsb' 5 7⟩
  | .csrrci rd z csr => some ⟨0x73#7, rd, 0x7#3, z, csr.extractLsb' 0 5, csr.extractLsb' 5 7⟩
  | .flw rd rs1 imm12 => some ⟨0x07#7, rd, 0x2#3, rs1, imm12.extractLsb' 0 5, imm12.extractLsb' 5 7⟩
  | .fsw rs1 rs2 imm12 => some ⟨0x27#7, imm12.extractLsb' 0 5, 0x2#3, rs1, rs2, imm12.extractLsb' 5 7⟩
  | .fmaddS rd rs1 rs2 rs3 rm => some ⟨0x43#7, rd, rm, rs1, rs2, rs3 ++ 0x0#2⟩
  | .fmsubS rd rs1 rs2 rs3 rm => some ⟨0x47#7, rd, rm, rs1, rs2, rs3 ++ 0x0#2⟩
  | .fnmsubS rd rs1 rs2 rs3 rm => some ⟨0x4B#7, rd, rm, rs1, rs2, rs3 ++ 0x0#2⟩
  | .fnmaddS rd rs1 rs2 rs3 rm => some ⟨0x4F#7, rd, rm, rs1, rs2, rs3 ++ 0x0#2⟩
  | .faddS rd rs1 rs2 rm => some ⟨0x53#7, rd, rm, rs1, rs2, 0x0#7⟩
  | .fsubS rd rs1 rs2 rm => some ⟨0x53#7, rd, rm, rs1, rs2, 0x4#7⟩
  | .fmulS rd rs1 rs2 rm => some ⟨0x53#7, rd, rm, rs1, rs2, 0x8#7⟩
  | .fdivS rd rs1 rs2 rm => some ⟨0x53#7, rd, rm, rs1, rs2, 0xC#7⟩
  | .fsqrtS rd rs1 rm => some ⟨0x53#7, rd, rm, rs1, 0x0#5, 0x2C#7⟩
  | .fsgnjS rd rs1 rs2 => some ⟨0x53#7, rd, 0x0#3, rs1, rs2, 0x10#7⟩
  | .fsgnjnS rd rs1 rs2 => some ⟨0x53#7, rd, 0x1#3, rs1, rs2, 0x10#7⟩
  | .fsgnjxS rd rs1 rs2 => some ⟨0x53#7, rd, 0x2#3, rs1, rs2, 0x10#7⟩
  | .fminS rd rs1 rs2 => some ⟨0x53#7, rd, 0x0#3, rs1, rs2, 0x14#7⟩
  | .fmaxS rd rs1 rs2 => some ⟨0x53#7, rd, 0x1#3, rs1, rs2, 0x14#7⟩
  | .fcvtWS rd rs1 rm => some ⟨0x53#7, rd, rm, rs1, 0x0#5, 0x60#7⟩
  | .fcvtWuS rd rs1 rm => some ⟨0x53#7, rd, rm, rs1, 0x1#5, 0x60#7⟩
  | .fcvtLS rd rs1 rm => some ⟨0x53#7, rd, rm, rs1, 0x2#5, 0x60#7⟩
  | .fcvtLuS rd rs1 rm => some ⟨0x53#7, rd, rm, rs1, 0x3#5, 0x60#7⟩
  | .fcvtSW rd rs1 rm => some ⟨0x53#7, rd, rm, rs1, 0x0#5, 0x68#7⟩
  | .fcvtSWu rd rs1 rm => some ⟨0x53#7, rd, rm, rs1, 0x1#5, 0x68#7⟩
  | .fcvtSL rd rs1 rm => some ⟨0x53#7, rd, rm, rs1, 0x2#5, 0x68#7⟩
  | .fcvtSLu rd rs1 rm => some ⟨0x53#7, rd, rm, rs1, 0x3#5, 0x68#7⟩
  | .feqS rd rs1 rs2 => some ⟨0x53#7, rd, 0x2#3, rs1, rs2, 0x50#7⟩
  | .fltS rd rs1 rs2 => some ⟨0x53#7, rd, 0x1#3, rs1, rs2, 0x50#7⟩
  | .fleS rd rs1 rs2 => some ⟨0x53#7, rd, 0x0#3, rs1, rs2, 0x50#7⟩
  | .fmvXW rd rs1 => some ⟨0x53#7, rd, 0x0#3, rs1, 0x0#5, 0x70#7⟩
  | .fclassS rd rs1 => some ⟨0x53#7, rd, 0x1#3, rs1, 0x0#5, 0x70#7⟩
  | .fmvWX rd rs1 => some ⟨0x53#7, rd, 0x0#3, rs1, 0x0#5, 0x78#7⟩
  | .xret => some ⟨0x7B#7, 0x0#5, 0x5#3, 0x0#5, 0x0#5, 0x0#7⟩
  | .tlbinv rs1 rs2 => some ⟨0x7B#7, 0x0#5, 0x5#3, rs1, rs2, 0x1#7⟩
  | .vsave rs1 => some ⟨0x7B#7, 0x0#5, 0x5#3, rs1, 0x0#5, 0x2#7⟩
  | .vrest rs1 => some ⟨0x7B#7, 0x0#5, 0x5#3, rs1, 0x0#5, 0x3#7⟩
  | .mma asl h rs1 rs2 rs3 => some ⟨0x7B#7, 0#1 ++ asl ++ h, 0x0#3, rs1, rs2, rs3 ++ 0x0#2⟩
  | .mmaO asl h rs1 rs2 rs3 => some ⟨0x7B#7, 0#1 ++ asl ++ h, 0x0#3, rs1, rs2, rs3 ++ 0x1#2⟩
  | .mmaR asl h rs1 rs2 rs3 => some ⟨0x7B#7, 0#1 ++ asl ++ h, 0x0#3, rs1, rs2, rs3 ++ 0x2#2⟩
  | .mmal asl h rs2 rs3 => some ⟨0x7B#7, 0#1 ++ asl ++ h, 0x1#3, 0x0#5, rs2, rs3 ++ 0x0#2⟩
  | .mmalO asl h rs2 rs3 => some ⟨0x7B#7, 0#1 ++ asl ++ h, 0x1#3, 0x0#5, rs2, rs3 ++ 0x1#2⟩
  | .mmalR asl h rs2 rs3 => some ⟨0x7B#7, 0#1 ++ asl ++ h, 0x1#3, 0x0#5, rs2, rs3 ++ 0x2#2⟩
  | .mgth rs1 rs2 => some ⟨0x7B#7, 0x0#5, 0x2#3, rs1, rs2, 0x0#7⟩
  | .msct k rs1 => some ⟨0x7B#7, 0#2 ++ k, 0x2#3, rs1, 0x0#5, 0x1#7⟩
  | .mclr h => some ⟨0x7B#7, 0#4 ++ h, 0x2#3, 0x0#5, 0x0#5, 0x2#7⟩
  | .cpy rd rs1 rs2 q => some ⟨0x7B#7, rd, 0x3#3, rs1, rs2, 0x0#6 ++ q⟩
  | .cpy2 rd rs1 rs2 q => some ⟨0x7B#7, rd, 0x3#3, rs1, rs2, 0x1#6 ++ q⟩
  | .cpyz rd rs1 rs2 q => some ⟨0x7B#7, rd, 0x3#3, rs1, rs2, 0x2#6 ++ q⟩
  | .cput rd rs1 rs2 q => some ⟨0x7B#7, rd, 0x3#3, rs1, rs2, 0x3#6 ++ q⟩
  | .cget rd rs1 rs2 q => some ⟨0x7B#7, rd, 0x3#3, rs1, rs2, 0x4#6 ++ q⟩
  | .cfnc q rs1 => some ⟨0x7B#7, 0x0#5, 0x4#3, rs1, 0x0#5, 0x0#6 ++ q⟩
  | .cseq rd q => some ⟨0x7B#7, rd, 0x4#3, 0x0#5, 0x0#5, 0x1#6 ++ q⟩
  | .sig sigv len => some ⟨0x0B#7, sigv.extractLsb' 0 5, 0x5#3, sigv.extractLsb' 5 5, sigv.extractLsb' 10 5, len ++ sigv.extractLsb' 15 1⟩
  | .spawn rd rs1 rs2 => some ⟨0x0B#7, rd, 0x0#3, rs1, rs2, 0x0#7⟩
  | .park => some ⟨0x0B#7, 0x0#5, 0x0#3, 0x0#5, 0x0#5, 0x1#7⟩
  | .yield => some ⟨0x0B#7, 0x0#5, 0x0#3, 0x0#5, 0x0#5, 0x2#7⟩
  | .exit => some ⟨0x0B#7, 0x0#5, 0x0#3, 0x0#5, 0x0#5, 0x3#7⟩
  | .send rs1 rs2 => some ⟨0x0B#7, 0x0#5, 0x1#3, rs1, rs2, 0x0#7⟩
  | .sendV rs1 rs2 => some ⟨0x0B#7, 0x0#5, 0x1#3, rs1, rs2, 0x1#7⟩
  | .recv rd rs1 => some ⟨0x0B#7, rd, 0x1#3, rs1, 0x0#5, 0x2#7⟩
  | .recvV rd rs1 => some ⟨0x0B#7, rd, 0x1#3, rs1, 0x0#5, 0x3#7⟩
  | .rpoll rd rs1 => some ⟨0x0B#7, rd, 0x1#3, rs1, 0x0#5, 0x4#7⟩
  | .wfw => some ⟨0x0B#7, 0x0#5, 0x2#3, 0x0#5, 0x0#5, 0x0#7⟩
  | .dput rd rs1 rs2 => some ⟨0x0B#7, rd, 0x2#3, rs1, rs2, 0x1#7⟩
  | .dlarm rs1 => some ⟨0x0B#7, 0x0#5, 0x2#3, rs1, 0x0#5, 0x2#7⟩
  | .dldone => some ⟨0x0B#7, 0x0#5, 0x2#3, 0x0#5, 0x0#5, 0x3#7⟩
  | .tcall rs1 n => some ⟨0x0B#7, 0x0#5, 0x3#3, rs1, n, 0x0#7⟩
  | .tret rs1 => some ⟨0x0B#7, 0x0#5, 0x3#3, rs1, 0x0#5, 0x1#7⟩
  | .tfail rs1 rs2 => some ⟨0x0B#7, 0x0#5, 0x3#3, rs1, rs2, 0x2#7⟩
  | .tlook rd rs1 n => some ⟨0x0B#7, rd, 0x3#3, rs1, n, 0x3#7⟩
  | .tgopen rd rs1 rs2 => some ⟨0x0B#7, rd, 0x3#3, rs1, rs2, 0x4#7⟩
  | .tgclose rs1 => some ⟨0x0B#7, 0x0#5, 0x3#3, rs1, 0x0#5, 0x5#7⟩
  | .tgseal rs1 => some ⟨0x0B#7, 0x0#5, 0x3#3, rs1, 0x0#5, 0x6#7⟩
  | .tgdrop rs1 => some ⟨0x0B#7, 0x0#5, 0x3#3, rs1, 0x0#5, 0x7#7⟩
  | .barA rs1 => some ⟨0x0B#7, 0x0#5, 0x4#3, rs1, 0x0#5, 0x0#7⟩
  | .barW rs1 => some ⟨0x0B#7, 0x0#5, 0x4#3, rs1, 0x0#5, 0x1#7⟩
  | .barAw rs1 => some ⟨0x0B#7, 0x0#5, 0x4#3, rs1, 0x0#5, 0x2#7⟩
  | .collRed rd rs1 rs2 => some ⟨0x0B#7, rd, 0x4#3, rs1, rs2, 0x3#7⟩
  | .collBc rd rs1 rs2 => some ⟨0x0B#7, rd, 0x4#3, rs1, rs2, 0x4#7⟩
  | .waitc l s c t => some ⟨0x0B#7, 0x0#5, 0x6#3, 0x0#5, c.extractLsb' 0 2 ++ t, l ++ s ++ c.extractLsb' 2 1⟩
  | .vld rd rs1 off g => some ⟨0x2B#7, rd, 0x0#3, rs1, off.extractLsb' 0 2 ++ g, off.extractLsb' 2 7⟩
  | .vst rs1 rs2 off g => some ⟨0x2B#7, off.extractLsb' 0 2 ++ g, 0x1#3, rs1, rs2, off.extractLsb' 2 7⟩
  | .vtake rd rs1 off g => some ⟨0x2B#7, rd, 0x2#3, rs1, off.extractLsb' 0 2 ++ g, off.extractLsb' 2 7⟩
  | .amaddW rd rs1 rs2 => some ⟨0x2B#7, rd, 0x3#3, rs1, rs2, 0x0#7⟩
  | .amaddD rd rs1 rs2 => some ⟨0x2B#7, rd, 0x3#3, rs1, rs2, 0x1#7⟩
  | .amsminW rd rs1 rs2 => some ⟨0x2B#7, rd, 0x3#3, rs1, rs2, 0x4#7⟩
  | .amsminD rd rs1 rs2 => some ⟨0x2B#7, rd, 0x3#3, rs1, rs2, 0x5#7⟩
  | .amsmaxW rd rs1 rs2 => some ⟨0x2B#7, rd, 0x3#3, rs1, rs2, 0x8#7⟩
  | .amsmaxD rd rs1 rs2 => some ⟨0x2B#7, rd, 0x3#3, rs1, rs2, 0x9#7⟩
  | .amuminW rd rs1 rs2 => some ⟨0x2B#7, rd, 0x3#3, rs1, rs2, 0xC#7⟩
  | .amuminD rd rs1 rs2 => some ⟨0x2B#7, rd, 0x3#3, rs1, rs2, 0xD#7⟩
  | .amumaxW rd rs1 rs2 => some ⟨0x2B#7, rd, 0x3#3, rs1, rs2, 0x10#7⟩
  | .amumaxD rd rs1 rs2 => some ⟨0x2B#7, rd, 0x3#3, rs1, rs2, 0x11#7⟩
  | .amswapW rd rs1 rs2 => some ⟨0x2B#7, rd, 0x3#3, rs1, rs2, 0x14#7⟩
  | .amswapD rd rs1 rs2 => some ⟨0x2B#7, rd, 0x3#3, rs1, rs2, 0x15#7⟩
  | .amcasW rd rs1 rs2 => some ⟨0x2B#7, rd, 0x3#3, rs1, rs2, 0x18#7⟩
  | .amcasD rd rs1 rs2 => some ⟨0x2B#7, rd, 0x3#3, rs1, rs2, 0x19#7⟩
  | .apndD rd rs1 rs2 => some ⟨0x2B#7, rd, 0x4#3, rs1, rs2, 0x0#7⟩
  | .apndV rd rs1 rs2 lll => some ⟨0x2B#7, rd, 0x4#3, rs1, rs2, 0x1#4 ++ lll⟩
  | .seal rd rs1 => some ⟨0x2B#7, rd, 0x4#3, rs1, 0x0#5, 0x10#7⟩
  | .roam rs1 => some ⟨0x2B#7, 0x0#5, 0x4#3, rs1, 0x0#5, 0x11#7⟩
  | .vtag rd rs1 => some ⟨0x2B#7, rd, 0x4#3, rs1, 0x0#5, 0x12#7⟩
  | .vrcl rs1 rs2 => some ⟨0x2B#7, 0x0#5, 0x4#3, rs1, rs2, 0x13#7⟩
  | .srepl rs1 rs2 => some ⟨0x2B#7, 0x0#5, 0x4#3, rs1, rs2, 0x14#7⟩
  | .fncC => some ⟨0x2B#7, 0x0#5, 0x5#3, 0x0#5, 0x0#5, 0x0#7⟩
  | .fncL => some ⟨0x2B#7, 0x0#5, 0x5#3, 0x0#5, 0x0#5, 0x1#7⟩
  | .fncF => some ⟨0x2B#7, 0x0#5, 0x5#3, 0x0#5, 0x0#5, 0x2#7⟩
  | .fncW => some ⟨0x2B#7, 0x0#5, 0x5#3, 0x0#5, 0x0#5, 0x3#7⟩
  | .fncS => some ⟨0x2B#7, 0x0#5, 0x5#3, 0x0#5, 0x0#5, 0x4#7⟩
  | .vlr rd rs1 => some ⟨0x2B#7, rd, 0x6#3, rs1, 0x0#5, 0x0#7⟩
  | .vsr rs1 rs2 => some ⟨0x2B#7, 0x0#5, 0x6#3, rs1, rs2, 0x1#7⟩
  | .vlrg rd rs1 rs2 => some ⟨0x2B#7, rd, 0x6#3, rs1, rs2, 0x2#7⟩
  | .vaddVv rd rs1 rs2 => some ⟨0x5B#7, rd, 0x0#3, rs1, rs2, 0x0#7⟩
  | .vaddVx rd rs1 rs2 => some ⟨0x5B#7, rd, 0x1#3, rs1, rs2, 0x0#7⟩
  | .vaddVf rd rs1 rs2 => some ⟨0x5B#7, rd, 0x2#3, rs1, rs2, 0x0#7⟩
  | .vaddVi rd rs1 imm5 => some ⟨0x5B#7, rd, 0x3#3, rs1, imm5, 0x0#7⟩
  | .vsubVv rd rs1 rs2 => some ⟨0x5B#7, rd, 0x0#3, rs1, rs2, 0x1#7⟩
  | .vsubVx rd rs1 rs2 => some ⟨0x5B#7, rd, 0x1#3, rs1, rs2, 0x1#7⟩
  | .vsubVf rd rs1 rs2 => some ⟨0x5B#7, rd, 0x2#3, rs1, rs2, 0x1#7⟩
  | .vsubVi rd rs1 imm5 => some ⟨0x5B#7, rd, 0x3#3, rs1, imm5, 0x1#7⟩
  | .vmulVv rd rs1 rs2 => some ⟨0x5B#7, rd, 0x0#3, rs1, rs2, 0x2#7⟩
  | .vmulVx rd rs1 rs2 => some ⟨0x5B#7, rd, 0x1#3, rs1, rs2, 0x2#7⟩
  | .vmulVf rd rs1 rs2 => some ⟨0x5B#7, rd, 0x2#3, rs1, rs2, 0x2#7⟩
  | .vmulVi rd rs1 imm5 => some ⟨0x5B#7, rd, 0x3#3, rs1, imm5, 0x2#7⟩
  | .vminVv rd rs1 rs2 => some ⟨0x5B#7, rd, 0x0#3, rs1, rs2, 0x3#7⟩
  | .vminVx rd rs1 rs2 => some ⟨0x5B#7, rd, 0x1#3, rs1, rs2, 0x3#7⟩
  | .vminVf rd rs1 rs2 => some ⟨0x5B#7, rd, 0x2#3, rs1, rs2, 0x3#7⟩
  | .vminVi rd rs1 imm5 => some ⟨0x5B#7, rd, 0x3#3, rs1, imm5, 0x3#7⟩
  | .vmaxVv rd rs1 rs2 => some ⟨0x5B#7, rd, 0x0#3, rs1, rs2, 0x4#7⟩
  | .vmaxVx rd rs1 rs2 => some ⟨0x5B#7, rd, 0x1#3, rs1, rs2, 0x4#7⟩
  | .vmaxVf rd rs1 rs2 => some ⟨0x5B#7, rd, 0x2#3, rs1, rs2, 0x4#7⟩
  | .vmaxVi rd rs1 imm5 => some ⟨0x5B#7, rd, 0x3#3, rs1, imm5, 0x4#7⟩
  | .vfmaVv rd rs1 rs2 => some ⟨0x5B#7, rd, 0x0#3, rs1, rs2, 0x5#7⟩
  | .vfmaVx rd rs1 rs2 => some ⟨0x5B#7, rd, 0x1#3, rs1, rs2, 0x5#7⟩
  | .vfmaVf rd rs1 rs2 => some ⟨0x5B#7, rd, 0x2#3, rs1, rs2, 0x5#7⟩
  | .vfnmaVv rd rs1 rs2 => some ⟨0x5B#7, rd, 0x0#3, rs1, rs2, 0x6#7⟩
  | .vfnmaVx rd rs1 rs2 => some ⟨0x5B#7, rd, 0x1#3, rs1, rs2, 0x6#7⟩
  | .vfnmaVf rd rs1 rs2 => some ⟨0x5B#7, rd, 0x2#3, rs1, rs2, 0x6#7⟩
  | .vandVv rd rs1 rs2 => some ⟨0x5B#7, rd, 0x0#3, rs1, rs2, 0x8#7⟩
  | .vandVx rd rs1 rs2 => some ⟨0x5B#7, rd, 0x1#3, rs1, rs2, 0x8#7⟩
  | .vandVi rd rs1 imm5 => some ⟨0x5B#7, rd, 0x3#3, rs1, imm5, 0x8#7⟩
  | .vorVv rd rs1 rs2 => some ⟨0x5B#7, rd, 0x0#3, rs1, rs2, 0x9#7⟩
  | .vorVx rd rs1 rs2 => some ⟨0x5B#7, rd, 0x1#3, rs1, rs2, 0x9#7⟩
  | .vorVi rd rs1 imm5 => some ⟨0x5B#7, rd, 0x3#3, rs1, imm5, 0x9#7⟩
  | .vxorVv rd rs1 rs2 => some ⟨0x5B#7, rd, 0x0#3, rs1, rs2, 0xA#7⟩
  | .vxorVx rd rs1 rs2 => some ⟨0x5B#7, rd, 0x1#3, rs1, rs2, 0xA#7⟩
  | .vxorVi rd rs1 imm5 => some ⟨0x5B#7, rd, 0x3#3, rs1, imm5, 0xA#7⟩
  | .vsllVv rd rs1 rs2 => some ⟨0x5B#7, rd, 0x0#3, rs1, rs2, 0xB#7⟩
  | .vsllVx rd rs1 rs2 => some ⟨0x5B#7, rd, 0x1#3, rs1, rs2, 0xB#7⟩
  | .vsllVi rd rs1 imm5 => some ⟨0x5B#7, rd, 0x3#3, rs1, imm5, 0xB#7⟩
  | .vsrlVv rd rs1 rs2 => some ⟨0x5B#7, rd, 0x0#3, rs1, rs2, 0xC#7⟩
  | .vsrlVx rd rs1 rs2 => some ⟨0x5B#7, rd, 0x1#3, rs1, rs2, 0xC#7⟩
  | .vsrlVi rd rs1 imm5 => some ⟨0x5B#7, rd, 0x3#3, rs1, imm5, 0xC#7⟩
  | .vsraVv rd rs1 rs2 => some ⟨0x5B#7, rd, 0x0#3, rs1, rs2, 0xD#7⟩
  | .vsraVx rd rs1 rs2 => some ⟨0x5B#7, rd, 0x1#3, rs1, rs2, 0xD#7⟩
  | .vsraVi rd rs1 imm5 => some ⟨0x5B#7, rd, 0x3#3, rs1, imm5, 0xD#7⟩
  | .vceqVv rs1 rs2 => some ⟨0x5B#7, 0x0#5, 0x0#3, rs1, rs2, 0x10#7⟩
  | .vceqVx rs1 rs2 => some ⟨0x5B#7, 0x0#5, 0x1#3, rs1, rs2, 0x10#7⟩
  | .vceqVf rs1 rs2 => some ⟨0x5B#7, 0x0#5, 0x2#3, rs1, rs2, 0x10#7⟩
  | .vceqVi rs1 imm5 => some ⟨0x5B#7, 0x0#5, 0x3#3, rs1, imm5, 0x10#7⟩
  | .vcneVv rs1 rs2 => some ⟨0x5B#7, 0x0#5, 0x0#3, rs1, rs2, 0x11#7⟩
  | .vcneVx rs1 rs2 => some ⟨0x5B#7, 0x0#5, 0x1#3, rs1, rs2, 0x11#7⟩
  | .vcneVf rs1 rs2 => some ⟨0x5B#7, 0x0#5, 0x2#3, rs1, rs2, 0x11#7⟩
  | .vcneVi rs1 imm5 => some ⟨0x5B#7, 0x0#5, 0x3#3, rs1, imm5, 0x11#7⟩
  | .vcltVv rs1 rs2 => some ⟨0x5B#7, 0x0#5, 0x0#3, rs1, rs2, 0x12#7⟩
  | .vcltVx rs1 rs2 => some ⟨0x5B#7, 0x0#5, 0x1#3, rs1, rs2, 0x12#7⟩
  | .vcltVf rs1 rs2 => some ⟨0x5B#7, 0x0#5, 0x2#3, rs1, rs2, 0x12#7⟩
  | .vcltVi rs1 imm5 => some ⟨0x5B#7, 0x0#5, 0x3#3, rs1, imm5, 0x12#7⟩
  | .vcleVv rs1 rs2 => some ⟨0x5B#7, 0x0#5, 0x0#3, rs1, rs2, 0x13#7⟩
  | .vcleVx rs1 rs2 => some ⟨0x5B#7, 0x0#5, 0x1#3, rs1, rs2, 0x13#7⟩
  | .vcleVf rs1 rs2 => some ⟨0x5B#7, 0x0#5, 0x2#3, rs1, rs2, 0x13#7⟩
  | .vcleVi rs1 imm5 => some ⟨0x5B#7, 0x0#5, 0x3#3, rs1, imm5, 0x13#7⟩
  | .vselVv rd rs1 rs2 => some ⟨0x5B#7, rd, 0x0#3, rs1, rs2, 0x14#7⟩
  | .vselVx rd rs1 rs2 => some ⟨0x5B#7, rd, 0x1#3, rs1, rs2, 0x14#7⟩
  | .vselVf rd rs1 rs2 => some ⟨0x5B#7, rd, 0x2#3, rs1, rs2, 0x14#7⟩
  | .vselVi rd rs1 imm5 => some ⟨0x5B#7, rd, 0x3#3, rs1, imm5, 0x14#7⟩
  | .vpermVv rd rs1 rs2 => some ⟨0x5B#7, rd, 0x0#3, rs1, rs2, 0x18#7⟩
  | .vrotVx rd rs1 rs2 => some ⟨0x5B#7, rd, 0x1#3, rs1, rs2, 0x19#7⟩
  | .vrotVi rd rs1 imm5 => some ⟨0x5B#7, rd, 0x3#3, rs1, imm5, 0x19#7⟩
  | .vbcVx rd rs2 => some ⟨0x5B#7, rd, 0x1#3, 0x0#5, rs2, 0x1A#7⟩
  | .vbcVf rd rs2 => some ⟨0x5B#7, rd, 0x2#3, 0x0#5, rs2, 0x1A#7⟩
  | .vmv rd rs1 => some ⟨0x5B#7, rd, 0x4#3, rs1, 0x0#5, 0x20#7⟩
  | .vneg rd rs1 => some ⟨0x5B#7, rd, 0x4#3, rs1, 0x0#5, 0x21#7⟩
  | .vabs rd rs1 => some ⟨0x5B#7, rd, 0x4#3, rs1, 0x0#5, 0x22#7⟩
  | .vrcp rd rs1 => some ⟨0x5B#7, rd, 0x4#3, rs1, 0x0#5, 0x24#7⟩
  | .vrsq rd rs1 => some ⟨0x5B#7, rd, 0x4#3, rs1, 0x0#5, 0x25#7⟩
  | .vexp2 rd rs1 => some ⟨0x5B#7, rd, 0x4#3, rs1, 0x0#5, 0x26#7⟩
  | .vlog2 rd rs1 => some ⟨0x5B#7, rd, 0x4#3, rs1, 0x0#5, 0x27#7⟩
  | .vtanh rd rs1 => some ⟨0x5B#7, rd, 0x4#3, rs1, 0x0#5, 0x28#7⟩
  | .vcvt rd rs1 ty => some ⟨0x5B#7, rd, 0x4#3, rs1, 0#1 ++ ty, 0x2C#7⟩
  | .vconj rd rs1 => some ⟨0x5B#7, rd, 0x4#3, rs1, 0x0#5, 0x30#7⟩
  | .vnorm rd rs1 => some ⟨0x5B#7, rd, 0x4#3, rs1, 0x0#5, 0x31#7⟩
  | .vhad rd rs1 => some ⟨0x5B#7, rd, 0x4#3, rs1, 0x0#5, 0x34#7⟩
  | .vhadS rd rs1 => some ⟨0x5B#7, rd, 0x4#3, rs1, 0x0#5, 0x35#7⟩
  | .vamulVv rd rs1 rs2 => some ⟨0x5B#7, rd, 0x0#3, rs1, rs2, 0x38#7⟩
  | .vrsumX rd rs1 => some ⟨0x5B#7, rd, 0x5#3, rs1, 0x0#5, 0x0#7⟩
  | .vrsumF rd rs1 => some ⟨0x5B#7, rd, 0x5#3, rs1, 0x0#5, 0x40#7⟩
  | .vrmaxX rd rs1 => some ⟨0x5B#7, rd, 0x5#3, rs1, 0x0#5, 0x1#7⟩
  | .vrmaxF rd rs1 => some ⟨0x5B#7, rd, 0x5#3, rs1, 0x0#5, 0x41#7⟩
  | .vrminX rd rs1 => some ⟨0x5B#7, rd, 0x5#3, rs1, 0x0#5, 0x2#7⟩
  | .vrminF rd rs1 => some ⟨0x5B#7, rd, 0x5#3, rs1, 0x0#5, 0x42#7⟩
  | .vgetX rd rs1 rs2 => some ⟨0x5B#7, rd, 0x5#3, rs1, rs2, 0x3#7⟩
  | .vgetF rd rs1 rs2 => some ⟨0x5B#7, rd, 0x5#3, rs1, rs2, 0x43#7⟩
  | .vrep cnt rs1 stride adv => some ⟨0x5B#7, 0#1 ++ cnt, 0x6#3, rs1, stride, 0x0#4 ++ adv⟩
  | .vqnt rs1 rs2 => some ⟨0x5B#7, 0x0#5, 0x7#3, rs1, rs2, 0x0#7⟩
  | .vdqnt rd rs2 => some ⟨0x5B#7, rd, 0x7#3, 0x0#5, rs2, 0x1#7⟩
  | .impreciseReport _ _ _ _ => none
  | .pendingTrapDelivery _ => none
  | .emberTakeup _ => none
  | .emberRestore _ => none
  | .suspendWriteback _ => none
  | .attractionMove _ => none
  | .migrationArrival _ _ => none
  | .dispenserItemArrival _ => none
  | .dispenserHandover _ => none
  | .ldoor _ => none
  | .launchDescriptor _ => none
  | .chunkFinished _ _ => none
  | .launchCompletion _ => none
  | .masterReelection _ => none
  | .deadlineExpiry _ _ => none
  | .parkTimeout _ _ => none
  | .messageArrival _ => none
  | .queueRefill _ _ => none
  | .acknowledgement _ => none
  | .loadReply _ => none
  | .farLoadAtHome _ => none
  | .farStoreAtHome _ => none
  | .atomicAtHome _ => none
  | .versionedLoadAtHome _ => none
  | .versionedStoreAtHome _ => none
  | .versionedReply _ => none
  | .vrclAtHome _ => none
  | .appendAtHome _ => none
  | .sealAtHome _ => none
  | .leafSealOr _ => none
  | .sealReportAck _ => none
  | .sreplAccept _ => none
  | .replicaCreate _ _ => none
  | .replicaCopyDone _ _ => none
  | .replicaDrop _ _ => none
  | .replicaPeriod _ => none
  | .pageWalk _ _ => none
  | .ownerChange _ _ _ => none
  | .zeroingDone _ _ => none
  | .thermalReading _ _ => none
  | .meterAdmit _ => none
  | .tcallAtHome _ => none
  | .backingTableLookup _ => none
  | .tcallReply _ => none
  | .tlookAtHome _ => none
  | .publicationAtHome _ => none
  | .consumerResume _ _ => none
  | .groupOpenAtHome _ => none
  | .groupCloseAtHome _ => none
  | .groupSealWriteback _ => none
  | .groupDropAtHome _ => none
  | .groupReport _ => none
  | .probeRoundStart _ => none
  | .probeQuestion _ => none
  | .probeAnswer _ => none
  | .producerKillAtHome _ => none
  | .answerEntryError _ _ => none
  | .vectorEntryExecute _ => none
  | .matrixEnqueue _ => none
  | .matrixGrant _ => none
  | .matrixOperandArrival _ => none
  | .matrixSetback _ => none
  | .matrixComplete _ => none
  | .copyChunk _ => none
  | .copyQueueReset _ _ => none
  | .peerFrame _ _ _ _ _ _ _ => none
  | .peerChunkAck _ _ _ => none
  | .peerAckTimeout _ => none
  | .relayAccept _ => none
  | .relayReinject _ => none
  | .barrierAndUpdate _ _ _ => none
  | .barrierRelease _ _ => none
  | .barrierReleaseSeen _ _ _ => none
  | .barrierMaskSet _ => none
  | .collContribution _ => none
  | .collPartialAtRoot _ => none
  | .collResultDelivery _ => none
  | .scmdStop _ => none
  | .scmdRestart _ => none
  | .scmdStep _ => none
  | .scmdKill _ => none
  | .scmdRestore _ => none
  | .slotKill _ => none
  | .preemptSlot _ => none
  | .preemptBudgetExhausted _ => none
  | .regionStart _ => none
  | .regionStop _ => none
  | .kernelKill _ => none
  | .trapForward _ => none
  | .demandPageMap _ _ => none
  | .pageMigration _ _ => none
  | .timeoutResume _ => none
  | .ebreakStop _ => none
  | .ecallForwardRegister _ => none
  | .ecallRouteWrite _ => none
  | .ecallLaunch _ => none
  | .ecallRetire _ => none
  | .hwBreakpointStop _ => none
  | .counterSetRotate _ => none
  | .flagUnionClear _ _ => none
  | .registerWrite _ _ => none
  | .plimWrite _ => none
  | .hostWindowRead _ _ => none
  | .hostWindowWrite _ _ _ => none
  | .adoor _ => none
  | .attestReportReady _ => none
  | .powerCheck _ _ => none
  | .speedChange _ => none
  | .lockstepMismatch _ => none
  | .firmwareRestart _ => none
  | .securityAlarm => none
  | .moduleReset => none
  | .illegalInstruction _ => none
  | .fetchFault _ _ => none
  | .issueCycle _ => none
  | .emberRestart _ => none
  | .poolExtension _ _ => none
  | .quarantineLift _ _ => none
  | .fatalError _ => none

/-- The word of an instruction; events have none. -/
def encode (i : Instr) : Option Code := (encodeFields i).map wordOf

/-- The word at the lowest addresses of a list of bytes, little-endian (R29). -/
def codeOfBytes (l : List (BitVec 8)) : Code :=
  BitVec.ofNat 32 ((l.take 4).foldr (fun b n => b.toNat + 256 * n) 0)

/-- The bytes of a word, lowest address first (R29). -/
def bytesOfCode (w : Code) : List (BitVec 8) :=
  [w.extractLsb' 0 8, w.extractLsb' 8 8, w.extractLsb' 16 8, w.extractLsb' 24 8]

/-- The instruction read from a word of the opcode table: every instruction is one 32-bit word (R29), and the bits
above `nbits` are zero. -/
noncomputable def decodeTableWord (nbits w : Nat) : Option Instr :=
  decode (codeOfBytes (bytesOfCode (BitVec.ofNat 32 (w % 2 ^ nbits))))

end Sys2Proof
end

