-- ==== Sys2Proof/Machine/Issue.lean ====
section
/-! DEFINITION. What stands around an instruction in a slot's issue cycle (R30, R32, R100, R101): pending traps, stops
and breakpoints before it, the fetch and its faults, and steps and words fetched ahead after it. -/

namespace Sys2Proof.Machine

/-- The outcome of a fetch (R29, R32 steps 1 to 4): a word, read from memory now if `fresh`, a wait for zeroing (R220), a
fault or a lookup. -/
inductive Fetched where
  | word (w : Code) (t : Option TlbEntry) (fresh : Bool)
  | zeroing
  | fault (cause : Nat) (val : Word)
  | miss (va : Word)
deriving DecidableEq, Repr

/-- R29, R32, R219, R296: the fetch of the instruction at the PC of slot k; a word fetched ahead stands for memory. -/
def State.fetch (s : State) (k : Nat) : Fetched :=
  let v := s.slot k
  let va := v.pc
  if va.toNat % 4 ≠ 0 then .fault 0x02 va
  else match s.access k .fetch va 4 with
    | .trap c x => .fault c x
    | .miss => .miss va
    | .ok key t =>
      match Tab.find? v.ahead v.pc.toNat with
      | some w => .word w t false
      | none =>
        if !s.ownerOk key v.owner (readOnly t) then .fault 0x10 va
        else if s.zeroing key then .zeroing
        else if (s.badWord key 4).isSome then .fault 0x0F va
        else .word (BitVec.ofNat 32 (s.read key 4)) t true

/-- R60, R219, R220: the words that stand behind the one at the PC may be fetched ahead, within the page, where the fetch of
each would succeed. Log 13. -/
def State.fetchAhead (s : State) (k : Nat) : State :=
  let v := s.slot k
  let n := Config.fetchAhead s.free % 64
  let old := (v.ahead.filter fun p => p.1 ≠ v.pc.toNat).take 64
  match s.access k .fetch v.pc 4 with
  | .ok key t =>
    let ok (a : Nat) : Bool := s.ownerOk a v.owner (readOnly t) && !s.zeroing a && (s.badWord a 4).isNone
    let more := (List.range n).filterMap fun i =>
      let a := v.pc.toNat + 4 * (i + 1)
      if a / 2 ^ 16 ≠ v.pc.toNat / 2 ^ 16 ∨ (Tab.find? old a).isSome ∨ !ok (key + 4 * (i + 1)) then none
      else some (a, BitVec.ofNat 32 (s.read (key + 4 * (i + 1)) 4))
    { s.modSlot k (fun v => { v with ahead := old ++ more }) with free := s.free + 1 }
  | _ => s

/-- R161: a word of a repeat body is custom-2 with funct3 000 to 100. -/
def bodyWord (w : Code) : Bool := w.toNat % 128 == 0x5B && decide (bits w.toNat 12 3 ≤ 4)

/-- R161: words of a repeat body have still to issue. -/
def Slot.inBody (v : Slot) : Bool := v.rep.any fun r => decide (0 < r.left)

/-- What a slot does at its issue cycle: nothing more, or one step of `exec`. -/
inductive Pre where
  | done (s : State)
  | run (i : Instr) (s : State)

noncomputable section

/-- R240, R296: the fetch read memory: the field counts it, and an error in the word is corrected. -/
def State.fetched (s : State) (k : Nat) (t : Option TlbEntry) : State :=
  let s := match t with
    | some t => s.countReplica (slotField k) t.leaf
    | none => s
  match s.access k .fetch (s.slot k).pc 4 with
  | .ok key _ => s.scrub key 4
  | _ => s

/-- R30, R32, R305: what the issue cycle of slot k holds. A slot that is to be killed issues nothing (R76, R297). -/
def State.preIssue (s : State) (k : Nat) : Pre :=
  let v := s.slot k
  if v.mode ≠ .active ∨ v.killReq.isSome then .done (s.modSlot k fun v => { v with due := none })
  else
  let s := s.unseated k
  if (v.stepDone || v.stopReq && v.level == .user) && !v.inBody then .done (s.stopNow k)
  else match v.trapNow with
    | some (c, x) =>
      let s := if c = 0x0D then s.slotRecord k 5 1 [x] else s
      .done (s.trapAt k false c x v.pc)
    | none =>
      if v.level = .supervisor ∧ v.trapvec = 0 ∧ v.pc = 0 then
        -- log 19: the resident kernel's handler
        let s := s.modSlot k fun v => { v with due := none, wait := .memory }
        match s.kernelEvent k with
        | .demandPageMap .. => .run (.demandPageMap k (s.nextFrame k)) s
        | .pageMigration .. => .run (.pageMigration k (s.nextFrame k)) s
        | i => .run i s
      else if v.level = .user ∧ (v.imp ≠ none ∨ v.pend ≠ [] ∧ !v.first) ∧ v.block ≠ some [] then .run (.pendingTrapDelivery k) s
      else if s.breakpointHit k then .run (.hwBreakpointStop k) s
      else match s.fetch k with
        | .fault c x => .run (.fetchFault c x) s
        | .miss va => .done (s.lookup va)
        | .zeroing => .done (s.notReady .memory)
        | .word w t fresh =>
          let s := ((if fresh then s.fetched k t else s).touch k t).modSlot k fun v => { v with word := w }
          if v.inBody && !bodyWord w then .run (.illegalInstruction w) s
          else match decode w with
            | some i => .run i s
            | none => .run (.illegalInstruction w) s

end

/-- R293: after an issue or a trap entry, a single step is over. -/
def State.postIssue (s : State) (k : Nat) : State :=
  let v := s.slot k
  if v.lastIssue = some s.now then
    let s := s.fetchAhead k
    if !v.stepping || v.mode != .active || v.inBody then s
    else if v.due.isSome then s.stopNow k else s.modSlot k fun v => { v with stepDone := true }
  else s

/-- The slot with the earliest issue cycle, lowest key first. -/
def firstDue : List (Nat × Slot) → Option (Nat × Nat)
  | [] => none
  | (k, v) :: t =>
    match v.due, firstDue t with
    | none, r => r
    | some d, none => some (k, d)
    | some d, some (k', d') => if d ≤ d' then some (k, d) else some (k', d')

end Sys2Proof.Machine
end

