-- ==== Sys2Proof/Machine/Step.lean ====
section
/-! DEFINITION. One step of the machine: the earliest event of the agenda, or else the earliest issue cycle of a slot.
Events of ranks 0 and 1 of a clk come before its issue cycles, those of higher rank after them (log 4). -/

namespace Sys2Proof.Machine

/-- What comes around the instruction of an issue cycle. -/
def finish (k : Nat) : Out State → Out State
  | .next s => .next (s.postIssue k)
  | .fault f => .fault f
  | .refused r => .refused r

noncomputable section

/-- The issue cycle of slot k at clk t. -/
def stepIssue (s : State) (k t : Nat) : Out State :=
  match ({ s with now := max s.now t, cur := k } : State).preIssue k with
  | .done s' => finish k (.next s')
  | .run i s' => finish k (exec i s')

/-- What the issue cycle of slot k in the present clk leaves. -/
def State.tryIssue (s : State) (k : Nat) : State :=
  match s.preIssue k with
  | .done u => u
  | .run i u => match exec i u with
    | .next u => u
    | _ => u

/-- R102: slot k would issue at its next issue cycle, if that cycle were clk t: its instruction is tried, and issues, or the
one behind it does where a wait of its own is over (R286). -/
def State.wouldIssue (s : State) (k t : Nat) : Bool :=
  let v := s.slot k
  let s : State := { s.modSlot k (fun v => { v with lastIssue := none }) with now := t, cur := k }
  let issued (u : State) : Bool := (u.slot k).lastIssue == some t
  v.mode == .active && v.due.any (fun d => decide (d ≤ s.nextIssue k (t + 1))) &&
    let u := s.tryIssue k
    issued u || ((u.slot k).mode == .active && (u.slot k).due == some t && issued (({ u with now := t, cur := k } : State).tryIssue k))

/-- R102: before the accounting of clk t, the slots of the core that would issue are counted. -/
def State.countWould (s : State) (i : Instr) (t : Nat) : State :=
  match i with
  | .issueCycle core =>
    if core < nCores ∧ (s.core core).counting then
      s.modCore core fun c => { c with would := ((List.range 8).filter fun j => s.wouldIssue (8 * core + j) t).length }
    else s
  | _ => s

/-- The first event of the agenda. -/
def stepEvent (s : State) (t : Nat) (i : Instr) (rest : List (Nat × Instr)) : Out State :=
  exec i { s.countWould i (t - 1) with agenda := rest, now := max s.now t }

/-- One step. A machine with nothing due lets one clk pass. -/
def step (s : State) : Out State :=
  match s.agenda, firstDue s.slots with
  | [], none => .next { s with now := s.now + 1 }
  | [], some (k, t) => stepIssue s k t
  | (a, i) :: rest, none => stepEvent s (a / 8) i rest
  | (a, i) :: rest, some (k, t) => if a ≤ 8 * t + 1 then stepEvent s (a / 8) i rest else stepIssue s k t

end

/-- The machine with an instruction stored where the next step fetches: an ember of the owner of slot 0 stands in slot
0 of core 0 at user level, its PC at 0 on an executable page of the flue above, and nothing else is due. Log 3. -/
def State.withFetchWord (s : State) (nbits w : Nat) : State :=
  let v : Slot := s.slot 0
  let page : TlbEntry := { asid := v.asid.toNat, page := 0, big := false, leaf := 0x1F, at_ := 0 }
  let idle (p : Nat × Slot) : Nat × Slot := (p.1, { p.2 with due := none })
  let s := { s with
    agenda := [], slots := s.slots.map idle,
    mem := memWrite s.mem (flueBase 0) 4 (w % 2 ^ nbits),
    bad := s.bad.filter fun w => errUnit w ≠ flueBase 0,
    soft := s.soft.filter fun w => errUnit w ≠ flueBase 0,
    asids := Tab.set s.asids v.asid.toNat (BitVec.ofNat 64 (v.owner.toNat * 2 ^ 56 + 1)) }
  let s := s.modHome 1 fun h => { h with bankOwner := Tab.set h.bankOwner 0 v.owner, zeroing := h.zeroing.filter (· != 0) }
  let s := s.modCore 0 fun c => { c with tlb := page :: c.tlb.take 31, bpc := [] }
  s.putSlot 0 { v with
    mode := .active, level := .user, ember := if v.ember = 0 then 1 else v.ember, pc := 0, due := some (s.nextIssue 0 s.now),
    wait := .ready, rep := none, imp := none, pend := [], trapNow := none, ahead := [], walk := none, stopReq := false,
    stepping := false, stepDone := false, killReq := none, sig := none, park := none }

end Sys2Proof.Machine
end

