-- ==== Sys2Proof/Safety.lean ====
section
/-! DEFINITION. What counts as a safe run, and the terms in which claims speak of a step: what it leaves as it was, how an
instruction completes, and how it traps. -/

namespace Sys2Proof.Machine

/-- One step answers a next state, and memory keeps its canonical form in it. -/
def State.stepsSafely (s : State) : Prop := ∃ t, step s = .next t ∧ Memory.wf t.mem = true

/-- Every event of the agenda names units that exist, so no step stops on one (log 6). -/
def State.agendaOk (s : State) : Prop := ∀ p ∈ s.agenda, p.2.wf = true

/-- From s to t nothing changes but slot k, the event counters of its core, the trace of its field, and the agenda. -/
structure State.KeepsOutside (s t : State) (k : Nat) : Prop where
  /-- Memory, tags, homes, clusters, regions, embers, flights, groups, launches, the module, and the time. -/
  rest   : t = { s with agenda := t.agenda, slots := t.slots, cores := t.cores, fields := t.fields }
  slots  : ∀ j, j ≠ k → t.slot j = s.slot j
  core   : t.core (slotCore k) = { s.core (slotCore k) with scount := (t.core (slotCore k)).scount }
  cores  : ∀ c, c ≠ slotCore k → t.core c = s.core c
  field  : t.field (slotField k) =
    { s.field (slotField k) with trace := (t.field (slotField k)).trace, traceLost := (t.field (slotField k)).traceLost }
  fields : ∀ f, f ≠ slotField k → t.field f = s.field f

/-- The instruction of the current slot has completed: from s, t differs only in that slot, which now holds `v` (what
the instruction has made of the ember's registers) with its PC at `pc`, issues again at its next issue cycle, and has
counted and traced the issue; an open signature block (R75, R76) has moved on. -/
structure State.Completes (s t : State) (v : Slot) (pc : Word) : Prop where
  outside : s.KeepsOutside t s.cur
  slot    : t.me = { v with
    pc := pc, due := some (s.nextIssue s.cur (s.now + 1)), wait := .ready, park := none, walk := none, moved := false,
    block := none, first := false, bpSkip := if v.level = .user then none else v.bpSkip,
    lastIssue := if v.block.isSome then v.lastIssue else some s.now,
    got := t.me.got, sig := t.me.sig, shadow := t.me.shadow, killReq := t.me.killReq, trapNow := t.me.trapNow }
  /-- With no signature block open nothing else happens. -/
  noBlock : v.sig = none → t.agenda = s.agenda ∧ t.me.got = none ∧ t.me.sig = none ∧ t.me.shadow = v.shadow ∧
    t.me.killReq = v.killReq ∧ t.me.trapNow = v.trapNow

/-- The instruction of the current slot is not ready (R101): it has had no effect, and is tried again at the slot's next
issue cycle. -/
def State.NotReady (s t : State) : Prop :=
  t = s.modMe fun v => { v with wait := .memory, due := some (s.nextIssue s.cur (s.now + 1)) }

/-- R33: slot k of s has taken a trap that leaves the ember's registers as they were; with `tctl`.BUSY = 1 it is parked
and a record of a double fault is written instead (R291), or kept for the restart of a frozen field (R302). Outside the slot
nothing changes but the trace and the error ring of its field, the double faults kept there, and the host's vectors; and those
only as the last three clauses say (R300, R306). -/
structure State.Traps (s t : State) (k : Nat) (imp : Bool) (cause : Nat) (val pc : Word) : Prop where
  slots : ∀ j, j ≠ k → t.slot j = s.slot j
  rest  : t = { s with slots := t.slots, fields := t.fields, module := t.module }
  fields : ∀ f, f ≠ slotField k → t.field f = s.field f
  field : t.field (slotField k) = { s.field (slotField k) with
    trace := (t.field (slotField k)).trace, traceLost := (t.field (slotField k)).traceLost,
    errors := (t.field (slotField k)).errors, errIndex := (t.field (slotField k)).errIndex,
    faults := (t.field (slotField k)).faults }
  module : t.module = { s.module with msix := t.module.msix }
  entry : (s.slot k).busy = false → t.slot k = { (s.slot k).dropRepeat with
    trappc := pc.setWidth 56, trapcause := BitVec.ofNat 9 ((if imp then 256 else 0) + cause), trapval := val,
    pp := (s.slot k).level, busy := true, level := .supervisor, pc := (s.slot k).trapvec.signExtend 64,
    due := some (s.nextIssue k (s.now + 1)), wait := .ready, lastIssue := some s.now,
    park := none, walk := none, moved := false, sig := none, trapNow := none, got := none, block := none, first := false }
  double : (s.slot k).busy = true → (t.slot k = { s.slot k with
      mode := .doubleFault, due := none, wait := .parked, lastIssue := some s.now, trapNow := none }) ∧
    ((s.field (slotField k)).frozen = false → ∃ r, (t.field (slotField k)).errors =
        (s.field (slotField k)).errors.drop ((s.field (slotField k)).errors.length + 1 - (s.field (slotField k)).errCap) ++ [r] ∧
      r.length = 8 ∧
      r.getD 1 0 = BitVec.ofNat 64 (6 * 2 ^ 56 + (s.slot k).owner.toNat * 2 ^ 40 + (s.slot k).asid.toNat * 2 ^ 28)) ∧
    ((s.field (slotField k)).frozen = true → (t.field (slotField k)).faults = (s.field (slotField k)).faults ++
      [(k, [(s.slot k).trappc.setWidth 64, (s.slot k).trapcause.setWidth 64, BitVec.ofNat 64 cause, (s.slot k).trapval])])
  /-- Only an uncorrectable error (0x0F) that is taken at once, and a double fault outside a frozen field, write an error record. -/
  records : (if (s.slot k).busy then (s.field (slotField k)).frozen = true else cause ≠ 0x0F) →
    (t.field (slotField k)).errors = (s.field (slotField k)).errors ∧
    (t.field (slotField k)).errIndex = (s.field (slotField k)).errIndex ∧ t.module = s.module
  faults  : ((s.slot k).busy = true → (s.field (slotField k)).frozen = false) →
    (t.field (slotField k)).faults = (s.field (slotField k)).faults
  trace   : (s.slot k).busy = true → (t.field (slotField k)).trace = (s.field (slotField k)).trace ∧
    (t.field (slotField k)).traceLost = (s.field (slotField k)).traceLost

/-- The registers of a slot that software, a trap or a return can name (R12 to R25), and its ember, without the PC. -/
def Slot.arch (v : Slot) : Slot :=
  { level := v.level, ember := v.ember, x := v.x, f := v.f, fflags := v.fflags, frm := v.frm, stage := v.stage,
    vtype := v.vtype, vmk := v.vmk, vmkh := v.vmkh, tgroup := v.tgroup, tstatus := v.tstatus, parklimit := v.parklimit,
    livemap := v.livemap, asid := v.asid, noroam := v.noroam, trapvec := v.trapvec, trappc := v.trappc,
    trapval := v.trapval, tscratch := v.tscratch, trapcause := v.trapcause, owner := v.owner, accHeld := v.accHeld,
    accWin := v.accWin, busy := v.busy, pp := v.pp }

/-- From s to t, what lies outside slot k has seen only traffic: packets and events, counters, traces, read counts, and
the order of the L1 TLB. Memory, tags, homes, clusters, regions, embers, groups, launches, the module, and every other
slot and register are unchanged. -/
structure State.OnlyTraffic (s t : State) (k : Nat) : Prop where
  rest   : t = { s with agenda := t.agenda, free := t.free, nextId := t.nextId, flights := t.flights, slots := t.slots,
                        cores := t.cores, fields := t.fields }
  slots  : ∀ j, j ≠ k → t.slot j = s.slot j
  cores  : ∀ c, t.core c = { s.core c with scount := (t.core c).scount, tlb := (t.core c).tlb,
                                           meter := (t.core c).meter, held := (t.core c).held }
  fields : ∀ f, t.field f = { s.field f with trace := (t.field f).trace, traceLost := (t.field f).traceLost,
                                             reads := (t.field f).reads, replicas := (t.field f).replicas }

/-- A request with content f has been made as flight `s.nextId`: it is under way, or waits at its core. -/
def State.Sent (s t : State) (mk : Nat → Instr) (f : Flight) : Prop :=
  t.nextId = s.nextId + 1 ∧ ∃ r, t.flight? s.nextId = some { f with next := mk s.nextId, relayTo := r }

/-- The current slot has issued a request and waits for its reply; its registers and PC are unchanged. -/
def State.Waits (s t : State) (w : Wait) : Prop :=
  t.me.arch = s.me.arch ∧ t.me.pc = s.me.pc ∧ t.me.wait = w ∧ t.me.due = none

/-- `va` names n bytes at a key of the current slot's own slice, and nothing stands in the way of an access, not even an error
that it would correct: R27, R28, R150, R219, R220, R296. -/
structure State.OwnSlice (s : State) (va : Word) (n key : Nat) : Prop where
  store   : va.extractLsb' 52 12 = BitVec.allOnes 12
  aligned : va.toNat % n = 0
  named   : s.storeKey va = some key
  own     : s.ownSlice key = true
  owner   : (s.core (keyCore key)).sliceOwner = s.me.owner
  whole   : s.badWord key n = none
  zeroed  : (s.core (keyCore key)).sliceZero = false
  clean   : ∀ w ∈ s.soft, ∀ x ∈ wordsOf key n, errUnit x ≠ errUnit w
  rows    : s.me.rowsQueued = false

/-- The next thing to happen is the issue cycle of slot k at clk t, and nothing comes before its instruction there: no
stop, held trap, kernel work, report or breakpoint (R30, R32, R293, R305). -/
structure State.Issues (s : State) (k t : Nat) : Prop where
  first   : ∀ p ∈ s.agenda.head?, 8 * t + 1 < p.1
  due     : firstDue s.slots = some (k, t)
  active  : (s.slot k).mode = .active
  seated  : (s.slot k).seated = false
  lives   : (s.slot k).killReq = none
  steps   : (s.slot k).inBody = true ∨
    (s.slot k).stepDone = false ∧ ((s.slot k).stopReq = false ∨ (s.slot k).level = .supervisor)
  trap    : (s.slot k).trapNow = none
  kernel  : (s.slot k).level = .user ∨ (s.slot k).trapvec ≠ 0 ∨ (s.slot k).pc ≠ 0
  reports : (s.slot k).level = .supervisor ∨ 
    ((s.slot k).imp = none ∧ ((s.slot k).pend = [] ∨ (s.slot k).first = true)) ∨ (s.slot k).block = some []
  breaks  : s.breakpointHit k = false

/-- The fetch of slot k reads the word w: at an aligned PC, through the leaf tl, from storage at a key (R29, R32) if `fresh`,
or else fetched ahead (R60). -/
structure State.Fetches (s : State) (k key : Nat) (tl : Option TlbEntry) (w : Code) (fresh : Bool) : Prop where
  aligned : (s.slot k).pc.toNat % 4 = 0
  access  : s.access k .fetch (s.slot k).pc 4 = .ok key tl
  word    : (fresh = false ∧ Tab.find? (s.slot k).ahead (s.slot k).pc.toNat = some w) ∨
    (fresh = true ∧ Tab.find? (s.slot k).ahead (s.slot k).pc.toNat = none ∧
      s.ownerOk key (s.slot k).owner (readOnly tl) = true ∧ s.zeroing key = false ∧ s.badWord key 4 = none ∧
      w = BitVec.ofNat 32 (memRead s.mem key 4))

/-- s at the issue cycle of slot k at clk t. -/
def State.atIssue (s : State) (k t : Nat) : State := { s with now := max s.now t, cur := k }

end Sys2Proof.Machine
end

