-- ==== Sys2Proof/Certificates/Slice0/Obligations.lean ====
section
/-! DEFINITION. The statements for the provers, and the lists and terms that they are written in. A statement that names
no rule in its docstring rests on the sections that OBLIGATIONS.json cites. -/

namespace Sys2Proof.Claims

open Sys2Proof.Machine

noncomputable section

/-! Integer instructions (R56 to R58): the constructor and the value that rd receives. -/

/-- The value of `c`, as SLT and the like write it (R56). -/
def bit (c : Prop) [Decidable c] : Word := if c then 1 else 0
/-- R55: sext32(v). -/
def sx32 (v : BitVec 32) : Word := v.signExtend 64
/-- The low word of a register. -/
def low (v : Word) : BitVec 32 := v.setWidth 32

/-- R56, R58: rd, rs1, rs2. -/
def registerOps : List ((Reg → Reg → Reg → Instr) × (Word → Word → Word)) := [
  (.add, fun a b => a + b), (.sub, fun a b => a - b), (.sll, fun a b => a <<< (b &&& 63)),
  (.slt, fun a b => bit (a.toInt < b.toInt)), (.sltu, fun a b => bit (a.toNat < b.toNat)), (.xor, fun a b => a ^^^ b),
  (.srl, fun a b => a >>> (b &&& 63)), (.sra, fun a b => a.sshiftRight (b.toNat % 64)), (.or, fun a b => a ||| b),
  (.and, fun a b => a &&& b),
  (.addw, fun a b => sx32 (low (a + b))), (.subw, fun a b => sx32 (low (a - b))),
  (.sllw, fun a b => sx32 (low a <<< (low b &&& 31))), (.srlw, fun a b => sx32 (low a >>> (low b &&& 31))),
  (.sraw, fun a b => sx32 ((low a).sshiftRight (b.toNat % 32))),
  (.mul, fun a b => a * b), (.mulw, fun a b => sx32 (low (a * b))),
  (.mulh, fun a b => ((a.signExtend 128 * b.signExtend 128) >>> 64).setWidth 64),
  (.mulhsu, fun a b => ((a.signExtend 128 * b.setWidth 128) >>> 64).setWidth 64),
  (.mulhu, fun a b => ((a.setWidth 128 * b.setWidth 128) >>> 64).setWidth 64),
  (.div, fun a b => if b = 0 then -1 else a.sdiv b), (.divu, fun a b => if b = 0 then -1 else a.udiv b),
  (.rem, fun a b => a.srem b), (.remu, fun a b => a.umod b),
  (.divw, fun a b => sx32 (if low b = 0 then -1 else (low a).sdiv (low b))),
  (.divuw, fun a b => sx32 (if low b = 0 then -1 else (low a).udiv (low b))),
  (.remw, fun a b => sx32 ((low a).srem (low b))), (.remuw, fun a b => sx32 ((low a).umod (low b)))]

/-- R35, R56: rd, rs1 and the I immediate, which is sign-extended. -/
def immediateOps : List ((Reg → Reg → BitVec 12 → Instr) × (Word → Word → Word)) := [
  (.addi, fun a b => a + b), (.slti, fun a b => bit (a.toInt < b.toInt)), (.sltiu, fun a b => bit (a.toNat < b.toNat)),
  (.xori, fun a b => a ^^^ b), (.ori, fun a b => a ||| b), (.andi, fun a b => a &&& b), (.addiw, fun a b => sx32 (low (a + b)))]

/-- R56, R57: shifts by a 6-bit constant. -/
def shiftOps : List ((Reg → Reg → BitVec 6 → Instr) × (Word → Nat → Word)) := [
  (.slli, fun a n => a <<< n), (.srli, fun a n => a >>> n), (.srai, fun a n => a.sshiftRight n)]
/-- R56, R57: shifts of the low word by a 5-bit constant. -/
def shiftWordOps : List ((Reg → Reg → BitVec 5 → Instr) × (Word → Nat → Word)) := [
  (.slliw, fun a n => sx32 (low a <<< n)), (.srliw, fun a n => sx32 (low a >>> n)),
  (.sraiw, fun a n => sx32 ((low a).sshiftRight n))]

/-- R56: conditional branches and their conditions. -/
def branchOps : List ((Reg → Reg → BitVec 12 → Instr) × (Word → Word → Bool)) := [
  (.beq, fun a b => a = b), (.bne, fun a b => a ≠ b), (.blt, fun a b => a.toInt < b.toInt),
  (.bge, fun a b => b.toInt ≤ a.toInt), (.bltu, fun a b => a.toNat < b.toNat), (.bgeu, fun a b => b.toNat ≤ a.toNat)]

/-! State registers (R14 to R24, R68, R69). -/

/-- The registers with writable fields that one slot holds: number, value read, and what a write leaves. -/
def slotRegisters : List (Nat × (Slot → Word) × (Word → Slot → Slot)) := [
  (0x001, fun v => v.fflags.setWidth 64, fun w v => { v with fflags := w.extractLsb' 0 5 }),
  (0x002, fun v => v.frm.setWidth 64, fun w v => { v with frm := w.extractLsb' 0 3 }),
  (0x003, fun v => (v.frm ++ v.fflags).setWidth 64,
    fun w v => { v with fflags := w.extractLsb' 0 5, frm := w.extractLsb' 5 3 }),
  (0x803, fun v => v.livemap.setWidth 64, fun w v => { v with livemap := w.extractLsb' 0 36 }),
  (0x805, fun v => v.vtype.setWidth 64, fun w v => { v with vtype := w.extractLsb' 0 9 }),
  (0x806, fun v => v.vmk, fun w v => { v with vmk := w }),
  (0x807, fun v => v.vmkh, fun w v => { v with vmkh := w }),
  (0x808, fun v => v.tgroup.setWidth 64, fun w v => { v with tgroup := w.extractLsb' 0 16 }),
  (0x80A, fun v => v.parklimit.setWidth 64, fun w v => { v with parklimit := w.extractLsb' 0 40 }),
  (0x5C0, fun v => v.trapvec.setWidth 64, fun w v => { v with trapvec := w.extractLsb' 2 54 ++ 0#2 }),
  (0x5C1, fun v => v.trappc.setWidth 64, fun w v => { v with trappc := w.extractLsb' 0 56 }),
  (0x5C2, fun v => v.trapcause.setWidth 64, fun w v => { v with trapcause := w.extractLsb' 0 9 }),
  (0x5C3, fun v => v.trapval, fun w v => { v with trapval := w }),
  (0x5C4, fun v => v.tscratch, fun w v => { v with tscratch := w, busy := false }),
  (0x5C5, fun v => v.asid.setWidth 64, fun w v => { v with asid := w.extractLsb' 0 12, ahead := [] }),
  (0x5CA, fun v => (if v.busy then 2 else 0) + (if v.pp = .supervisor then 1 else 0),
    fun w v => { v with busy := w.getLsbD 1, pp := if w.getLsbD 0 then .supervisor else .user })]

/-- R69: the registers without writable fields, and their values. -/
def fixedRegisters : List (Nat × (State → Word)) := [
  (0x800, fun s => BitVec.ofNat 64 (s.cur % 8)), (0x801, fun s => coreloc s.cur), (0x802, fun s => BitVec.ofNat 64 s.me.ember),
  (0x804, fun s => s.me.stage.setWidth 64), (0x809, fun s => s.me.tstatus),
  (0x80B, fun s => match s.deadlineOf s.me.ember with
    | some (_, d) => BitVec.ofNat 64 (2 ^ 63 + (d.ends - s.now) % 2 ^ 40)
    | none => 0),
  (0x80C, fun s => BitVec.ofNat 64 (s.now - (s.field (slotField s.cur)).zero)), (0x80D, fun s => s.module.devcap),
  (0x5C6, fun s => s.me.owner.setWidth 64)]

/-- R15: every number that exists: those of R14 and the table of R16. -/
def csrNumbers : List Nat := slotRegisters.map (·.1) ++ fixedRegisters.map (·.1) ++ [0x5C7, 0x5C8, 0x5C9]

/-- R68: the six forms: the instruction, whether it writes, and the value it writes ended t. The third field is rs1 or z. -/
def csrForms : List ((Reg → BitVec 5 → BitVec 12 → Instr) × (BitVec 5 → Bool) × (State → BitVec 5 → Word → Word)) := [
  (.csrrw, fun _ => true, fun s a _ => s.x a), (.csrrs, fun a => a != 0, fun s a t => t ||| s.x a),
  (.csrrc, fun a => a != 0, fun s a t => t &&& ~~~ s.x a), (.csrrwi, fun _ => true, fun _ a _ => a.setWidth 64),
  (.csrrsi, fun a => a != 0, fun _ a t => t ||| a.setWidth 64), (.csrrci, fun a => a != 0, fun _ a t => t &&& ~~~ a.setWidth 64)]

/-! Floating point (R61 to R67). -/

/-- R61: the mode that an rm field selects; none where it is invalid. -/
def modeOf (rm frm : BitVec 3) : Option Rm :=
  let n := if rm = 7 then frm else rm
  if n = 0 then some .rne else if n = 1 then some .rtz else if n = 2 then some .rdn else if n = 3 then some .rup
  else if n = 4 then some .rmm else none

/-- The value of an f-register (R79). -/
def num (s : State) (r : Reg) : Machine.Num := unpack fp32 (s.fp r).toNat

/-- R62, R82: an exact result with the flags of its operation, rounded once to FP32: the pattern and all flags. -/
def rounded (m : Rm) (p : Machine.Num × Fl) : BitVec 32 × Fl := (BitVec.ofNat 32 (roundTo fp32 m p.1).1, (roundTo fp32 m p.1).2 ||| p.2)

/-- R62: instructions with two f-registers that round, and their exact result. -/
def floatOps : List ((Reg → Reg → Reg → BitVec 3 → Instr) × (Rm → Machine.Num → Machine.Num → Machine.Num × Fl)) := [
  (.faddS, fun m a b => sumN m [a, b]), (.fsubS, fun m a b => sumN m [a, b.neg]),
  (.fmulS, fun _ a b => mulN a b), (.fdivS, fun _ a b => divN a b)]

/-- R62: the fused instructions; the product and the addend with their signs. -/
def fusedOps : List ((Reg → Reg → Reg → Reg → BitVec 3 → Instr) × Bool × Bool) := [
  (.fmaddS, false, false), (.fmsubS, false, true), (.fnmsubS, true, false), (.fnmaddS, true, true)]

/-- R62: integers rounded to FP32. -/
def fromIntOps : List ((Reg → Reg → BitVec 3 → Instr) × (Word → Int)) := [
  (.fcvtSW, fun a => (low a).toInt), (.fcvtSWu, fun a => (low a).toNat), (.fcvtSL, fun a => a.toInt), (.fcvtSLu, fun a => a.toNat)]

/-- R65: FP32 to an integer: the least and greatest results, and how a result is written. -/
def toIntOps : List ((Reg → Reg → BitVec 3 → Instr) × Int × Int × (Int → Word)) := [
  (.fcvtWS, -2 ^ 31, 2 ^ 31 - 1, fun v => sx32 (BitVec.ofInt 32 v)), (.fcvtWuS, 0, 2 ^ 32 - 1, fun v => sx32 (BitVec.ofInt 32 v)),
  (.fcvtLS, -2 ^ 63, 2 ^ 63 - 1, fun v => BitVec.ofInt 64 v), (.fcvtLuS, 0, 2 ^ 64 - 1, fun v => BitVec.ofInt 64 v)]

/-- R62, R66: instructions that write an f-register from two and do not round: the pattern and the flags. -/
def patternOps : List ((Reg → Reg → Reg → Instr) × (BitVec 32 → BitVec 32 → BitVec 32 × Fl)) := [
  (.fsgnjS, fun a b => (b.extractLsb' 31 1 ++ a.extractLsb' 0 31, 0)),
  (.fsgnjnS, fun a b => (~~~ b.extractLsb' 31 1 ++ a.extractLsb' 0 31, 0)),
  (.fsgnjxS, fun a b => ((a ^^^ b).extractLsb' 31 1 ++ a.extractLsb' 0 31, 0)),
  (.fminS, fun a b => (BitVec.ofNat 32 (minMax fp32 false a.toNat b.toNat).1, (minMax fp32 false a.toNat b.toNat).2)),
  (.fmaxS, fun a b => (BitVec.ofNat 32 (minMax fp32 true a.toNat b.toNat).1, (minMax fp32 true a.toNat b.toNat).2))]

/-- R66: comparisons: what holds of the two values, and the flags. -/
def compareOps : List ((Reg → Reg → Reg → Instr) × (Machine.Num → Machine.Num → Bool) × (Machine.Num → Machine.Num → Fl)) := [
  (.feqS, eqN, fun a b => a.nvIf ||| b.nvIf), (.fltS, ltN, fun a b => if a.isNan || b.isNan then nv else 0),
  (.fleS, fun a b => ltN a b || eqN a b, fun a b => if a.isNan || b.isNan then nv else 0)]

/-! Loads, stores and fences (R59, R60, R235). -/

/-- R59: loads into an x-register: the size, whether the value is sign-extended, and the value of the bytes read. -/
def loadOps : List ((Reg → Reg → BitVec 12 → Instr) × Nat × Bool × (Nat → Word)) := [
  (.lb, 1, true, fun v => (BitVec.ofNat 8 v).signExtend 64), (.lh, 2, true, fun v => (BitVec.ofNat 16 v).signExtend 64),
  (.lw, 4, true, fun v => sx32 (BitVec.ofNat 32 v)), (.ld, 8, true, fun v => BitVec.ofNat 64 v),
  (.lbu, 1, false, fun v => BitVec.ofNat 64 v), (.lhu, 2, false, fun v => BitVec.ofNat 64 v),
  (.lwu, 4, false, fun v => BitVec.ofNat 64 v)]

/-- R59, R62: stores: the size, and the register's value. -/
def storeOps : List ((Reg → Reg → BitVec 12 → Instr) × Nat × (State → Reg → Nat)) := [
  (.sb, 1, fun s r => (s.x r).toNat), (.sh, 2, fun s r => (s.x r).toNat), (.sw, 4, fun s r => (s.x r).toNat),
  (.sd, 8, fun s r => (s.x r).toNat), (.fsw, 4, fun s r => (s.fp r).toNat)]

/-- Byte i of a number, little-endian (R10). -/
def byteOf (v i : Nat) : BitVec 8 := BitVec.ofNat 8 (v / 256 ^ i)

/-- Memory m' is m with the low n bytes of v written at a. -/
def stored (m m' : List Host.Cell) (a n v : Nat) : Prop :=
  ∀ b, memGet m' b = if a ≤ b ∧ b < a + n then byteOf v (b - a) else memGet m b

/-- R35: the address of a load or a store. -/
def addr (s : State) (rs1 : Reg) (imm : BitVec 12) : Word := s.x rs1 + imm.signExtend 64

/-- R60, R235: fences, the scope whose homes they wait for (0 core, 1 cluster, 2 field, 3 wafer), and whether they wait for
copies. -/
def fenceOps : List (Instr × Nat × Bool) := [
  (.fence, 3, false), (.fenceI, 3, false), (.fncC, 0, false), (.fncL, 1, false), (.fncF, 2, false), (.fncW, 3, false), (.fncS, 3, true)]

/-- The request of the current slot to the home of a key. -/
def requestTo (s : State) (va : Word) (key : Nat) : Flight :=
  { next := .loadReply 0, slot := s.cur, ember := s.me.ember, src := slotCore s.cur, dst := keyCore key, va := va, key := key,
    asid := s.me.asid, owner := s.me.owner }

/-- R240: the key that a read of one word of the current slot goes to, its own or that of a replica which the slot's field holds
of its page, and whether it is a replica's. -/
def readPlace (s : State) (tl : Option TlbEntry) (key : Nat) : Nat × Bool :=
  match tl.bind fun t => (s.field (slotField s.cur)).replicas.find? fun r =>
      r.done && leafSealed t.leaf && leafClass t.leaf == 1 && r.frame == leafFrame t.leaf with
  | some r => (key - r.frame + r.copy, true)
  | none => (key, false)

/-! Embers, messages and levels (R25, R132 to R145). -/

/-- R25: what supervisor level may not execute: with every operand, the instruction. -/
def userInstrs (rd a b : Reg) (off : BitVec 9) (g : BitVec 3) : List Instr := [
  .spawn rd a b, .park, .yield, .exit, .roam a, .wfw, .recv rd a, .recvV rd a, .dlarm a, .dldone, .tcall a b, .tret a,
  .tfail a b, .tgseal a, .vld rd a off g, .vtake rd a off g, .barA a, .barW a, .barAw a, .collRed rd a b, .collBc rd a b]

/-- R25: what user level may not execute. -/
def supervisorInstrs (a b : Reg) : List Instr := [.xret, .tlbinv a b, .vsave a, .vrest a]

/-- No open signature block, and no kill or trap that waits for the next issue cycle (R76). -/
def plainEnd (v : Slot) : Prop := v.sig = none ∧ v.killReq = none ∧ v.trapNow = none

/-- R248: every earlier row access has left the buffer and nothing is outstanding. -/
def released (v : Slot) : Prop := v.rowsQueued = false ∧ v.outs = []

/-! Versioned words, atomics and appends (R226 to R241). -/

/-- R224, R229: the address of a versioned load or store. -/
def vaddr (s : State) (rs1 : Reg) (off : BitVec 9) : Word := s.x rs1 + off.signExtend 64 * 8

/-- R246: no load of the slot is outstanding and its core holds no store of it back. -/
def inTurn (s : State) : Prop := s.me.loadIds = [] ∧ s.storesHeld s.cur = false

/-- R300: the ring of field f, which keeps its last `errCap` records, has received one record of eight words, of class cls. -/
def recorded (s t : State) (f cls : Nat) : Prop :=
  ∃ r : Record, (t.field f).errors = (s.field f).errors.drop ((s.field f).errors.length + 1 - (s.field f).errCap) ++ [r] ∧ r.length = 8 ∧
    (r.getD 1 0).toNat / 2 ^ 56 = cls

/-- R300: among the records that the ring of field f has received, and has kept the last `errCap` of, is one of eight words, of class cls. -/
def records (s t : State) (f cls : Nat) : Prop :=
  ∃ (before : List Record) (r : Record) (behind : List Record), r.length = 8 ∧ (r.getD 1 0).toNat / 2 ^ 56 = cls ∧
    let all := (s.field f).errors ++ before ++ [r] ++ behind
    (t.field f).errors = all.drop (all.length - max (s.field f).errCap 1)

/-- R359: the class of the record of a kill: uncorrectable data, a signature, or any other trap. -/
def killClass (v : Slot) : Nat :=
  let c := v.trapcause.toNat % 256
  if c = 0x0F then 2 else if c = 0x0D then 5 else 15

/-- No field's ports refuse a packet (R303). -/
def unfenced (s : State) : Prop := ∀ p ∈ s.fields, p.2.fenced = false

/-- R327: a byte outside the frame of the fabric table. -/
def offFabric (b : Boot) (a : Nat) : Prop := a / 2 ^ 16 ≠ b.fabric / 2 ^ 16

/-- No watch entry is of the current ember, and its record's second word is another than the one at a key. -/
def watchApart (s : State) (key : Nat) : Prop :=
  (∀ h, ∀ w ∈ (s.home h).watch, w.ember ≠ s.me.ember) ∧
  ∀ r, s.vaKeyFor false s.me.asid.toNat (BitVec.ofNat 64 (64 * s.me.ember + 8)) = some r → r / 8 ≠ key / 8

/-- R233: the value that an atomic writes over `old`, or none where a compare fails; at both widths. -/
def amo (op : Nat) {w : Nat} (old b c : BitVec w) : Option (BitVec w) :=
  if op = 0 then some (old + b)
  else if op = 1 then some (if old.toInt < b.toInt then old else b) else if op = 2 then some (if old.toInt < b.toInt then b else old)
  else if op = 3 then some (if old.toNat < b.toNat then old else b) else if op = 4 then some (if old.toNat < b.toNat then b else old)
  else if op = 5 then some b else if old = c then some b else none

/-- R233: what an atomic of n bytes on the bytes `old` writes, as a number. -/
def amoWrites (op n old : Nat) (b c : Word) : Option Nat :=
  if n = 4 then (amo op (BitVec.ofNat 32 old) (low b) (low c)).map (·.toNat) else (amo op (BitVec.ofNat 64 old) b c).map (·.toNat)

/-- R233: the old value as rd receives it. -/
def amoOld (n old : Nat) : Word := if n = 4 then sx32 (BitVec.ofNat 32 old) else BitVec.ofNat 64 old

/-- Memory m' is m with the value written, or m where there is none. -/
def wrote (m m' : List Host.Cell) (a n : Nat) (v : Option Nat) : Prop :=
  match v with
  | some v => stored m m' a n v
  | none => m' = m

/-- R233: the atomics, their operation and size. -/
def atomicOps : List ((Reg → Reg → Reg → Instr) × Nat × Nat) := [
  (.amaddW, 0, 4), (.amaddD, 0, 8), (.amsminW, 1, 4), (.amsminD, 1, 8), (.amsmaxW, 2, 4), (.amsmaxD, 2, 8), (.amuminW, 3, 4),
  (.amuminD, 3, 8), (.amumaxW, 4, 4), (.amumaxD, 4, 8), (.amswapW, 5, 4), (.amswapD, 5, 8), (.amcasW, 6, 4), (.amcasD, 6, 8)]


/-! Tabled calls (R175 to R198). -/

/-- The request of the current slot to the home unit of cluster cl. -/
def homeTo (s : State) (va : Word) (cl : Nat) (via : Option Nat) : Flight :=
  { requestTo s va 0 with dst := s.module.boot.hub cl, aux := cl, via := via }

/-- R181: a callee that a tabled call may name. -/
def calleeOk (v : Word) : Prop := v.toNat / 2 ^ 55 = 0 ∧ v.toNat % 4 = 0

/-- R175: the key's arguments: x10 and those that follow. -/
def keyWords (s : State) (n : Nat) : List Word := (List.range n).map fun i => s.me.xr (10 + i)

/-- R181, R187: the home slice of the current slot's call, in an open group. -/
def callHome (s : State) (v : Word) (n : Nat) (g : Group) : Option Nat :=
  s.keySlice g (keyHash s.me.tgroup.toNat v (keyWords s n))

/-- A group instruction of the current slot on the group r, as the check before its effect leaves it (R189, R191). -/
def groupChecks (i : Instr) (r : Word) (s : State) : Prop :=
  (r.toNat / 65536 ≠ 0 → ∃ t, exec i s = .next t ∧ s.Traps t s.cur false 0x01 (s.me.word.setWidth 64) s.me.pc) ∧
  (r.toNat / 65536 = 0 → Tab.find? s.groups r.toNat = none → ∃ t, exec i s = .next t ∧ s.Completes t s.me (s.me.pc + 4)) ∧
  (r.toNat / 65536 = 0 → ∀ g, Tab.find? s.groups r.toNat = some g → g.owner ≠ s.me.owner →
    ∃ t, exec i s = .next t ∧ s.Traps t s.cur false 0x10 r s.me.pc)

/-! The vector unit (R146 to R173). -/

/-- R45: the lane instructions: operation and form, and whether the word has vd, vs1 and a second operand. -/
def laneOps0 : List ((Reg → Reg → Reg → Instr) × VOp × VForm × Bool × Bool × Bool) := [
  (.vaddVv, .add, .vv, true, true, true), (.vaddVx, .add, .vx, true, true, true), (.vaddVf, .add, .vf, true, true, true),
  (.vaddVi, .add, .vi, true, true, true), (.vsubVv, .sub, .vv, true, true, true), (.vsubVx, .sub, .vx, true, true, true),
  (.vsubVf, .sub, .vf, true, true, true), (.vsubVi, .sub, .vi, true, true, true), (.vmulVv, .mul, .vv, true, true, true),
  (.vmulVx, .mul, .vx, true, true, true), (.vmulVf, .mul, .vf, true, true, true), (.vmulVi, .mul, .vi, true, true, true),
  (.vminVv, .min, .vv, true, true, true), (.vminVx, .min, .vx, true, true, true), (.vminVf, .min, .vf, true, true, true),
  (.vminVi, .min, .vi, true, true, true), (.vmaxVv, .max, .vv, true, true, true), (.vmaxVx, .max, .vx, true, true, true),
  (.vmaxVf, .max, .vf, true, true, true), (.vmaxVi, .max, .vi, true, true, true), (.vfmaVv, .fma, .vv, true, true, true),
  (.vfmaVx, .fma, .vx, true, true, true), (.vfmaVf, .fma, .vf, true, true, true), (.vfnmaVv, .fnma, .vv, true, true, true),
  (.vfnmaVx, .fnma, .vx, true, true, true), (.vfnmaVf, .fnma, .vf, true, true, true), (.vandVv, .land, .vv, true, true, true),
  (.vandVx, .land, .vx, true, true, true), (.vandVi, .land, .vi, true, true, true), (.vorVv, .lor, .vv, true, true, true)]
def laneOps1 : List ((Reg → Reg → Reg → Instr) × VOp × VForm × Bool × Bool × Bool) := [
  (.vorVx, .lor, .vx, true, true, true), (.vorVi, .lor, .vi, true, true, true), (.vxorVv, .lxor, .vv, true, true, true),
  (.vxorVx, .lxor, .vx, true, true, true), (.vxorVi, .lxor, .vi, true, true, true), (.vsllVv, .sll, .vv, true, true, true),
  (.vsllVx, .sll, .vx, true, true, true), (.vsllVi, .sll, .vi, true, true, true), (.vsrlVv, .srl, .vv, true, true, true),
  (.vsrlVx, .srl, .vx, true, true, true), (.vsrlVi, .srl, .vi, true, true, true), (.vsraVv, .sra, .vv, true, true, true),
  (.vsraVx, .sra, .vx, true, true, true), (.vsraVi, .sra, .vi, true, true, true),
  (fun _ a b => .vceqVv a b, .ceq, .vv, false, true, true), (fun _ a b => .vceqVx a b, .ceq, .vx, false, true, true),
  (fun _ a b => .vceqVf a b, .ceq, .vf, false, true, true), (fun _ a b => .vceqVi a b, .ceq, .vi, false, true, true),
  (fun _ a b => .vcneVv a b, .cne, .vv, false, true, true), (fun _ a b => .vcneVx a b, .cne, .vx, false, true, true),
  (fun _ a b => .vcneVf a b, .cne, .vf, false, true, true), (fun _ a b => .vcneVi a b, .cne, .vi, false, true, true),
  (fun _ a b => .vcltVv a b, .clt, .vv, false, true, true), (fun _ a b => .vcltVx a b, .clt, .vx, false, true, true),
  (fun _ a b => .vcltVf a b, .clt, .vf, false, true, true), (fun _ a b => .vcltVi a b, .clt, .vi, false, true, true),
  (fun _ a b => .vcleVv a b, .cle, .vv, false, true, true), (fun _ a b => .vcleVx a b, .cle, .vx, false, true, true),
  (fun _ a b => .vcleVf a b, .cle, .vf, false, true, true), (fun _ a b => .vcleVi a b, .cle, .vi, false, true, true)]
def laneOps2 : List ((Reg → Reg → Reg → Instr) × VOp × VForm × Bool × Bool × Bool) := [
  (.vselVv, .sel, .vv, true, true, true), (.vselVx, .sel, .vx, true, true, true), (.vselVf, .sel, .vf, true, true, true),
  (.vselVi, .sel, .vi, true, true, true), (.vpermVv, .perm, .vv, true, true, true), (.vrotVx, .rot, .vx, true, true, true),
  (.vrotVi, .rot, .vi, true, true, true), (fun d _ b => .vbcVx d b, .bc, .vx, true, false, true),
  (fun d _ b => .vbcVf d b, .bc, .vf, true, false, true), (fun d a _ => .vmv d a, .mv, .unary, true, true, false),
  (fun d a _ => .vneg d a, .neg, .unary, true, true, false), (fun d a _ => .vabs d a, .abs, .unary, true, true, false),
  (fun d a _ => .vrcp d a, .rcp, .unary, true, true, false), (fun d a _ => .vrsq d a, .rsq, .unary, true, true, false),
  (fun d a _ => .vexp2 d a, .exp2, .unary, true, true, false), (fun d a _ => .vlog2 d a, .log2, .unary, true, true, false),
  (fun d a _ => .vtanh d a, .tanh, .unary, true, true, false), (fun d a _ => .vconj d a, .conj, .unary, true, true, false),
  (fun d a _ => .vnorm d a, .norm, .unary, true, true, false), (fun d a _ => .vhad d a, .had, .unary, true, true, false),
  (fun d a _ => .vhadS d a, .hadS, .unary, true, true, false), (.vamulVv, .amul, .vv, true, true, true)]
/-- All lane instructions but `vcvt`. -/
def laneOps : List ((Reg → Reg → Reg → Instr) × VOp × VForm × Bool × Bool × Bool) := laneOps0 ++ laneOps1 ++ laneOps2

/-- R160: the reduction group: the instruction, its operation, and whether the result goes to an f-register. -/
def reductionOps : List ((Reg → Reg → Reg → Instr) × VOp × Bool) := [
  (fun d a _ => .vrsumX d a, .rsum, false), (fun d a _ => .vrsumF d a, .rsum, true), (fun d a _ => .vrmaxX d a, .rmax, false),
  (fun d a _ => .vrmaxF d a, .rmax, true), (fun d a _ => .vrminX d a, .rmin, false), (fun d a _ => .vrminF d a, .rmin, true),
  (.vgetX, .get, false), (.vgetF, .get, true)]

/-- R45: operand b as an entry captures it. -/
def operandB (form : VForm) (s : State) (r : Reg) : Word :=
  match form with
  | .vx => s.x r
  | .vf => (s.fp r).setWidth 64
  | _ => r.setWidth 64

/-- R70, R149: the entry with what it captures at issue. -/
def captured (s : State) (e : VEntry) : VEntry :=
  { e with asid := s.me.asid, vtype := s.me.vtype.toNat, frm := s.me.frm.toNat, at_ := s.now, body := false }

/-- R149, R150: the current slot, which holds its window and has room, has put the entry into its buffer and gone on; no register
and no byte of memory has changed. -/
def entered (s t : State) (e : VEntry) : Prop :=
  t.me.vbuf = s.me.vbuf ++ [captured s e] ∧ t.me.arch = s.me.arch ∧ t.me.pc = s.me.pc + 4 ∧ t.mem = s.mem ∧
  ∀ k r, t.row k r = s.row k r

/-- R146, R150, R161: the window is held, the buffer has room, and no repeat body is open. -/
def canEnter (v : Slot) : Prop := v.accHeld = true ∧ v.vbuf.length < 16 ∧ v.inBody = false

/-- R138, R188, R270, R282: the n words at `va` that an instruction reads first: they have arrived for it, or stand in the own slice. -/
def hasWords (s : State) (va : Word) (n : Nat) (ws : List Word) : Prop :=
  s.me.block = some ws ∨ (s.me.block = none ∧ 0 < n ∧ ∃ key, (∀ i < n, s.OwnSlice (va + BitVec.ofNat 64 (8 * i)) 8 (key + 8 * i)) ∧
    ws = (List.range n).map fun i => s.read64 (key + 8 * i))

/-- R149, R150: e is the head entry of slot k's buffer and no word of a repeat body, and may execute now: 8 clk have passed, and no row
that it names is waited for. -/
def ready (s : State) (k : Nat) (e : VEntry) (rest : List VEntry) : Prop :=
  k < nSlots ∧ (s.slot k).vbuf = e :: rest ∧ ((s.slot k).rep = none ∨ e.body = false) ∧ s.entryClk k e ≤ s.now ∧ s.rowsWait k e = false

/-- R149, R151: the head entry has left the buffer of slot k; its flags have accrued in `fcsr` and in the cluster's union; no x- or
f-register has changed. -/
def executed (s t : State) (k : Nat) (rest : List VEntry) (fl : Fl) : Prop :=
  exec (.vectorEntryExecute k) s = .next t ∧ (t.slot k).vbuf = rest ∧ (t.slot k).x = (s.slot k).x ∧ (t.slot k).f = (s.slot k).f ∧
  (t.slot k).pc = (s.slot k).pc ∧ (t.slot k).fflags = (s.slot k).fflags ||| fl ∧
  (t.cluster (slotCluster k)).flagUnion = (s.cluster (slotCluster k)).flagUnion ||| fl

/-- R147, R148: the entry executes: each enabled lane of its row receives the low bytes of what g gives, whose flags are raised; the other
lanes, rows, the masks and memory stay. -/
def lanesWritten (s : State) (k : Nat) (e : VEntry) (rest : List VEntry) (w : Nat) (g : Nat → Nat × Fl) : Prop :=
  ∃ t, executed s t k rest (((List.range (128 / w)).filter (s.slot k).enabled).foldl (fun x i => x ||| (g i).2) 0) ∧ t.mem = s.mem ∧
    (t.slot k).vmk = (s.slot k).vmk ∧ (t.slot k).vmkh = (s.slot k).vmkh ∧ (∀ r, r % 32 ≠ e.vd % 32 → t.row k r = s.row k r) ∧
    ∀ i < 128 / w, laneAt (t.row k e.vd) w i = if (s.slot k).enabled i then (g i).1 % 2 ^ (8 * w) else laneAt (s.row k e.vd) w i

/-- R45, R153, R154: lane i of operand b as a pattern: of row vs2, the constant (sign-extended, or `unsigned`), or the low bits of the
scalar. -/
def laneB (s : State) (k : Nat) (e : VEntry) (unsigned : Bool) (i : Nat) : Nat :=
  let w := etW e.et
  match e.form with
  | .vv => laneAt (s.row k e.vs2) w i
  | .vi => if unsigned then (e.b.extractLsb' 0 5).toNat else ((e.b.extractLsb' 0 5).signExtend (8 * w)).toNat
  | _ => e.b.toNat % 2 ^ (8 * w)

/-- R153: operand b on floating-point lanes: a lane of row vs2, or the FP32 scalar as it stands. -/
def numB (s : State) (k : Nat) (e : VEntry) (f : Fmt) (i : Nat) : Machine.Num :=
  if e.form = .vf then unpack fp32 (e.b.toNat % 2 ^ 32) else unpack f (laneAt (s.row k e.vs2) (etW e.et) i)

/-- R156, R157: operand b in the lane format; an FP32 scalar is rounded to it once. -/
def valueB (s : State) (k : Nat) (e : VEntry) (i : Nat) : Nat × Fl :=
  match etFmt e.et with
  | some f =>
    if e.form = .vf ∧ f ≠ fp32 then
      let b := unpack fp32 (e.b.toNat % 2 ^ 32)
      ((roundTo f e.rm b).1, (roundTo f e.rm b).2 ||| b.nvIf)
    else (laneB s k e false i, 0)
  | none => (laneB s k e false i, 0)

/-- R162: lane i after the stage of bit n. -/
def stage (rm : Rm) (n : Nat) (y : Nat → Nat) (i : Nat) : Nat × Fl :=
  if i.testBit n then subF fp32 rm (y (i - 2 ^ n)) (y i) else addF fp32 rm (y i) (y (i + 2 ^ n))
/-- R162: the lanes after the first n stages. -/
def stages (rm : Rm) (y : Nat → Nat) : Nat → Nat → Nat
  | 0 => y
  | n + 1 => fun i => (stage rm n (stages rm y n) i).1
/-- R162: the flags of the roundings of the first n stages. -/
def stageFlags (rm : Rm) (y : Nat → Nat) : Nat → Fl
  | 0 => 0
  | n + 1 => (List.range 32).foldl (fun a i => a ||| (stage rm n (stages rm y n) i).2) (stageFlags rm y n)

/-- The operation writes a row or the mask, and asks no storage. -/
def computes (op : VOp) : Bool :=
  decide (op ∉ [VOp.rsum, .rmax, .rmin, .get, .lr, .sr, .lrg, .qnt, .dqnt, .sendV, .recvV, .tile])

/-- Nothing of slot k is on its way, and its own slice is whole: nothing waits for zeroing there, and no load is outstanding. -/
def calm (s : State) (k : Nat) : Prop :=
  (∀ p ∈ s.flights, p.2.slot ≠ k) ∧ (s.core (slotCore k)).sliceZero = false ∧ (s.core (slotCore k)).sliceHeld = [] ∧
  (s.slot k).loadIds = []

/-- R245: a store of n bytes to the own slice: its first j bytes have been written (mem to mem'); the rest, if any, follows in the same clk
(log 57). -/
def nearStored (s : State) (mem mem' : List Host.Cell) (t : State) (id key n v : Nat) : Prop :=
  ∃ j, 0 < j ∧ j ≤ n ∧ stored mem mem' key j v ∧ (j = n → t.flight? id = none) ∧
    (j < n → (8 * s.now + 4, .farStoreAtHome id) ∈ t.agenda ∧ ∃ g, t.flight? id = some g ∧ g.key = key ∧ g.size = n ∧ g.part = j ∧
      g.data = BitVec.ofNat 1024 v)

/-- R285: the request f of a row access is under way, or waits at its core, and counts. -/
def sentRow (s t : State) (k key : Nat) (store : Bool) (f : Flight) : Prop :=
  (∃ r, t.flight? s.nextId = some { f with relayTo := r }) ∧
  (t.slot k).outs = (s.slot k).outs ++ [⟨s.nextId, store, keyCore key, none, true, none⟩]

/-! The matrix unit (R257 to R273). -/

/-- R268: `mma` and its forms: overwriting, and with A and B exchanged. -/
def mmaOps : List ((BitVec 3 → BitVec 1 → Reg → Reg → Reg → Instr) × Bool × Bool) := [
  (.mma, false, false), (.mmaO, true, false), (.mmaR, false, true)]
/-- R268: `mmal` and its forms. -/
def mmalOps : List ((BitVec 3 → BitVec 1 → Reg → Reg → Instr) × Bool × Bool) := [
  (.mmal, false, false), (.mmalO, true, false), (.mmalR, false, true)]

/-- R257: the current slot has counted the operation and put it into its buffer, and has gone on. -/
def tileEntered (s t : State) (e : Tile) : Prop :=
  entered s t { op := .tile, tile := { e with slot := s.cur, ember := s.me.ember, since := s.nextId } } ∧ t.me.tiles = s.me.tiles + 1

/-- R257: what a matrix instruction that finds no fault does on the current slot: it enters the buffer (a slot that does not hold
its free window claims it), or waits while the buffer is full or the tile count stands at 63. -/
def tileIssues (s : State) (i : Instr) (e : Tile) : Prop :=
  (canEnter s.me → s.me.tiles < 63 → ∃ t, exec i s = .next t ∧ tileEntered s t e ∧ t.latch t.cur = s.latch s.cur) ∧
  (s.me.accHeld = true → (16 ≤ s.me.vbuf.length ∨ 63 ≤ s.me.tiles) → ∃ t, exec i s = .next t ∧ s.NotReady t)

/-! The copy engines (R274 to R286). -/

/-- R282: the copy instructions and their kinds. -/
def copyOps : List ((Reg → Reg → Reg → BitVec 1 → Instr) × Nat) := [(.cpy, 0), (.cpy2, 1), (.cpyz, 2), (.cput, 3), (.cget, 4)]

/-- No queue of a cluster holds an entry. -/
def queuesEmpty (s : State) (cl : Nat) : Prop := ∀ c q, coreCluster c = cl → ((s.core c).cq q).entries = []

/-- A slice's completion word receives a number and a generation (R275), with nobody waiting for it or for a doorbell. -/
def quiet (s : State) (core : Nat) : Prop := (∀ h, (s.home h).watch = []) ∧ (s.core core).bells = [] ∧ ∀ k, (s.slot k).park = none

/-- 128 bytes of storage that an engine may read or write for an owner, at addresses of the store space from `va` on. -/
def engineLine (s : State) (owner : BitVec 8) (va : Word) (key : Nat) : Prop :=
  ∀ i < 16, let a := va + BitVec.ofNat 64 (8 * i)
    let k := key + 8 * i
    inStore a = true ∧ s.storeKey a = some k ∧ s.ownerOk k owner false = true ∧ s.badWord k 8 = none ∧ s.zeroing k = false ∧
      s.fencedKey k = false

/-- R277: queue q of core c is the only one of its cluster that holds entries; the command at its head has started and is in a chunk of 128
bytes, which is not its row's last; and the engine does not stand still (R303). -/
def inChunk (s : State) (c q : Nat) (e : CopyEntry) (rest : List CopyEntry) : Prop :=
  c < nCores ∧ q < 2 ∧ (s.field (clusterField (coreCluster c))).fenced = false ∧ e.started = true ∧ ((s.core c).cq q).entries = e :: rest ∧
  (∀ d p, coreCluster d = coreCluster c → d ≠ c ∨ (p = 0 ↔ q ≠ 0) → ((s.core d).cq p).entries = []) ∧ e.cut = false ∧
  ∃ k, e.kind = .command k ∧ e.off + 128 < k.len ∧ e.row < (if k.kind = 1 then k.rows else 1)

/-- R277: the entry once the chunk is done. -/
def chunkDone (e : CopyEntry) : CopyEntry := 
  { e with waiting := false, todo := [], have_ := [], again := 0, frames := 0, parts := [], off := e.off + 128 }

/-- R245, R277: j words at key kd have been written with the bytes of `src`; the entry has the others still to write, or is done with
the chunk. -/
def chunkWritten (s t : State) (c q : Nat) (e : CopyEntry) (rest : List CopyEntry) (kd : Nat) (src : Nat → BitVec 8) : Prop :=
  ∃ j, 0 < j ∧ j ≤ 16 ∧ (∀ b, memGet t.mem b = if kd ≤ b ∧ b < kd + 8 * j then src (b - kd) else memGet s.mem b) ∧
    (j = 16 → ((t.core c).cq q).entries = chunkDone e :: rest) ∧
    (j < 16 → ∃ x : CopyEntry, ((t.core c).cq q).entries = { e with waiting := false, have_ := [], todo := x.todo } :: rest ∧
      x.todo.map Prod.fst = (List.range (16 - j)).map (fun i => kd + 8 * (j + i)) ∧
      ∀ i < 16 - j, ∀ n < 8, byteOf ((x.todo.map Prod.snd).getD i 0).toNat n = src (8 * (j + i) + n))

/-- The queue of a core awaits the acknowledgement of the chunk in flight id (R345). -/
def awaits (s : State) (id : Nat) (f : Flight) (e : CopyEntry) : Prop :=
  s.flight? id = some f ∧ id < s.nextId ∧ (∃ rest, ((s.core f.src).cq f.op).entries = e :: rest) ∧ e.num = f.aux ∧ e.waiting = true ∧
  (∃ c, e.kind = .command c)

/-! The control space (R292, R338, R339). -/

/-- R339: registers of the module block that store a write: first offset, number, bits kept. -/
def moduleRegs : List (Nat × Nat × Word) := [
  (0x0, 8, BitVec.allOnes 64), (0x600, 6, BitVec.allOnes 64), (0xC000, 1, 0xFFF), (0xC008, 1, 0xFFFFFFFFFF0),
  (0x4000, 4096, 0xFFFFFFFFFFFF), (0x2000, 1024, 0x8000FFFF0000FFFF), (0xD000, 1024, 0x800001FFFFFFFFFF)]
/-- R305, R306, R308: registers of a core block. -/
def coreRegs : List (Nat × Nat × Word) := [
  (0x400, 4, 0xFFFFFFFFFFFFFC), (0x440, 4, 0x80000000001FFFFF), (0x700, 32, 0xFFFF), (0x800, 16, BitVec.allOnes 64),
  (0x900, 32, BitVec.allOnes 64)]

/-! Words (R34 to R47). -/

/-- The words of the spec's examples of encodings, field by field, and what they stand for. -/
def words : List (Code × Instr) := [
  (0xFFF50513, .addi 10 10 0xFFF), (0x00113423, .sd 2 1 8), (0x00050863, .beq 10 0 8), (0x00002517, .auipc 10 2),
  (0xA3850513, .addi 10 10 0xA38), (0x013582AB, .vld 5 11 2 3), (0x0012B00B, .tcall 5 1), (0xE3F0600B, .waitc 7 0 7 7),
  (0x30E95E0B, .sig 0x3A5C 12), (0x002081DB, .vaddVv 3 1 2), (0x106281FB, .mma 1 1 5 6 2), (0x146281FB, .mmaR 1 1 5 6 2),
  (0x00000073, .ecall), (0x00100073, .ebreak)]

end

end Sys2Proof.Claims

open Sys2Proof Sys2Proof.Machine Sys2Proof.Claims

/-- R56, R58: each register-register integer instruction completes in every state: rd receives the value of the table
(nothing where rd is x0), the PC moves on by 4, and nothing else changes. -/
def Sys2Proof.Claims.registerOpsComplete : Prop :=
  ∀ p ∈ registerOps, ∀ (rd rs1 rs2 : Reg) (s : State), ∃ t, exec (p.1 rd rs1 rs2) s = .next t ∧
    s.Completes t (s.me.setX rd.toNat (p.2 (s.x rs1) (s.x rs2))) (s.me.pc + 4)

/-- R35, R56, R57: the same of the instructions with an immediate operand, of LUI and of AUIPC. -/
def Sys2Proof.Claims.immediateOpsComplete : Prop :=
  (∀ p ∈ immediateOps, ∀ (rd rs1 : Reg) (imm : BitVec 12) (s : State), ∃ t, exec (p.1 rd rs1 imm) s = .next t ∧
    s.Completes t (s.me.setX rd.toNat (p.2 (s.x rs1) (imm.signExtend 64))) (s.me.pc + 4)) ∧
  (∀ p ∈ shiftOps, ∀ (rd rs1 : Reg) (n : BitVec 6) (s : State), ∃ t, exec (p.1 rd rs1 n) s = .next t ∧
    s.Completes t (s.me.setX rd.toNat (p.2 (s.x rs1) n.toNat)) (s.me.pc + 4)) ∧
  (∀ p ∈ shiftWordOps, ∀ (rd rs1 : Reg) (n : BitVec 5) (s : State), ∃ t, exec (p.1 rd rs1 n) s = .next t ∧
    s.Completes t (s.me.setX rd.toNat (p.2 (s.x rs1) n.toNat)) (s.me.pc + 4)) ∧
  (∀ (rd : Reg) (imm : BitVec 20) (s : State), ∃ t, exec (.lui rd imm) s = .next t ∧
    s.Completes t (s.me.setX rd.toNat ((imm.signExtend 64) <<< 12)) (s.me.pc + 4)) ∧
  (∀ (rd : Reg) (imm : BitVec 20) (s : State), ∃ t, exec (.auipc rd imm) s = .next t ∧
    s.Completes t (s.me.setX rd.toNat (s.me.pc + (imm.signExtend 64) <<< 12)) (s.me.pc + 4))

/-- R35, R56 to R58: integer instructions with two registers, and with a register and an immediate. -/
def Obligations.IntegerOpsComplete : Prop := registerOpsComplete ∧ immediateOpsComplete

/-- R29, R56: JAL and JALR link PC + 4 in rd and go to their target where it is a multiple of 4; where it is not, the trap
of a misaligned fetch is taken with `trapval` the target, and rd keeps its value. -/
def Sys2Proof.Claims.jumpsComplete : Prop :=
  let goes (i : Instr) (rd : Reg) (target : Word) (s : State) : Prop := ∃ t, exec i s = .next t ∧
    (target.toNat % 4 = 0 → s.Completes t (s.me.setX rd.toNat (s.me.pc + 4)) target) ∧
    (target.toNat % 4 ≠ 0 → s.Traps t s.cur false 2 target s.me.pc)
  (∀ (rd : Reg) (imm : BitVec 20) (s : State), goes (.jal rd imm) rd (s.me.pc + (imm.signExtend 64) <<< 1) s) ∧
  (∀ (rd rs1 : Reg) (imm : BitVec 12) (s : State),
    goes (.jalr rd rs1 imm) rd ((s.x rs1 + imm.signExtend 64) &&& ~~~ 1) s)

/-- R29, R56: a conditional branch that is taken goes to PC + offset (or traps where that is no multiple of 4), and one that
is not taken goes on at PC + 4; neither changes a register. -/
def Sys2Proof.Claims.branchesComplete : Prop :=
  ∀ p ∈ branchOps, ∀ (rs1 rs2 : Reg) (imm : BitVec 12) (s : State), ∃ t, exec (p.1 rs1 rs2 imm) s = .next t ∧
    let target := s.me.pc + (imm.signExtend 64) <<< 1
    if p.2 (s.x rs1) (s.x rs2) then
      (target.toNat % 4 = 0 → s.Completes t s.me target) ∧ (target.toNat % 4 ≠ 0 → s.Traps t s.cur false 2 target s.me.pc)
    else s.Completes t s.me (s.me.pc + 4)

/-- R29, R56: jumps and conditional branches.
Readings and choices of the model that clauses rest on: log 23 (a target of `jalr` that is not canonical is reached, and the fetch
there traps). -/
def Obligations.JumpsAndBranches : Prop := jumpsComplete ∧ branchesComplete

/-- R57: shift amounts are six bits wide (five for the W forms, where imm[5] set is illegal), and every other value of the
upper immediate bits is an illegal instruction; multiply, divide and remainder complete at their issue and raise no flag. -/
def Obligations.ShiftEncodings : Prop :=
  (∀ (rd rs1 : BitVec 5) (imm : BitVec 12),
    (decode (imm ++ rs1 ++ 1#3 ++ rd ++ 0x13#7) =
      if imm.extractLsb' 6 6 = 0 then some (.slli rd rs1 (imm.extractLsb' 0 6)) else none) ∧
    (decode (imm ++ rs1 ++ 5#3 ++ rd ++ 0x13#7) =
      if imm.extractLsb' 6 6 = 0 then some (.srli rd rs1 (imm.extractLsb' 0 6))
      else if imm.extractLsb' 6 6 = 0x10 then some (.srai rd rs1 (imm.extractLsb' 0 6)) else none) ∧
    (decode (imm ++ rs1 ++ 1#3 ++ rd ++ 0x1B#7) =
      if imm.extractLsb' 5 7 = 0 then some (.slliw rd rs1 (imm.extractLsb' 0 5)) else none) ∧
    (decode (imm ++ rs1 ++ 5#3 ++ rd ++ 0x1B#7) =
      if imm.extractLsb' 5 7 = 0 then some (.srliw rd rs1 (imm.extractLsb' 0 5))
      else if imm.extractLsb' 5 7 = 0x20 then some (.sraiw rd rs1 (imm.extractLsb' 0 5)) else none)) ∧
  (∀ (w : Code) (s : State), ∃ t, exec (.illegalInstruction w) s = .next t ∧ s.Traps t s.cur false 0x01 (w.setWidth 64) s.me.pc) ∧
  (∀ i ∈ [Instr.mul, .mulh, .mulhsu, .mulhu, .div, .divu, .rem, .remu, .mulw, .divw, .divuw, .remw, .remuw], ∀ (rd rs1 rs2 : Reg) (s : State),
    ∃ t v, exec (i rd rs1 rs2) s = .next t ∧ s.Completes t (s.me.setX rd.toNat v) (s.me.pc + 4))

/-- R58: division by zero and signed overflow give the results of the table and do not trap. -/
def Obligations.DivisionCorners : Prop :=
  ∀ (rd rs1 rs2 : Reg) (s : State),
    let a := s.x rs1
    let b := s.x rs2
    let gives (i : Instr) (v : Word) : Prop := ∃ t, exec i s = .next t ∧ s.Completes t (s.me.setX rd.toNat v) (s.me.pc + 4)
    let least : BitVec 32 := BitVec.ofNat 32 (2 ^ 31)
    (b = 0 → gives (.div rd rs1 rs2) (-1) ∧ gives (.divu rd rs1 rs2) (BitVec.allOnes 64) ∧ gives (.rem rd rs1 rs2) a ∧
      gives (.remu rd rs1 rs2) a) ∧
    (low b = 0 → gives (.divw rd rs1 rs2) (-1) ∧ gives (.divuw rd rs1 rs2) (BitVec.allOnes 64) ∧
      gives (.remw rd rs1 rs2) (sx32 (low a)) ∧ gives (.remuw rd rs1 rs2) (sx32 (low a))) ∧
    (a = BitVec.ofNat 64 (2 ^ 63) → b = -1 → gives (.div rd rs1 rs2) a ∧ gives (.rem rd rs1 rs2) 0) ∧
    (low a = least → low b = -1 → gives (.divw rd rs1 rs2) (sx32 least) ∧ gives (.remw rd rs1 rs2) 0)

/-- R33, R71, R37, R32: ECALL, EBREAK, a word that decodes to nothing and a fault of a fetch enter the trap handler, with
nothing but the trap registers, the level and the PC changed. -/
def Sys2Proof.Claims.trapsEnter : Prop :=
  ∀ s : State,
    (∃ t, exec .ecall s = .next t ∧ s.Traps t s.cur false 0x11 0 s.me.pc) ∧
    (∃ t, exec .ebreak s = .next t ∧ s.Traps t s.cur false 0x12 s.me.pc s.me.pc) ∧
    (∀ w : Code, ∃ t, exec (.illegalInstruction w) s = .next t ∧ s.Traps t s.cur false 0x01 (w.setWidth 64) s.me.pc) ∧
    (∀ (c : Nat) (a : Word), ∃ t, exec (.fetchFault c a) s = .next t ∧ s.Traps t s.cur false c a s.me.pc)

/-- R72: `xret` returns to `trappc` at the level `tctl`.PP, with BUSY clear; at user level it is illegal, and a target that
is no multiple of 4 is a trap at supervisor level. -/
def Sys2Proof.Claims.trapReturns : Prop :=
  ∀ s : State, ∃ t, exec .xret s = .next t ∧
    let target : Word := s.me.trappc.signExtend 64
    if s.me.level = .user then s.Traps t s.cur false 0x01 (s.me.word.setWidth 64) s.me.pc
    else if target.toNat % 4 ≠ 0 then s.Traps t s.cur false 0x02 target s.me.pc
    else s.Completes t { s.me with level := s.me.pp, busy := false } target

/-- R33, R71, R72, R37, R32: the way into the trap handler, and the way back. -/
def Obligations.TrapsEnterAndReturn : Prop := trapsEnter ∧ trapReturns

/-- R68, R14 to R21: each CSR instruction on each register that one slot holds: rd receives the value read, and the
register its new RW fields, if the form writes. The numbers 0x5C0 to 0x5FF need supervisor level, and the flags and the
mask rows wait for an empty sequence buffer (R150); R15's other cases are `csrIllegal`. -/
def Sys2Proof.Claims.csrSlotRegisters : Prop :=
  ∀ f ∈ csrForms, ∀ r ∈ slotRegisters, ∀ (rd : Reg) (a : BitVec 5) (s : State),
    (0x800 ≤ r.1 ∨ r.1 < 0x5C0 ∨ s.me.level = .supervisor) →
    (r.1 = 0x001 ∨ r.1 = 0x003 ∨ r.1 = 0x806 ∨ r.1 = 0x807 → s.me.vbuf = []) →
    ∃ t, exec (f.1 rd a (BitVec.ofNat 12 r.1)) s = .next t ∧
      s.Completes t (Slot.setX (if f.2.1 a then r.2.2 (f.2.2 s a (r.2.1 s.me)) s.me else s.me) rd.toNat (r.2.1 s.me)) (s.me.pc + 4)

/-- R68, R69: the forms that do not write read the registers without writable fields, and change nothing but rd. -/
def Sys2Proof.Claims.csrFixedRegisters : Prop :=
  ∀ f ∈ csrForms, ∀ r ∈ fixedRegisters, ∀ (rd : Reg) (a : BitVec 5) (s : State), f.2.1 a = false →
    (r.1 = 0x5C6 → s.me.level = .supervisor) →
    ∃ t, exec (f.1 rd a (BitVec.ofNat 12 r.1)) s = .next t ∧ s.Completes t (s.me.setX rd.toNat (r.2 s)) (s.me.pc + 4)

/-- R20, R24, R146: each CSR instruction on `accwin`, `mweight` and `sigctl`, at supervisor level: rd receives the value read, and a form
that writes leaves the new fields. A window that another slot of the core holds cannot be taken; a weight of 0 becomes 1; clearing EN
ends every open block of the core. -/
def Sys2Proof.Claims.csrCoreRegisters : Prop :=
  ∀ f ∈ csrForms, ∀ (rd : Reg) (a : BitVec 5) (s : State), s.me.level = .supervisor →
    let c := slotCore s.cur
    (∃ t, exec (f.1 rd a 0x5C7) s = .next t ∧
      let old := BitVec.ofNat 64 (if s.me.accHeld then 256 + s.me.accWin.toNat else s.me.accWin.toNat)
      let w := f.2.2 s a old
      let taken := w.getLsbD 8 && s.windowTaken s.cur (w.toNat % 8)
      s.Completes t (Slot.setX (if f.2.1 a && !taken then { s.me with accHeld := w.getLsbD 8, accWin := w.extractLsb' 0 3 } else s.me)
        rd.toNat old) (s.me.pc + 4)) ∧
    (∃ t, exec (f.1 rd a 0x5C8) s = .next t ∧
      let old := (s.core c).mweight.setWidth 64
      let w := f.2.2 s a old
      let u := if f.2.1 a then s.modCore c fun v => { v with mweight := if w.extractLsb' 0 4 = 0 then 1 else w.extractLsb' 0 4 } else s
      u.Completes t (s.me.setX rd.toNat old) (s.me.pc + 4)) ∧
    (∃ t, exec (f.1 rd a 0x5C9) s = .next t ∧
      let old := BitVec.ofNat 64 ((if (s.core c).sigKill then 2 else 0) + (if (s.core c).sigEn then 1 else 0))
      let w := f.2.2 s a old
      t.me.xr rd.toNat = (if rd = 0 then 0 else old) ∧ t.me.pc = s.me.pc + 4 ∧ t.mem = s.mem ∧ t.tags = s.tags ∧
      if f.2.1 a then (t.core c).sigKill = w.getLsbD 1 ∧ (t.core c).sigEn = w.getLsbD 0 ∧
        (w.getLsbD 0 = false → ∀ i < 8, (t.slot (8 * c + i)).sig = none)
      else (t.core c).sigKill = (s.core c).sigKill ∧ (t.core c).sigEn = (s.core c).sigEn)

/-- R15: a CSR instruction traps where it names a number that does not exist, where it names one of 0x5C0 to 0x5FF at user
level, and where it would write a register without writable fields; the trap is its only effect. -/
def Sys2Proof.Claims.csrIllegal : Prop :=
  ∀ f ∈ csrForms, ∀ (rd : Reg) (a : BitVec 5) (c : BitVec 12) (s : State),
    (c.toNat ∉ csrNumbers ∨ (s.me.level = .user ∧ 0x5C0 ≤ c.toNat ∧ c.toNat ≤ 0x5FF) ∨
      (f.2.1 a = true ∧ c.toNat ∈ fixedRegisters.map (·.1))) →
    ∃ t, exec (f.1 rd a c) s = .next t ∧ s.Traps t s.cur false 0x01 (s.me.word.setWidth 64) s.me.pc

/-- R15, R69: the six CSR instructions on every register that exists, at both levels: they trap in the three cases of R15, and in no
other; and what they read and write. -/
def Obligations.CsrAccesses : Prop := csrSlotRegisters ∧ csrFixedRegisters ∧ csrCoreRegisters ∧ csrIllegal

/-- R61, R62, R64: every F instruction that rounds writes the exact result rounded once in the mode that rm selects, and ORs
its flags into `fcsr`; an invalid mode is an illegal instruction. -/
def Sys2Proof.Claims.floatRoundingOps : Prop :=
  ∀ (rd rs1 rs2 rs3 : Reg) (rm : BitVec 3) (s : State),
    let gives (i : Instr) (p : Rm → Machine.Num × Fl) : Prop := ∃ t, exec i s = .next t ∧
      match modeOf rm s.me.frm with
      | none => s.Traps t s.cur false 0x01 (s.me.word.setWidth 64) s.me.pc
      | some m => s.Completes t
        { s.me.setF rd.toNat (rounded m (p m)).1 with fflags := s.me.fflags ||| (rounded m (p m)).2 } (s.me.pc + 4)
    (∀ p ∈ floatOps, gives (p.1 rd rs1 rs2 rm) fun m => p.2 m (num s rs1) (num s rs2)) ∧
    (∀ p ∈ fusedOps, gives (p.1 rd rs1 rs2 rs3 rm) fun m =>
      let q := mulN (num s rs1) (num s rs2)
      let r := sumN m [if p.2.1 then q.1.neg else q.1, if p.2.2 then (num s rs3).neg else num s rs3]
      (r.1, q.2 ||| r.2)) ∧
    (∀ p ∈ fromIntOps, gives (p.1 rd rs1 rm) fun _ => let v := p.2 (s.x rs1); (.fin (decide (v < 0)) v.natAbs 0, 0)) ∧
    gives (.fsqrtS rd rs1 rm) fun _ => sqrtN (num s rs1)

/-- R61, R65: a conversion to an integer rounds with rm and then compares with the range: NaN gives 0, a value above (below)
gives the greatest (least) result, each with NV alone; a value that fits is written, with NX where it was inexact. -/
def Obligations.FloatToInteger : Prop :=
  ∀ p ∈ toIntOps, ∀ (rd rs1 : Reg) (rm : BitVec 3) (s : State), ∃ t, exec (p.1 rd rs1 rm) s = .next t ∧
    match modeOf rm s.me.frm with
    | none => s.Traps t s.cur false 0x01 (s.me.word.setWidth 64) s.me.pc
    | some m =>
      let writes (v : Int) (fl : Fl) : Prop :=
        s.Completes t { s.me.setX rd.toNat (p.2.2.2 v) with fflags := s.me.fflags ||| fl } (s.me.pc + 4)
      match num s rs1 with
      | .nan _ => writes 0 16
      | .inf neg => writes (if neg then p.2.1 else p.2.2.1) 16
      | .fin neg k e =>
        let r := roundAt m neg k e 0
        let v : Int := if neg then -(r.1 : Int) else r.1
        if v < p.2.1 then writes p.2.1 16 else if p.2.2.1 < v then writes p.2.2.1 16 else writes v (if r.2 then 1 else 0)

/-- R62, R66, R67: the F instructions that do not round: sign injection, minimum and maximum, comparisons (which write 0 where
an operand is a NaN), the moves between the register files, and FCLASS. -/
def Sys2Proof.Claims.floatPlainOps : Prop :=
  ∀ (rd rs1 rs2 : Reg) (s : State),
    (∀ p ∈ patternOps, ∃ t, exec (p.1 rd rs1 rs2) s = .next t ∧ s.Completes t
      { s.me.setF rd.toNat (p.2 (s.fp rs1) (s.fp rs2)).1 with fflags := s.me.fflags ||| (p.2 (s.fp rs1) (s.fp rs2)).2 } (s.me.pc + 4)) ∧
    (∀ p ∈ compareOps, ∃ t, exec (p.1 rd rs1 rs2) s = .next t ∧ s.Completes t
      { s.me.setX rd.toNat (bit (p.2.1 (num s rs1) (num s rs2) = true)) with
        fflags := s.me.fflags ||| p.2.2 (num s rs1) (num s rs2) } (s.me.pc + 4)) ∧
    (∃ t, exec (.fmvXW rd rs1) s = .next t ∧ s.Completes t (s.me.setX rd.toNat (sx32 (s.fp rs1))) (s.me.pc + 4)) ∧
    (∃ t, exec (.fmvWX rd rs1) s = .next t ∧ s.Completes t (s.me.setF rd.toNat (low (s.x rs1))) (s.me.pc + 4)) ∧
    (∃ t, exec (.fclassS rd rs1) s = .next t ∧
      s.Completes t (s.me.setX rd.toNat (BitVec.ofNat 64 (classOf fp32 (s.fp rs1).toNat))) (s.me.pc + 4))

/-- R61 to R67: the F instructions that round, and those that do not. -/
def Obligations.FloatOpsComplete : Prop := floatRoundingOps ∧ floatPlainOps

/-- R67: FCLASS.S sets exactly one bit of X[rd], the one of the table, by the fields of the pattern. -/
def Obligations.ClassOneBit : Prop :=
  ∀ (rd rs1 : Reg) (s : State), rd ≠ 0 → ∃ t, exec (.fclassS rd rs1) s = .next t ∧
    let p := s.fp rs1
    let neg := p.getLsbD 31
    let e := p.extractLsb' 23 8
    let m := p.extractLsb' 0 23
    t.me.xr rd.toNat = 1#64 <<< (
      if e = 255 then if m = 0 then (if neg then 0 else 7) else if m.getLsbD 22 then 9 else 8
      else if e = 0 then if m = 0 then (if neg then 3 else 4) else if neg then 2 else 5
      else if neg then 1 else 6)

/-- R66: FMIN.S and FMAX.S order -0 below +0, return the other operand of a NaN, and the canonical NaN of two; FEQ.S raises NV for a
signalling NaN alone, FLT.S and FLE.S for any NaN; and every comparison with a NaN writes 0. -/
def Obligations.MinMaxAndNan : Prop :=
  ∀ (rd rs1 rs2 : Reg) (s : State),
    let a := s.fp rs1
    let b := s.fp rs2
    let isNan (v : BitVec 32) : Prop := v.extractLsb' 23 8 = 255 ∧ v.extractLsb' 0 23 ≠ 0
    let quiet (v : BitVec 32) : Prop := v.getLsbD 22 = true
    let least : BitVec 32 := 0x80000000
    let gives (i : Instr) (v : BitVec 32) : Prop := ∃ t, exec i s = .next t ∧ t.me.fr rd.toNat = v ∧ t.me.pc = s.me.pc + 4
    let compares (i : Instr) (fl : BitVec 5) : Prop := ∃ t, exec i s = .next t ∧
      s.Completes t { s.me.setX rd.toNat 0 with fflags := s.me.fflags ||| fl } (s.me.pc + 4)
    (a = least → b = 0 → gives (.fminS rd rs1 rs2) least ∧ gives (.fmaxS rd rs1 rs2) 0) ∧
    (a = 0 → b = least → gives (.fminS rd rs1 rs2) least ∧ gives (.fmaxS rd rs1 rs2) 0) ∧
    (isNan a → ¬ isNan b → gives (.fminS rd rs1 rs2) b ∧ gives (.fmaxS rd rs1 rs2) b) ∧
    (¬ isNan a → isNan b → gives (.fminS rd rs1 rs2) a ∧ gives (.fmaxS rd rs1 rs2) a) ∧
    (isNan a → isNan b → gives (.fminS rd rs1 rs2) 0x7FC00000 ∧ gives (.fmaxS rd rs1 rs2) 0x7FC00000) ∧
    (isNan a ∨ isNan b → compares (.fltS rd rs1 rs2) 16 ∧ compares (.fleS rd rs1 rs2) 16 ∧
      ((isNan a ∧ ¬ quiet a) ∨ (isNan b ∧ ¬ quiet b) → compares (.feqS rd rs1 rs2) 16) ∧
      ((isNan a → quiet a) → (isNan b → quiet b) → compares (.feqS rd rs1 rs2) 0)) ∧
    (¬ isNan a → ¬ isNan b → ∀ p ∈ compareOps, ∃ t, exec (p.1 rd rs1 rs2) s = .next t ∧ t.me.fflags = s.me.fflags)

/-- R80, R82: rounding to a format gives the canonical NaN for every NaN; and a value that the format represents is its own
rounding in every mode, without a flag. -/
def Obligations.RoundingExact : Prop :=
  ∀ f ∈ [fp32, fp16, bf16], ∀ (m : Rm) (x : Nat), x < 2 ^ (1 + f.eb + f.mb) →
    ((unpack f x).isNan = true → roundTo f m (unpack f x) = (f.nan, 0)) ∧
    ((unpack f x).isNan = false → roundTo f m (unpack f x) = (x, 0))

/-- R29, R30, R32: a step at an issue cycle fetches the word at the PC and runs the instruction it decodes to, in the state
that holds the word and the new order of the L1 TLB, and in which a read of memory has been counted (R240) and its errors corrected
(R296); a word that decodes to nothing, or that may not stand in a repeat body, runs as an illegal instruction. `finish` is what comes after an issue (`AfterIssue`). -/
def Sys2Proof.Claims.stepRunsDecoded : Prop :=
  ∀ (s : State) (k t key : Nat) (tl : Option TlbEntry) (w : Code) (fresh : Bool), s.Issues k t → s.Fetches k key tl w fresh →
    let read := if fresh then (s.atIssue k t).fetched k tl else s.atIssue k t
    let u := (read.touch k tl).modSlot k fun v => { v with word := w }
    (∀ i, decode w = some i → ((s.slot k).inBody = true → bodyWord w = true) → step s = finish k (exec i u)) ∧
    (decode w = none → step s = finish k (exec (.illegalInstruction w) u))

/-- R29, R32: a step at an issue cycle whose PC is misaligned, or whose access to the PC takes a trap, runs that fault of the
fetch. -/
def Sys2Proof.Claims.stepRunsFetchFault : Prop :=
  ∀ (s : State) (k t : Nat), s.Issues k t →
    ((s.slot k).pc.toNat % 4 ≠ 0 → step s = finish k (exec (.fetchFault 0x02 (s.slot k).pc) (s.atIssue k t))) ∧
    (∀ c a, (s.slot k).pc.toNat % 4 = 0 → s.access k .fetch (s.slot k).pc 4 = .trap c a →
      step s = finish k (exec (.fetchFault c a) (s.atIssue k t)))

/-- R29, R30, R32: a step at an issue cycle runs the instruction that the word at the PC decodes to, or the fault of its fetch. -/
def Obligations.StepRunsDecoded : Prop := stepRunsDecoded ∧ stepRunsFetchFault

/-- The order of events and issue cycles is the model's (log 4): a step takes the first event of the agenda unless an issue
cycle of an earlier clk, or of the same clk and before its rank, comes first; before the accounting of a clk the slots that would
issue in it are counted (R102); with nothing due one clk passes. -/
def Sys2Proof.Claims.stepRunsEvents : Prop :=
  (∀ (s : State) (a : Nat) (i : Instr) (rest : List (Nat × Instr)), s.agenda = (a, i) :: rest →
    (∀ p ∈ firstDue s.slots, a ≤ 8 * p.2 + 1) →
    step s = exec i { s.countWould i (a / 8 - 1) with agenda := rest, now := max s.now (a / 8) }) ∧
  (∀ s : State, s.agenda = [] → firstDue s.slots = none → step s = .next { s with now := s.now + 1 })

/-- R293, R60: what comes after the instruction of a slot that is not single-stepped leaves everything as it is, but for the
slot's words fetched ahead (logs 13, 19). -/
def Sys2Proof.Claims.afterIssue : Prop :=
  ∀ (s : State) (k : Nat), (s.slot k).stepping = false → ∃ t, finish k (.next s) = .next t ∧
    t = { s with slots := t.slots, free := t.free } ∧ (∀ j, j ≠ k → t.slot j = s.slot j) ∧
    t.slot k = { s.slot k with ahead := (t.slot k).ahead }

/-- The order of events and issue cycles (log 4), and what comes after an issue (logs 13, 19). -/
def Obligations.StepOrder : Prop := stepRunsEvents ∧ afterIssue

/-- R34 to R47: decoding the word of a well-formed instruction gives it back, with every operand at every value. -/
def Obligations.DecodeEncode : Prop := ∀ (i : Instr) (w : Code), i.wf = true → encode i = some w → decode w = some i

/-- R34 to R47: a word that decodes is the one word of its instruction, which is well-formed; only FENCE and FENCE.I ignore
bits (R38). -/
def Obligations.EncodeDecode : Prop :=
  ∀ (w : Code) (i : Instr), decode w = some i → i.wf = true ∧
    (encode i = some w ∨ (w.extractLsb' 0 7 = 0x0F ∧ (i = .fence ∧ w.extractLsb' 12 3 = 0 ∨ i = .fenceI ∧ w.extractLsb' 12 3 = 1)))

/-- R29, R37: a word of an illegal major opcode, or whose low bits are not 11, decodes to nothing, whatever the rest of it
holds. -/
def Obligations.IllegalMajorOpcodes : Prop :=
  ∀ w : Code, (w.extractLsb' 0 2 ≠ 3 ∨ w.extractLsb' 2 3 = 7 ∨
    w.extractLsb' 0 7 ∈ [0x2F, 0x57, 0x6B, 0x77, 0x1F, 0x3F, 0x5F, 0x7F]) → decode w = none

/-- R59, R62, R215: a load from the slot's own slice completes at once with the bytes of memory, little-endian. -/
def Sys2Proof.Claims.ownSliceLoads : Prop :=
  ∀ (rd rs1 : Reg) (imm : BitVec 12) (s : State) (key : Nat),
    (∀ p ∈ loadOps, s.OwnSlice (addr s rs1 imm) p.2.1 key → ∃ t, exec (p.1 rd rs1 imm) s = .next t ∧
      s.Completes t (s.me.setX rd.toNat (p.2.2.2 (memRead s.mem key p.2.1))) (s.me.pc + 4)) ∧
    (s.OwnSlice (addr s rs1 imm) 4 key → ∃ t, exec (.flw rd rs1 imm) s = .next t ∧
      s.Completes t (s.me.setF rd.toNat (BitVec.ofNat 32 (memRead s.mem key 4))) (s.me.pc + 4))

/-- R30, R217, R240, R285: a load whose home is not the own slice, and that moves no ember, is sent to its home, or to a replica of
the field, and is outstanding; the slot waits, and nothing but traffic happens. -/
def Sys2Proof.Claims.farLoads : Prop :=
  ∀ (rd rs1 : Reg) (imm : BitVec 12) (s : State) (key : Nat) (tl : Option TlbEntry),
    let va := addr s rs1 imm
    let asks (i : Instr) (n : Nat) (sx isF : Bool) : Prop :=
      s.me.rowsQueued = false → s.access s.cur .load va n = .ok key tl → s.attracts key tl = false →
      s.ownSlice key = false → s.me.loads < 63 → s.storesHeld s.cur = false →
      ∃ t, exec i s = .next t ∧ s.OnlyTraffic t s.cur ∧ s.Waits t .memory ∧
        let place := readPlace s tl key
        s.Sent t .farLoadAtHome
          { requestTo s va place.1 with
            size := n, rd := rd.toNat, isF := isF, sext := sx, ro := readOnly tl, served := place.2 } ∧
        t.me.outs = s.me.outs ++ [⟨s.nextId, false, keyCore place.1, none, false, none⟩]
    (∀ p ∈ loadOps, asks (p.1 rd rs1 imm) p.2.1 p.2.2.1 false) ∧ asks (.flw rd rs1 imm) 4 false true

/-- R217, R219, R220, R243, R246, R296: the home of a scalar load takes the value of memory as the request arrives, or the cause of
its refusal, and sends the reply; a request for storage that is being zeroed, or that an earlier store of the ember must come before,
waits. Neither memory nor a slot changes. -/
def Sys2Proof.Claims.loadAtHome : Prop :=
  ∀ (id : Nat) (f : Flight) (s : State), s.flight? id = some f → f.op = 0 →
    ∃ t, exec (.farLoadAtHome id) s = .next t ∧
      (s.waitsZero f = true → t.flight? id = some f) ∧
      (s.waitsZero f = false → ∃ r, t.flight? id = some { f with
        next := .loadReply id, relayTo := r, data := BitVec.ofNat 1024 (memRead s.mem f.key f.size), tval := f.va,
        cause := if s.ownerOk f.key f.owner f.ro then if (s.badWord f.key f.size).isSome then 0x0F else 0 else 0x10 }) ∧
      t.mem = s.mem ∧ t.tags = s.tags ∧ ∀ k, t.slot k = s.slot k

/-- R30, R217: the reply of a scalar load writes rd and completes the instruction; a refusal is a precise trap, which the slot
takes at its next issue cycle. -/
def Sys2Proof.Claims.loadReplies : Prop :=
  ∀ (id : Nat) (f : Flight) (s : State), s.flight? id = some f → f.op = 0 → f.ember ≠ 0 → f.dead = false →
    (s.slot f.slot).ember = f.ember → ∃ t, exec (.loadReply id) s = .next t ∧ t.flight? id = none ∧ t.mem = s.mem ∧
      (t.slot f.slot).outs = (s.slot f.slot).outs.filter (fun o => o.id != id) ∧
      (f.cause = 0 → (t.slot f.slot).pc = (s.slot f.slot).pc + 4 ∧
        (t.slot f.slot).arch = (if f.isF then (s.slot f.slot).setF f.rd (f.data.setWidth 32) else
          (s.slot f.slot).setX f.rd (loadValue f.data.toNat f.size f.sext)).arch) ∧
      (f.cause ≠ 0 → (t.slot f.slot).arch = (s.slot f.slot).arch ∧ (t.slot f.slot).pc = (s.slot f.slot).pc ∧
        (t.slot f.slot).trapNow = some (f.cause, f.tval))

/-- R59, R62, R204, R246: a store to the slot's own slice, with no load outstanding, writes its bytes and no other and
completes; no register changes. Where nothing watches a word of that home, the words touched become full. -/
def Sys2Proof.Claims.ownSliceStores : Prop :=
  ∀ p ∈ storeOps, ∀ (rs1 rs2 : Reg) (imm : BitVec 12) (s : State) (key : Nat),
    s.OwnSlice (addr s rs1 imm) p.2.1 key → s.me.loadIds = [] → ∃ t, exec (p.1 rs1 rs2 imm) s = .next t ∧
      stored s.mem t.mem key p.2.1 (p.2.2 s rs2) ∧ t.me.pc = s.me.pc + 4 ∧ (∀ k, (t.slot k).arch = (s.slot k).arch) ∧
      ((∀ h, (s.home h).watch = []) → ∀ a, t.tag a = if a / 8 = key / 8 then 8 ||| s.tag a else s.tag a)

/-- R59, R62, R204, R215, R246: loads and stores at the own slice. -/
def Obligations.OwnSliceAccesses : Prop := ownSliceLoads ∧ ownSliceStores

/-- R30, R217, R285: any other store that moves no ember is sent to its home, or waits at its core for earlier loads (R246),
and completes; memory does not change yet. -/
def Sys2Proof.Claims.farStores : Prop :=
  ∀ p ∈ storeOps, ∀ (rs1 rs2 : Reg) (imm : BitVec 12) (s : State) (key : Nat) (tl : Option TlbEntry),
    s.me.rowsQueued = false → s.access s.cur .store (addr s rs1 imm) p.2.1 = .ok key tl → s.attracts key tl = false →
    s.ownSlice key = false → s.me.stores < 63 → ∃ t, exec (p.1 rs1 rs2 imm) s = .next t ∧ s.OnlyTraffic t s.cur ∧
      s.Sent t .farStoreAtHome { requestTo s (addr s rs1 imm) key with size := p.2.1, data := BitVec.ofNat 1024 (p.2.2 s rs2) } ∧
      t.me.outs = s.me.outs ++ [⟨s.nextId, true, keyCore key, none, false, none⟩] ∧ t.me.arch = s.me.arch ∧ t.me.pc = s.me.pc + 4

/-- R30, R217, R246, R285: loads and stores at another home.
Readings and choices of the model that clauses rest on: logs 8, 29. -/
def Obligations.FarAccesses : Prop := farLoads ∧ farStores

/-- R204, R217, R219, R220, R245, R246, R296: the home performs a plain store as it arrives: its bytes and no other are written, or none
where the store is refused; the acknowledgement carries the cause, and a store of several words to the slot's own slice, which needs
none, is over, with a report where it was refused. A store that lies in one 8-byte word is performed whole; of a longer one
the model performs some words first and the rest in a later event of the same clk (log 57). -/
def Sys2Proof.Claims.storeAtHome : Prop :=
  ∀ (id : Nat) (f : Flight) (s : State), s.flight? id = some f → f.part ≤ f.size →
    let c := if !s.ownerOk f.key f.owner false then 0x10 else if s.partBad f.key f.size then 0x0F else 0
    ∃ t, exec (.farStoreAtHome id) s = .next t ∧ (∀ k, (t.slot k).arch = (s.slot k).arch ∧ (t.slot k).pc = (s.slot k).pc) ∧
      (s.waitsZero f = true → t.flight? id = some f ∧ t.mem = s.mem ∧ t.tags = s.tags) ∧
      (s.waitsZero f = false → ∃ n,
        (c ≠ 0 → t.mem = s.mem ∧ t.tags = s.tags) ∧
        (c = 0 → stored s.mem t.mem (f.key + f.part) n (f.data.toNat / 2 ^ (8 * f.part)) ∧ f.part + n ≤ f.size ∧
          (f.key % 8 + f.size ≤ 8 ∨ f.part ≠ 0 → f.part + n = f.size)) ∧
        (c ≠ 0 ∨ f.part + n = f.size →
          (f.near = false → ∃ g, t.flight? id = some g ∧ g.slot = f.slot ∧ g.ember = f.ember ∧ g.next = .acknowledgement id ∧ g.cause = c) ∧
          (f.near = true → f.op = opPeer → t.flight? id = none ∧ t.module.peerOut =
            s.module.peerOut ++ [(f.aux, none, [2, 0, s.module.devnum.setWidth 64, BitVec.ofNat 64 f.key], 0)]) ∧
          (f.near = true → f.op ≠ opPeer → t.flight? id = none ∧
            (c ≠ 0 → ∃ v, (8 * s.now + 1, .impreciseReport f.slot f.ember c v) ∈ t.agenda ∧ (c = 0x10 → v = f.va)))) ∧
        (c = 0 → f.part + n < f.size → t.flight? id = some { f with part := f.part + n } ∧
          ∃ r, (8 * s.now + r, .farStoreAtHome id) ∈ t.agenda))

/-- R217, R243, R245: a home takes the words of a row, a gather, a block of mantissas, a block of words or a window, in order, all of them
or first some and the rest in a later event of the same clk (log 57; an 8-byte word is not divided), and then replies with them, or with
the first fault that they meet. Neither memory nor a slot changes. -/
def Sys2Proof.Claims.wordsAtHome : Prop :=
  ∀ (id : Nat) (f : Flight) (s : State), s.flight? id = some f → f.op ≠ opScalar → f.op ≠ opTag →
    let n := f.words.1
    let left := f.words.2.drop f.took.length
    let taken (j : Nat) : List Word := f.took ++ (left.take j).map fun a => BitVec.ofNat 64 (memRead s.mem a n)
    ∃ t, exec (.farLoadAtHome id) s = .next t ∧ t.mem = s.mem ∧ t.tags = s.tags ∧ (∀ k, t.slot k = s.slot k) ∧
      (s.waitsZero f = true → t.flight? id = some f) ∧
      (s.waitsZero f = false → ∃ j ≤ left.length, (f.took ≠ [] → j = left.length) ∧
        (j < left.length → 0 < j ∧ left.getD (j - 1) 0 / 8 ≠ left.getD j 0 / 8 ∧ t.flight? id = some { f with took := taken j } ∧
          ∃ r, (8 * s.now + r, .farLoadAtHome id) ∈ t.agenda) ∧
        (j = left.length → ∃ g, t.flight? id = some g ∧ g.next = .loadReply id ∧ g.slot = f.slot ∧ g.ember = f.ember ∧ g.op = f.op ∧
          g.rd = f.rd ∧ g.aux = f.aux ∧
          ((∀ a ∈ f.words.2, s.ownerOk a f.owner f.ro = true ∧ s.badWord a n = none) → g.cause = 0 ∧ g.args = taken j ∧
            g.data = BitVec.ofNat 1024 ((taken j).foldr (fun w m => w.toNat + 2 ^ 64 * m) 0)) ∧
          ((∃ a ∈ f.words.2, s.ownerOk a f.owner f.ro = false) → g.cause = 0x10) ∧
          ((∀ a ∈ f.words.2, s.ownerOk a f.owner f.ro = true) → (∃ a ∈ f.words.2, s.badWord a n ≠ none) → g.cause = 0x0F)))

/-- R204, R217, R219, R220, R243, R245, R246, R296: what a home does with a load and a store.
Readings and choices of the model that clauses rest on: logs 8, 57. -/
def Obligations.AccessesAtHome : Prop := loadAtHome ∧ wordsAtHome ∧ storeAtHome

/-- R30, R285, R290: an acknowledgement takes its store or message off the slot's count and changes no register; a refusal is
reported to the slot imprecisely, or, where its ember has died since, recorded. -/
def Sys2Proof.Claims.acknowledged : Prop :=
  ∀ (id : Nat) (f : Flight) (s : State), s.flight? id = some f → f.ember ≠ 0 → (s.slot f.slot).ember = f.ember →
    (s.slot f.slot).block = none → ∃ t, exec (.acknowledgement id) s = .next t ∧ t.flight? id = none ∧ t.mem = s.mem ∧
      (∀ k, (t.slot k).arch = (s.slot k).arch ∧ (t.slot k).pc = (s.slot k).pc) ∧
      (f.dead = false → (t.slot f.slot).outs = (s.slot f.slot).outs.filter (fun o => o.id != id) ∧
        (f.cause ≠ 0 → (8 * s.now + 1, .impreciseReport f.slot f.ember f.cause f.tval) ∈ t.agenda)) ∧
      (f.dead = true → (t.slot f.slot).outs = (s.slot f.slot).outs ∧ (f.cause ≠ 0 → recorded s t (slotField f.slot) 14))

/-- R60, R235, R150, R286: a fence completes once no access of the slot to a home in its scope is outstanding (and for `fnc.s`
no copy), and `waitc` once the four counts are low enough; until then the slot waits. Neither changes a register or memory;
FENCE.I discards the words fetched ahead.
Readings and choices of the model that clauses rest on: log 9; log 70 (a limit of 7 is a limit). -/
def Obligations.FencesWait : Prop :=
  ∀ (s : State),
    (∀ p ∈ fenceOps, s.me.rowsQueued = false → ∃ t, exec p.1 s = .next t ∧ s.OnlyTraffic t s.cur ∧ t.me.arch = s.me.arch ∧
      let waits := s.me.outs.any (fun o => inScope p.2.1 (slotCore s.cur) o.home) || (p.2.2 && s.me.copies != 0)
      t.me.pc = (if waits then s.me.pc else s.me.pc + 4) ∧ (p.1 = .fenceI → waits = false → t.me.ahead = [])) ∧
    (∀ l st c m : BitVec 3, ∃ t, exec (.waitc l st c m) s = .next t ∧ s.OnlyTraffic t s.cur ∧ t.me.arch = s.me.arch ∧
      t.me.pc = if s.me.loads ≤ l.toNat ∧ s.me.stores ≤ st.toNat ∧ s.me.copies ≤ c.toNat ∧ s.me.tiles ≤ m.toNat
        then s.me.pc + 4 else s.me.pc)

/-- R26 to R28, R32, R207: the checks of an access, in their order: a non-canonical address, a misaligned one, one of the
store space that names no slice, and an owner that the ASID's entry does not name, each with its cause and the address. -/
def Sys2Proof.Claims.accessChecks : Prop :=
  ∀ (s : State) (k : Nat) (va : Word) (n : Nat), ∀ acc ∈ [Acc.load, .store, .versionedLoad, .versionedStore, .both],
    let low := va.extractLsb' 55 9 = 0
    let top := va.extractLsb' 52 12 = BitVec.allOnes 12
    let entry := (Tab.get s.asids (s.slot k).asid.toNat 0).toNat
    (¬ low → ¬ top → s.access k acc va n = .trap 0x14 va) ∧
    (low ∨ top → va.toNat % n ≠ 0 → s.access k acc va n = .trap 0x03 va) ∧
    (top → va.toNat % n = 0 → s.storeKey va = none → s.access k acc va n = .trap 0x13 va) ∧
    (low → ¬ top → va.toNat % n = 0 → (entry % 2 = 0 ∨ entry / 2 ^ 56 ≠ (s.slot k).owner.toNat) →
      s.access k acc va n = .trap 0x10 va)

/-- R211, R213, R224, R32 (steps 11 to 14): the checks of a cached leaf, in their order: U at user level, the permission, a
peer page, whose peer-map entry must be listed, readable and valid (R346), and a store to a sealable page or an append or `seal` to
another. A leaf that passes all gives the key. Where the walker found no leaf, the access takes its cause. -/
def Sys2Proof.Claims.leafChecks : Prop :=
  ∀ (s : State) (k : Nat) (va : Word) (n : Nat) (acc : Acc),
    let v := s.slot k
    let entry := (Tab.get s.asids v.asid.toNat 0).toNat
    let hits (t : TlbEntry) : Bool := t.hits v.asid.toNat va && !t.bad
    va.extractLsb' 55 9 = 0 → va.extractLsb' 52 12 ≠ BitVec.allOnes 12 → va.toNat % n = 0 →
    entry % 2 = 1 → entry / 2 ^ 56 = v.owner.toNat →
    (∀ t, (s.core (slotCore k)).tlb.find? hits = some t →
      let e := t.leaf
      let stores := acc = .store ∨ acc = .versionedStore ∨ acc = .both
      let allowed := ((acc = .load ∨ acc = .versionedLoad ∨ acc = .roam ∨ acc = .both) → e.getLsbD 1 = true) ∧
        ((stores ∨ acc = .append ∨ acc = .seal) → e.getLsbD 2 = true) ∧ (acc = .fetch → e.getLsbD 3 = true)
      let cls := (e.extractLsb' 5 2).toNat
      let place := s.peerEntry e
      ((v.level = .user ∧ e.getLsbD 4 = false) ∨ ¬ allowed → s.access k acc va n = .trap 0x05 va) ∧
      ((v.level = .user → e.getLsbD 4 = true) → allowed →
        (cls = 3 → s.access k acc va n =
          if 65536 ≤ leafFrame e / 2 ^ 16 then .trap 0x05 va
          else if (s.badWord place 16).isSome then .trap 0x0F va
          else if (memRead s.mem place 8).testBit 63 then .trap 0x07 va else .trap 0x05 va) ∧
        (cls = 1 → stores → s.access k acc va n = .trap 0x08 va) ∧
        (cls ≠ 3 → cls ≠ 1 → acc = .append ∨ acc = .seal → s.access k acc va n = .trap 0x05 va) ∧
        (cls ≠ 3 → ¬ (cls = 1 ∧ stores) → ¬ (cls ≠ 1 ∧ (acc = .append ∨ acc = .seal)) →
          s.access k acc va n = .ok (t.key va) (some t)))) ∧
    ((s.core (slotCore k)).tlb.find? hits = none → ∀ a, v.walk = some a → a.entry = none → a.asid = v.asid.toNat →
      a.va.toNat / 2 ^ 16 = va.toNat / 2 ^ 16 → s.access k acc va n = .trap a.cause va)

/-- R30, R32 (steps 16 and 17), R219, R296: at the own slice an owner violation comes before an uncorrectable error; each is a
precise trap of a load, with the address of the word in error, and of a store an imprecise report behind the completed
instruction, which has written nothing. What other homes answer in this order is `AccessesAtHome`, and steps 15 and 18 are in
`EmbersSuspend` (`roam`) and `AppendsAtTail`. -/
def Sys2Proof.Claims.storageFaults : Prop :=
  ∀ (r rs1 : Reg) (imm : BitVec 12) (s : State) (key : Nat), s.me.rowsQueued = false → s.ownSlice key = true →
    let va := addr s rs1 imm
    (∀ p ∈ loadOps, s.access s.cur .load va p.2.1 = .ok key none →
      (s.ownerOk key s.me.owner false = false →
        ∃ t, exec (p.1 r rs1 imm) s = .next t ∧ s.Traps t s.cur false 0x10 va s.me.pc) ∧
      (s.ownerOk key s.me.owner false = true → s.zeroing key = false → ∀ w, s.badWord key p.2.1 = some w →
        ∃ t, exec (p.1 r rs1 imm) s = .next t ∧ s.Traps t s.cur false 0x0F (va + BitVec.ofNat 64 (w - key)) s.me.pc)) ∧
    (∀ p ∈ storeOps, s.access s.cur .store va p.2.1 = .ok key none → s.me.loadIds = [] →
      let refused (c : Nat) : Prop := ∃ t, exec (p.1 rs1 r imm) s = .next t ∧ t.me.arch = s.me.arch ∧ t.me.pc = s.me.pc + 4 ∧
        t.mem = s.mem ∧ t.tags = s.tags ∧ (8 * s.now + 1, .impreciseReport s.cur s.me.ember c va) ∈ t.agenda
      (s.ownerOk key s.me.owner false = false → refused 0x10) ∧
      (s.ownerOk key s.me.owner false = true → s.zeroing key = false → s.partBad key p.2.1 = true → refused 0x0F))

/-- R30, R32: a load or store whose access takes a trap has no other effect. -/
def Sys2Proof.Claims.accessTraps : Prop :=
  ∀ (r rs1 : Reg) (imm : BitVec 12) (s : State) (c : Nat) (a : Word), s.me.rowsQueued = false →
    (∀ p ∈ loadOps, s.access s.cur .load (addr s rs1 imm) p.2.1 = .trap c a →
      ∃ t, exec (p.1 r rs1 imm) s = .next t ∧ s.Traps t s.cur false c a s.me.pc) ∧
    (s.access s.cur .load (addr s rs1 imm) 4 = .trap c a → ∃ t, exec (.flw r rs1 imm) s = .next t ∧ s.Traps t s.cur false c a s.me.pc) ∧
    (∀ p ∈ storeOps, s.access s.cur .store (addr s rs1 imm) p.2.1 = .trap c a →
      ∃ t, exec (p.1 rs1 r imm) s = .next t ∧ s.Traps t s.cur false c a s.me.pc)

/-- R26 to R28, R30, R32, R207, R211, R219, R224, R296: the checks of an access and of its storage, steps 7 to 14, 16 and 17, and the
trap that each leads to. -/
def Obligations.AccessFaults : Prop := accessChecks ∧ leafChecks ∧ storageFaults ∧ accessTraps

/-- R25, R31: at supervisor level the instructions that suspend an ember, own a deadline, publish an answer or take part in a
round are illegal, and at user level `xret`, `tlbinv`, `vsave` and `vrest` are. -/
def Obligations.LevelRules : Prop :=
  ∀ (rd a b : Reg) (off : BitVec 9) (g : BitVec 3) (s : State),
    (s.me.level = .supervisor → ∀ i ∈ userInstrs rd a b off g,
      ∃ t, exec i s = .next t ∧ s.Traps t s.cur false 0x01 (s.me.word.setWidth 64) s.me.pc) ∧
    (s.me.level = .user → ∀ i ∈ supervisorInstrs a b,
      ∃ t, exec i s = .next t ∧ s.Traps t s.cur false 0x01 (s.me.word.setWidth 64) s.me.pc)

/-- R132: `spawn` takes the first free record of the region for a ready ember, which enters the core's queue (entry bit 0 set)
or the cluster's, and answers its ID; with none free it answers 0. A non-canonical or misaligned entry is a trap. -/
def Obligations.SpawnCreates : Prop :=
  ∀ (rd rs1 rs2 : Reg) (s : State), s.me.level = .user →
    let e := s.x rs1
    let c := slotCore s.cur
    (e.toNat / 2 ^ 55 ≠ 0 → ∃ t, exec (.spawn rd rs1 rs2) s = .next t ∧ s.Traps t s.cur false 0x14 e s.me.pc) ∧
    (e.toNat / 2 ^ 55 = 0 → e.getLsbD 1 = true → ∃ t, exec (.spawn rd rs1 rs2) s = .next t ∧ s.Traps t s.cur false 0x02 e s.me.pc) ∧
    (e.toNat / 2 ^ 55 = 0 → e.getLsbD 1 = false → released s.me →
      (∀ r g a rest, s.regionOf c = some (r, g) → g.records = a :: rest → ∃ t, exec (.spawn rd rs1 rs2) s = .next t ∧
        let id := a.toNat / 64
        t.me.arch = (s.me.setX rd.toNat (BitVec.ofNat 64 id)).arch ∧ t.me.pc = s.me.pc + 4 ∧
        (Tab.find? t.regions r).map (·.records) = some rest ∧ (t.info id).core = c ∧ (t.info id).region = r ∧
        if e.getLsbD 0 then (t.core c).ready = (s.core c).ready ++ [(id, s.now)]
        else (t.cluster (slotCluster s.cur)).ready = (s.cluster (slotCluster s.cur)).ready ++ [(id, s.now)]) ∧
      ((∀ p, s.regionOf c = some p → p.2.records = []) → ∃ t, exec (.spawn rd rs1 rs2) s = .next t ∧
        s.Completes t (s.me.setX rd.toNat 0) (s.me.pc + 4)))

/-- R133 to R136, R140: `exit` with nothing left to wait for stops its deadline counter and frees its slot and its record; `yield` and `park` of an ember that is
not bound suspend it, the one behind itself, the other until a doorbell event; `roam` moves it to the core of the address.
Readings and choices of the model that clauses rest on: logs 9, 20, 27. -/
def Obligations.EmbersSuspend : Prop :=
  ∀ (rs1 : Reg) (s : State), s.me.level = .user →
    let c := slotCore s.cur
    let e := s.me.ember
    (s.me.stores = 0 → s.me.copies = 0 → s.me.tiles = 0 → s.me.holdsExit = false → s.me.imp = none → s.me.pend = [] →
      s.me.sig = none →
      ∃ t, exec .exit s = .next t ∧ t.me.mode = .vacant ∧ t.me.ember = 0 ∧ t.me.due = none ∧ t.me.accHeld = false ∧
        t.deadlineOf e = none ∧
        Tab.find? t.embers e = none ∧ ∀ g, Tab.find? s.regions (s.info e).region = some g →
          (Tab.find? t.regions (s.info e).region).map (·.records) = some (g.records ++ [BitVec.ofNat 64 (64 * e)])) ∧
    (s.me.bound = true → ∃ t, exec .yield s = .next t ∧ s.Completes t s.me (s.me.pc + 4)) ∧
    (s.me.bound = false → plainEnd s.me → ∃ t, exec .yield s = .next t ∧ t.me.arch = s.me.arch ∧ t.me.pc = s.me.pc + 4 ∧
      t.me.leaving = true ∧ t.me.due = none ∧ t.mem = s.mem) ∧
    (s.me.park = none → ∃ t, exec .park s = .next t ∧ t.me.arch = s.me.arch ∧ t.me.pc = s.me.pc ∧ t.me.due = none ∧
      (∃ m, t.me.park = some ⟨.bell, s.now, s.me.parklimit.toNat, m⟩) ∧
      (s.me.bound = false → (s.core c).bells.length < 32 → t.me.leaving = true ∧ (t.core c).bells = (s.core c).bells ++ [e])) ∧
    (∀ key tl, s.access s.cur .roam (s.x rs1) 1 = .ok key tl →
      let d := keyCore key
      let stays := s.me.bound = true ∨ s.me.livemap.toNat = fullMap ∨
        (d ≠ c ∧ ((s.core d).region ≠ (s.core c).region ∨ (s.core d).region = none))
      let denied := inStore (s.x rs1) = true ∧ s.ownerOk key s.me.owner false = false
      (stays → ∃ t, exec (.roam rs1) s = .next t ∧ (s.touch s.cur tl).Traps t s.cur false 0x06 (s.x rs1) s.me.pc) ∧
      (¬ stays → denied → ∃ t, exec (.roam rs1) s = .next t ∧ (s.touch s.cur tl).Traps t s.cur false 0x10 (s.x rs1) s.me.pc) ∧
      (¬ stays → ¬ denied → d = c → ∃ t, exec (.roam rs1) s = .next t ∧ s.OnlyTraffic t s.cur ∧ t.me.arch = s.me.arch ∧
        t.me.pc = s.me.pc + 4) ∧
      (¬ stays → ¬ denied → d ≠ c → s.me.outs = [] → plainEnd s.me → ∃ t, exec (.roam rs1) s = .next t ∧ s.OnlyTraffic t s.cur ∧
        t.me.arch = s.me.arch ∧ t.me.pc = s.me.pc + 4 ∧ t.me.got = some (BitVec.ofNat 64 d) ∧ t.me.due = none ∧
        (8 * s.now + 1, .attractionMove s.cur) ∈ t.agenda))

/-- R137 to R139: `wfw` ends the item and lists the slot at its cluster's dispenser; `dput`, its words read, refuses a malformed
item with 1 and an item without room with 2, and sends any other; `dlarm` arms one counter of the ember, and `dldone` stops it.
Readings and choices of the model that clauses rest on: logs 9, 18. -/
def Obligations.WorkOpsComplete : Prop :=
  ∀ (rd rs1 rs2 : Reg) (ws : List Word) (s : State),
    let c := slotCore s.cur
    (s.me.level = .user → released s.me → s.me.park = none → ∃ t, exec .wfw s = .next t ∧ t.me.arch = s.me.arch ∧ t.me.pc = s.me.pc ∧
      t.me.due = none ∧ t.me.wait = .parked ∧ t.me.item = none ∧ t.me.park = some ⟨.work, s.now, s.me.parklimit.toNat, false⟩ ∧
      t.deadlineOf s.me.ember = none ∧
      (t.cluster (slotCluster s.cur)).disp.waiting = (s.cluster (slotCluster s.cur)).disp.waiting.filter (· != s.cur) ++ [s.cur]) ∧
    (hasWords s (s.x rs1) 5 ws →
      let k := (s.x rs2).toNat
      let cores := ((s.regionOf c).map fun p => p.2.cores).getD []
      let bad := k / 2 ^ 34 ≠ 0 ∨ bits k 8 8 ≠ 0 ∨ bits k 32 2 = 3 ∨ (bits k 32 2 ≠ 0 ∧ cores.length ≤ bits k 16 16) ∨
        (ws.headD 0).toNat % 4 ≠ 0
      (bad → ∃ t, exec (.dput rd rs1 rs2) s = .next t ∧ s.Completes t (s.me.setX rd.toNat 1) (s.me.pc + 4)) ∧
      (¬ bad → s.me.outs = [] → (s.cluster (coreCluster c)).poolEmpty = true →
        ∃ t, exec (.dput rd rs1 rs2) s = .next t ∧ s.Completes t (s.me.setX rd.toNat 2) (s.me.pc + 4)) ∧
      (¬ bad → s.me.outs = [] → (s.cluster (coreCluster c)).poolEmpty = false → unfenced s →
        ∃ t f, exec (.dput rd rs1 rs2) s = .next t ∧ t.me.arch = (s.me.setX rd.toNat 0).arch ∧ t.me.pc = s.me.pc + 4 ∧ t.mem = s.mem ∧
          t.flight? s.nextId = some f ∧ f.next = .dispenserItemArrival s.nextId ∧ f.args = ws ∧ f.op = k % 256 ∧
          (bits k 32 2 ≠ 0 → some f.aux = (cores[bits k 16 16]?).map coreCluster))) ∧
    (s.me.level = .user →
      let others := (s.field (slotField s.cur)).deadlines.filter fun d => d.ember != s.me.ember
      let b := min (s.x rs1).toNat (2 ^ 40 - 1)
      (16384 ≤ others.length → ∃ t, exec (.dlarm rs1) s = .next t ∧ s.Traps t s.cur false 0x0C (s.me.stage.setWidth 64) s.me.pc) ∧
      (others.length < 16384 → ∃ t, exec (.dlarm rs1) s = .next t ∧ t.me.arch = s.me.arch ∧ t.me.pc = s.me.pc + 4 ∧ t.mem = s.mem ∧
        t.deadlineOf s.me.ember = some (slotField s.cur, ⟨s.me.ember, s.me.stage, b, s.now + b, ((s.core c).region).getD 0⟩) ∧
        (8 * (s.now + b) + 5, .deadlineExpiry s.me.ember s.now) ∈ t.agenda) ∧
      (∃ t, exec .dldone s = .next t ∧ t.me.arch = s.me.arch ∧ t.me.pc = s.me.pc + 4 ∧ t.mem = s.mem ∧ t.deadlineOf s.me.ember = none))

/-- R131, R141 to R144: `send` traps where its descriptor names no enabled core or one of another owner, and else sends 8 bytes
and completes; `recv` takes the message that is its own or else the first free one, or waits; `rpoll` answers what stands in
the queue and changes nothing but rd.
Readings and choices of the model that clauses rest on: logs 9, 30. -/
def Obligations.MessageOpsComplete : Prop :=
  ∀ (rd rs1 rs2 : Reg) (s : State),
    let d := s.x rs1
    let c := slotCore s.cur
    let q := bits d.toNat 36 3
    (s.me.rowsQueued = false →
      (∀ cause, s.sendCheck s.me.owner d = .error cause → ∃ t, exec (.send rs1 rs2) s = .next t ∧ s.Traps t s.cur false cause d s.me.pc) ∧
      (∀ dst, s.sendCheck s.me.owner d = .ok dst → s.me.stores < 63 → ∃ t via qr, exec (.send rs1 rs2) s = .next t ∧ s.OnlyTraffic t s.cur ∧
        s.Sent t .messageArrival { next := .loadReply 0, slot := s.cur, ember := s.me.ember, src := c, dst := dst, op := q, size := 8,
                                   data := (s.x rs2).setWidth 1024, via := via } ∧
        t.me.arch = s.me.arch ∧ t.me.pc = s.me.pc + 4 ∧
        t.me.outs = s.me.outs ++ [⟨s.nextId, true, dst, some qr, false, none⟩])) ∧
    (s.me.level = .user →
      (∀ m r', (s.queue c q).take s.me.ember = some (m, r') → ∃ t, exec (.recv rd rs1) s = .next t ∧
        t.me.arch = (s.me.setX rd.toNat (m.data.setWidth 64)).arch ∧ t.me.pc = s.me.pc + 4 ∧ t.queue c q = r' ∧ t.mem = s.mem) ∧
      ((s.queue c q).take s.me.ember = none → ∃ t, exec (.recv rd rs1) s = .next t ∧
        t.me.arch = s.me.arch ∧ t.me.pc = s.me.pc ∧ t.me.due = none ∧ t.me.park.isSome)) ∧
    (∃ t, exec (.rpoll rd rs1) s = .next t ∧
      let free := ((s.queue c q).hw ++ (s.queue c q).ring).filter (·.dest == 0)
      s.Completes t (s.me.setX rd.toNat (match free.head? with
        | none => 0
        | some m => BitVec.ofNat 64 (m.sx * 2 ^ 48 + m.sy * 2 ^ 40 + (if m.row then 2 ^ 32 else 0) + min free.length (2 ^ 32 - 1))))
        (s.me.pc + 4))

/-- R109 to R112, R216, R253: a vacant slot takes the head of its core's queue and restores it from its record; an ember that
suspends leaves its slot vacant; a move sends it on its way to the target core, whose queue it enters; a restart makes a stopped
ember ready. A record in storage that is being zeroed is waited for (R220), and an ember whose record cannot be read is killed and
leaves its slot vacant (R296, R299; log 73). -/
def Sys2Proof.Claims.emberEvents : Prop :=
  ∀ (s : State) (k e : Nat), k < nSlots →
    let c := slotCore k
    let word1 := s.hwRead (s.emberAsid e) (BitVec.ofNat 64 (64 * e + 8)) 8
    (∀ a rest, (s.slot k).mode = .vacant → s.module.boot.enabled c = true → (s.slot k).vacated ≠ some s.now →
      s.frozenAt (coreField c) = false → (s.core c).ready = (e, a) :: rest → (s.cluster (coreCluster c)).ready = [] → bits word1 58 4 < 9 → word1 / 2 ^ 62 < 2 →
      ∃ t, exec (.emberTakeup k) s = .next t ∧ (t.slot k).mode = .active ∧ (t.slot k).level = .user ∧ (t.slot k).ember = e ∧
        (t.slot k).due = none ∧ (t.core c).ready = rest ∧ ∃ n, s.now ≤ n ∧ (8 * n + 1, .emberRestore k) ∈ t.agenda) ∧
    (let v := s.slot k
     let a := BitVec.ofNat 64 (64 * v.ember)
     v.mode = .active → v.due = none → v.leaving = false → v.got = some 0 →
      (∀ key, s.hwReads v.asid a 64 = .at_ key → (s.info v.ember).park = none → s.hwRead v.asid (a + 8) 8 / 2 ^ 62 ≠ 1 →
        ∃ t, exec (.emberRestore k) s = .next t ∧ (t.slot k).due = some (s.nextIssue k (s.now + 1)) ∧
          (t.slot k).pc = BitVec.ofNat 64 (s.hwRead v.asid a 8 % 2 ^ 56) ∧ (t.slot k).stage = BitVec.ofNat 8 (s.hwRead v.asid a 8 / 2 ^ 56) ∧
          (t.slot k).frm = BitVec.ofNat 3 (bits (s.hwRead v.asid (a + 8) 8) 43 3) ∧
          (t.slot k).livemap = BitVec.ofNat 36 (s.hwRead v.asid (a + 8) 8 % 2 ^ 36)) ∧
      (∀ key, s.hwReads v.asid a 64 = .wait key → exec (.emberRestore k) s = .next (s.holdZero key (.emberRestore k))) ∧
      (s.hwReads v.asid a 64 = .lost → ∃ t, exec (.emberRestore k) s = .next t ∧ (t.slot k).mode = .vacant ∧ (t.slot k).ember = 0 ∧
        Tab.find? t.embers v.ember = none)) ∧
    (let v := s.slot k
     v.leaving = true → v.ember ≠ 0 → v.trapNow = none → v.killReq = none → v.mode = .active → v.outs = [] → v.livemap.toNat ≠ fullMap →
      s.reportComing k v.ember = false → ∃ t, exec (.suspendWriteback k) s = .next t ∧ (t.slot k).mode = .vacant ∧ (t.slot k).ember = 0 ∧
        ∀ j, j ≠ k → (t.slot j).arch = (s.slot j).arch ∧ (t.slot j).pc = (s.slot j).pc) ∧
    (∀ dest, (s.slot k).got = some dest → (s.slot k).mode = .active → (s.slot k).outs = [] → (s.slot k).bound = false →
      (s.slot k).ember ≠ 0 → dest.toNat < nCores → unfenced s → ∃ t, exec (.attractionMove k) s = .next t ∧ (t.slot k).mode = .vacant ∧
        (t.slot k).ember = 0 ∧ ∃ n, s.now ≤ n ∧ (8 * n + 1, .migrationArrival dest.toNat (s.slot k).ember) ∈ t.agenda) ∧
    (∀ dest < nCores, bits word1 58 4 = stMigrating → ∃ t, exec (.migrationArrival dest e) s = .next t ∧ (t.info e).core = dest ∧
      (t.core dest).ready = (s.core dest).ready ++ [(e, s.now)]) ∧
    (s.slotOf e = none → bits word1 58 4 = stStopped → ∃ t, exec (.emberRestart e) s = .next t ∧ (t.info e).queued = true)

/-- R113 to R116, R138: an item that reaches an empty dispenser binds a queue to its stage; a hand-over gives the eligible item
to the waiting slot, with its arguments in x10 to x13 and its stage, at its entry or behind the `wfw`; a page that the kernel
adds extends the pool. -/
def Sys2Proof.Claims.dispenserEvents : Prop :=
  ∀ (s : State),
    (∀ (id : Nat) (f : Flight), s.flight? id = some f → (s.cluster f.aux).disp.queues = [] → s.ring f.aux = [] →
      (s.cluster f.aux).disp.held = [] → ∃ t w, exec (.dispenserItemArrival id) s = .next t ∧ t.flight? id = none ∧
        (t.cluster f.aux).disp.queues = [⟨w.stage.toNat, [w]⟩] ∧ w.stage = BitVec.ofNat 8 f.op ∧ w.entry = f.args.headD 0 ∧
        w.args = f.args.tail ∧ w.target = (if f.rd = 0 then none else some (f.rd - 1)) ∧
        (8 * s.now + 1, .dispenserHandover f.aux) ∈ t.agenda) ∧
    (∀ (cl k st : Nat) (w : WorkItem), cl < nClusters → s.frozenAt (clusterField cl) = false →
      (s.cluster cl).disp.queues = [⟨st, [w]⟩] → s.ring cl = [] → (s.cluster cl).disp.held = [] →
      (s.cluster cl).disp.waiting = [k] → (s.slot k).mode = .active → (∀ c ∈ w.target, slotCore k = c) →
      ∃ t, exec (.dispenserHandover cl) s = .next t ∧ (t.cluster cl).disp.queues = [] ∧ (t.cluster cl).disp.waiting = [] ∧
        (t.slot k).stage = w.stage ∧ (t.slot k).item = w.item ∧ (∀ i < 4, (t.slot k).xr (10 + i) = w.args.getD i 0) ∧
        (t.slot k).pc = if w.entry = 0 then (s.slot k).pc + 4 else w.entry) ∧
    (∀ (r : Nat) (page : Word) (g : Region), Tab.find? s.regions r = some g → (∀ cl ∈ g.clusters, (s.cluster cl).disp = {} ∧ s.ring cl = []) →
      ∃ t, exec (.poolExtension r page) s = .next t ∧ (Tab.find? t.regions r).map (·.pages) = some (g.pages + 1))

/-- R109 to R116, R138, R216, R220, R253, R296: embers and work items come to slots and leave them.
Readings and choices of the model that clauses rest on: logs 9, 18, 20, 23 (the PC of a record is extended with zeros), 73. -/
def Obligations.EmberAndItemEvents : Prop := emberEvents ∧ dispenserEvents

/-- R121: the ASID, the owner and the ring under which the expiry of d writes its record, and the words of the record: when the
counter reached zero, the ember, its slot (0 where it is in none) and the budget. -/
def Sys2Proof.Claims.expiryRing (s : State) (f : Nat) (d : Deadline) : BitVec 12 × BitVec 8 × Word × List Word :=
  let g := Tab.find? s.regions d.region
  let slot := s.slotOf d.ember
  ((slot.map fun k => (s.slot k).asid).getD (s.emberAsid d.ember), (g.map (·.owner)).getD 0,
    (g.map fun g => (Tab.get g.stages d.stage.toNat {}).evr).getD 0,
    [BitVec.ofNat 64 (d.ends - (s.field f).zero), BitVec.ofNat 64 d.ember, (slot.map coreloc).getD 0, BitVec.ofNat 64 d.budget])

/-- R121, R302: the expiry of a deadline that has been stopped or armed anew does nothing; one that has run out frees its entry, and a
frozen field keeps it for its restart; else a stage without events holds a trap of cause 0x0C for the ember, which takes it with
nothing else changed. Every expiry completes. -/
def Sys2Proof.Claims.deadlineExpires : Prop :=
  ∀ (s : State) (e armed : Nat),
    (s.deadlineOf e = none → exec (.deadlineExpiry e armed) s = .next s) ∧
    (∀ f d, s.deadlineOf e = some (f, d) →
      (d.ends ≠ armed + d.budget ∨ s.now < d.ends → exec (.deadlineExpiry e armed) s = .next s) ∧
      (d.ends = armed + d.budget → d.ends ≤ s.now →
        ((s.field f).frozen = true → ∃ t, exec (.deadlineExpiry e armed) s = .next t ∧ t.deadlineOf e = none ∧
          (t.field f).expired = (s.field f).expired ++ [d] ∧ t.mem = s.mem ∧ t.slots = s.slots) ∧
        ((s.field f).frozen = false → ∃ t, exec (.deadlineExpiry e armed) s = .next t ∧ t.deadlineOf e = none ∧
          (∀ k, (t.slot k).arch = (s.slot k).arch) ∧
          ((∀ g, Tab.find? s.regions d.region = some g → (Tab.get g.stages d.stage.toNat {}).event = false) →
            (∀ k, s.slotOf e = some k → (t.slot k).pend = (s.slot k).pend ++ [(0x0C, d.stage.setWidth 64)]) ∧
            (s.slotOf e = none → (t.info e).pend = (s.info e).pend ++ [(0x0C, d.stage.setWidth 64)])))))

/-- R121, R122: the expiry of a stage with events, outside a frozen field. The head of the ring, at its first word, counts the records
written, and its second word is the capacity, a power of two up to 2^20. Where the context may write the head, the capacity and the four
words of entry head mod capacity (which here follow one another in storage apart from the head, as those of one page or slice do), the
record is written there and the head becomes one more, full with generation 1, as a `vst` leaves it; no trap is held. Where one of these
words cannot be written, or the capacity is no such number, the trap of cause 0x0C is held instead. -/
def Sys2Proof.Claims.expiryRecords : Prop :=
  ∀ (s : State) (e armed f : Nat) (d : Deadline) (g : Region), s.deadlineOf e = some (f, d) → d.ends = armed + d.budget → d.ends ≤ s.now →
    d.ember = e → (s.field f).frozen = false → Tab.find? s.regions d.region = some g → (Tab.get g.stages d.stage.toNat {}).event = true →
    let (asid, owner, ring, ws) := expiryRing s f d
    let key (va : Word) : Option Nat := s.ringKey asid owner va
    let place (hd cw j : Nat) : Word := ring + 64 + BitVec.ofNat 64 (32 * (memRead s.mem hd 8 % memRead s.mem cw 8)) + BitVec.ofNat 64 (8 * j)
    let good (cw : Nat) : Prop := ∃ n ≤ 20, memRead s.mem cw 8 = 2 ^ n
    (∀ hd cw kd, key ring = some hd → key (ring + 8) = some cw → good cw → (∀ j < 4, key (place hd cw j) = some (kd + 8 * j)) →
      hd + 8 ≤ kd ∨ kd + 32 ≤ hd → hd % 8 = 0 → (∀ h, (s.home h).watch = []) → (s.core (keyCore hd)).bells = [] →
      ∃ t, exec (.deadlineExpiry e armed) s = .next t ∧ t.deadlineOf e = none ∧ (∀ k, (t.slot k).pend = (s.slot k).pend) ∧
        (t.info e).pend = (s.info e).pend ∧ t.tag hd = 1#1 ++ 1#3 ∧
        ∀ b, memGet t.mem b =
          if hd ≤ b ∧ b < hd + 8 then byteOf (memRead s.mem hd 8 + 1) (b - hd)
          else if kd ≤ b ∧ b < kd + 32 then byteOf (ws.getD ((b - kd) / 8) 0).toNat ((b - kd) % 8) else memGet s.mem b) ∧
    (key ring = none ∨ key (ring + 8) = none ∨
      (∃ hd cw, key ring = some hd ∧ key (ring + 8) = some cw ∧ (¬ good cw ∨ ∃ j < 4, key (place hd cw j) = none)) →
      ∃ t, exec (.deadlineExpiry e armed) s = .next t ∧ t.deadlineOf e = none ∧ (∀ k, (t.slot k).arch = (s.slot k).arch) ∧
        (∀ k, s.slotOf e = some k → (t.slot k).pend = (s.slot k).pend ++ [(0x0C, d.stage.setWidth 64)]) ∧
        (s.slotOf e = none → (t.info e).pend = (s.info e).pend ++ [(0x0C, d.stage.setWidth 64)]))

/-- R126, R288, R302: the check of a park that has ended, or whose condition is met, does nothing; a frozen field checks again 256 clk
later; else the park has reached its limit, and the cause and `trapval` of R288 are held as a trap of the ember. -/
def Sys2Proof.Claims.parkTimesOut : Prop :=
  ∀ (s : State) (e since : Nat),
    let p := match s.slotOf e with
      | some k => (s.slot k).park
      | none => (s.info e).park
    let f := match s.slotOf e with
      | some k => slotField k
      | none => coreField (s.info e).core
    ((∀ x, p = some x → x.since ≠ since ∨ x.met = true) → exec (.parkTimeout e since) s = .next s) ∧
    (∀ x, p = some x → x.since = since → x.met = false →
      ((s.field f).frozen = true → ∃ t, exec (.parkTimeout e since) s = .next t ∧
        t = { s with agenda := t.agenda } ∧ (8 * (s.now + 256) + 6, .parkTimeout e since) ∈ t.agenda) ∧
      ((s.field f).frozen = false → ∃ t, exec (.parkTimeout e since) s = .next t ∧ (∀ k, (t.slot k).arch = (s.slot k).arch) ∧
        (∀ k, s.slotOf e = some k → (t.slot k).pend = (s.slot k).pend ++ [x.kind.timeout]) ∧
        (s.slotOf e = none → (t.info e).pend = (s.info e).pend ++ [x.kind.timeout])))

/-- R120 to R122, R126, R302: what the expiry of a deadline, with and without events, and the check of a park do. -/
def Obligations.TimeoutEvents : Prop := deadlineExpires ∧ expiryRecords ∧ parkTimesOut

/-- R123 to R125, R142: every message that arrives enters its queue behind the others: the hardware queue while its ring is empty and it
fits, else the ring; the oldest waiter leaves the list and the message is its own; and it is acknowledged. A refill moves messages from
the ring in ring order, and never past the queue's 16 places. -/
def Obligations.MessageEvents : Prop :=
  ∀ (s : State),
    (∀ (id : Nat) (f : Flight), s.flight? id = some f →
      let r := s.queue f.dst f.op
      let m : Msg := { sx := coreX f.src, sy := coreY f.src, row := f.size == 128, data := f.data, dest := r.waiters.headD 0 }
      let fits := r.ring = [] ∧ r.used + m.places ≤ 16
      ∃ t g, exec (.messageArrival id) s = .next t ∧ t.flight? id = some g ∧ g.next = .acknowledgement id ∧ g.slot = f.slot ∧
        g.ember = f.ember ∧ (∀ k, (t.slot k).arch = (s.slot k).arch) ∧
        (fits → (t.queue f.dst f.op).hw = r.hw ++ [m] ∧ (t.queue f.dst f.op).ring = r.ring) ∧
        (¬ fits → (t.queue f.dst f.op).hw = r.hw ∧ (t.queue f.dst f.op).ring = r.ring ++ [m]) ∧
        (r.later = [] → (t.queue f.dst f.op).waiters = r.waiters.tail)) ∧
    (∀ c q, c < nCores → q < 8 → ∃ t, exec (.queueRefill c q) s = .next t ∧
      (t.queue c q).hw ++ (t.queue c q).ring = (s.queue c q).hw ++ (s.queue c q).ring ∧
      ((s.queue c q).used ≤ 16 → (t.queue c q).used ≤ 16) ∧ t.mem = s.mem ∧ ∀ k, t.slot k = s.slot k)

/-- R30, R32, R290: a report reaches its ember's slot, which holds one; a second one, and one whose ember has gone, is written as a
record of class 14. The report that a slot holds is taken, as an imprecise trap, before its next user-level issue, and before the
oldest timeout; with neither held nothing happens.
Readings and choices of the model that clauses rest on: log 27 (the report before the oldest timeout), log 28 (the owner and the ASID
of a lost report's record). -/
def Obligations.ReportEvents : Prop :=
  ∀ (s : State) (k e c : Nat) (a : Word), k < nSlots →
    let v := s.slot k
    let lost (act : Nat) : Prop := ∃ t r, exec (.impreciseReport k e c a) s = .next t ∧ (∀ j, t.slot j = s.slot j) ∧ t.mem = s.mem ∧
      (t.field (slotField k)).errors.getLast? = some r ∧ r = [BitVec.ofNat 64 (s.counter (slotField k)),
        BitVec.ofNat 64 (14 * 2 ^ 56 + act * 2 ^ 48 + v.owner.toNat * 2 ^ 40 + v.asid.toNat * 2 ^ 28), coreloc k, BitVec.ofNat 64 e,
        BitVec.ofNat 64 (c % 256), a, 0, 0]
    (v.ember = e → e ≠ 0 → v.imp = none → ∃ t, exec (.impreciseReport k e c a) s = .next t ∧
      t = s.modSlot k fun v => { v with imp := some (c, a) }) ∧
    (v.ember ≠ e ∨ e = 0 → lost 0) ∧ (v.ember = e → e ≠ 0 → v.imp.isSome → lost 4) ∧
    (v.mode = .active → v.level = .user →
      (v.imp = some (c, a) → ∃ t, exec (.pendingTrapDelivery k) s = .next t ∧
        (s.modSlot k fun v => { v with imp := none }).Traps t k true c a v.pc) ∧
      (∀ rest, v.imp = none → v.pend = (c, a) :: rest → ∃ t, exec (.pendingTrapDelivery k) s = .next t ∧
        (s.modSlot k fun v => { v with pend := rest }).Traps t k false c a v.pc) ∧
      (v.imp = none → v.pend = [] → exec (.pendingTrapDelivery k) s = .next s)) ∧
    (v.mode ≠ .active ∨ v.level ≠ .user → exec (.pendingTrapDelivery k) s = .next s)

/-- R135, R224 to R232 on the own slice: `vld` of a full word of its generation reads it, `vtake` reads and empties it, and either waits
on a watch entry otherwise; `vst` writes a word with its tag and is a doorbell, which lets every ember go on that `park` holds in another
slot of the core, and makes those ready that have left their slots; `vtag` reads a tag; `vrcl` empties every word of its range and no
other. -/
def Sys2Proof.Claims.ownVersionedWords : Prop :=
  ∀ (rd rs1 rs2 : Reg) (off : BitVec 9) (g : BitVec 3) (s : State) (key : Nat),
    (s.OwnSlice (vaddr s rs1 off) 8 key → s.me.level = .user → inTurn s →
      (s.tag key = 1#1 ++ g →
        (∃ t, exec (.vld rd rs1 off g) s = .next t ∧ s.Completes t (s.me.setX rd.toNat (BitVec.ofNat 64 (memRead s.mem key 8))) (s.me.pc + 4)) ∧
        (∃ t, exec (.vtake rd rs1 off g) s = .next t ∧ (s.setTag key (0#1 ++ g)).Completes t
          (s.me.setX rd.toNat (BitVec.ofNat 64 (memRead s.mem key 8))) (s.me.pc + 4))) ∧
      (s.tag key ≠ 1#1 ++ g → (s.home (keyHome key)).watch.length < 64 → (s.home (keyHome key)).requests = [] → s.me.park = none →
        (s.me.bound = true → watchApart s key) →
        ∀ p ∈ [(Instr.vld rd rs1 off g, false), (.vtake rd rs1 off g, true)], ∃ t w, exec p.1 s = .next t ∧
          t.me.arch = s.me.arch ∧ t.me.pc = s.me.pc ∧ t.me.due = none ∧
          t.me.park = some ⟨.version (vaddr s rs1 off) (keyHome key), s.now, s.me.parklimit.toNat, false⟩ ∧
          w ∈ (t.home (keyHome key)).watch ∧ w.key = key ∧ w.gen = g.toNat ∧ w.take = p.2 ∧ w.ember = s.me.ember ∧ w.rd = rd.toNat)) ∧
    (s.OwnSlice (vaddr s rs1 off) 8 key → s.me.outs = [] → s.me.park = none → ∃ t, exec (.vst rs1 rs2 off g) s = .next t ∧
      t.me.pc = s.me.pc + 4 ∧ (∀ k, (t.slot k).arch = (s.slot k).arch) ∧
      ((s.core (slotCore s.cur)).bells = [] → stored s.mem t.mem key 8 (s.x rs2).toNat ∧
        ((∀ h, (s.home h).watch = []) → ∀ a, t.tag a = if a / 8 = key / 8 then 1#1 ++ g else s.tag a)) ∧
      (∀ k, k ≠ s.cur → slotCore k = slotCore s.cur → (s.slot k).mode = .active → (s.slot k).leaving = false →
        ∀ p, (s.slot k).park = some p → p.kind = .bell → p.met = false →
        (t.slot k).pc = (s.slot k).pc + 4 ∧ (t.slot k).park = none ∧ (t.slot k).due.isSome) ∧
      (t.core (slotCore s.cur)).bells = [] ∧
      ∀ e ∈ (s.core (slotCore s.cur)).bells, s.slotOf e = none → (e, s.now) ∈ (t.core (slotCore s.cur)).ready) ∧
    (s.OwnSlice (s.x rs1) 8 key → ∃ t, exec (.vtag rd rs1) s = .next t ∧
      s.Completes t (s.me.setX rd.toNat ((s.tag key).setWidth 64)) (s.me.pc + 4)) ∧
    (s.x rs2 = 0 → ∃ t, exec (.vrcl rs1 rs2) s = .next t ∧ s.Completes t s.me (s.me.pc + 4)) ∧
    (s.OwnSlice (s.x rs1) 8 key → inTurn s → s.x rs2 ≠ 0 → (s.x rs2).toNat % 8 = 0 →
      (s.x rs1).toNat / 2 ^ 16 = ((s.x rs1).toNat + (s.x rs2).toNat - 1) / 2 ^ 16 → ∃ t, exec (.vrcl rs1 rs2) s = .next t ∧
        t.mem = s.mem ∧ t.me.arch = s.me.arch ∧ t.me.pc = s.me.pc + 4 ∧
        ∀ a, t.tag a = if key ≤ 8 * (a / 8) ∧ 8 * (a / 8) < key + (s.x rs2).toNat then 0 else s.tag a)

/-- R224 to R233, R240 elsewhere: the request goes to the home (that of a `vtag` perhaps to a replica); `vld`, `vtake`, `vtag` and atomics wait for the reply, `vst` and `vrcl`
complete and are outstanding.
Readings and choices of the model that clauses rest on: logs 8, 29. -/
def Obligations.FarVersionedRequests : Prop :=
  ∀ (rd rs1 rs2 : Reg) (off : BitVec 9) (g : BitVec 3) (s : State) (key : Nat) (tl : Option TlbEntry),
    s.me.rowsQueued = false → s.ownSlice key = false →
    (s.me.level = .user → inTurn s →
      (s.access s.cur .versionedLoad (vaddr s rs1 off) 8 = .ok key tl → ∃ t, exec (.vld rd rs1 off g) s = .next t ∧ s.OnlyTraffic t s.cur ∧
        s.Waits t .memory ∧ s.Sent t .versionedLoadAtHome { requestTo s (vaddr s rs1 off) key with
          op := g.toNat, aux := 0, rd := rd.toNat, ro := readOnly tl, tval := BitVec.ofNat 64 s.now }) ∧
      (s.access s.cur .both (vaddr s rs1 off) 8 = .ok key tl → ∃ t, exec (.vtake rd rs1 off g) s = .next t ∧ s.OnlyTraffic t s.cur ∧
        s.Waits t .memory ∧ s.Sent t .versionedLoadAtHome { requestTo s (vaddr s rs1 off) key with
          op := g.toNat, aux := 1, rd := rd.toNat, ro := false, tval := BitVec.ofNat 64 s.now })) ∧
    (s.access s.cur .versionedStore (vaddr s rs1 off) 8 = .ok key tl → s.me.outs = [] → ∃ t, exec (.vst rs1 rs2 off g) s = .next t ∧
      s.OnlyTraffic t s.cur ∧ s.Sent t .versionedStoreAtHome { requestTo s (vaddr s rs1 off) key with
        data := (s.x rs2).setWidth 1024, op := g.toNat } ∧ t.me.arch = s.me.arch ∧ t.me.pc = s.me.pc + 4 ∧
      t.me.outs = [⟨s.nextId, true, keyCore key, none, false, none⟩]) ∧
    (s.access s.cur .versionedLoad (s.x rs1) 8 = .ok key tl → s.me.loads < 63 → s.storesHeld s.cur = false →
      ∃ t, exec (.vtag rd rs1) s = .next t ∧ s.OnlyTraffic t s.cur ∧ s.Waits t .memory ∧
        s.Sent t .farLoadAtHome { requestTo s (s.x rs1) (readPlace s tl key).1 with
          op := opTag, rd := rd.toNat, ro := readOnly tl, served := (readPlace s tl key).2 }) ∧
    (s.access s.cur .versionedStore (s.x rs1) 8 = .ok key tl → inTurn s → s.me.stores < 63 → (s.x rs1).toNat % 8 = 0 → s.x rs2 ≠ 0 →
      (s.x rs2).toNat % 8 = 0 → (s.x rs1).toNat / 2 ^ 16 = ((s.x rs1).toNat + (s.x rs2).toNat - 1) / 2 ^ 16 →
      ∃ t, exec (.vrcl rs1 rs2) s = .next t ∧ s.OnlyTraffic t s.cur ∧ t.me.arch = s.me.arch ∧ t.me.pc = s.me.pc + 4 ∧
        s.Sent t .vrclAtHome { requestTo s (s.x rs1) key with size := (s.x rs2).toNat }) ∧
    (∀ p ∈ atomicOps, s.access s.cur .both (s.x rs1) p.2.2 = .ok key tl → inTurn s → ∃ t, exec (p.1 rd rs1 rs2) s = .next t ∧
      s.OnlyTraffic t s.cur ∧ s.Waits t .memory ∧ s.Sent t .atomicAtHome { requestTo s (s.x rs1) key with
        op := p.2.1, size := p.2.2, args := [s.x rs2, s.x rd], rd := rd.toNat })

/-- R233, R234: an atomic on the own slice reads the old value into rd and writes the new one (nothing, where a compare fails),
in one step; no other register changes. -/
def Sys2Proof.Claims.ownSliceAtomics : Prop :=
  ∀ p ∈ atomicOps, ∀ (rd rs1 rs2 : Reg) (s : State) (key : Nat), s.OwnSlice (s.x rs1) p.2.2 key → inTurn s →
    let old := memRead s.mem key p.2.2
    ∃ t, exec (p.1 rd rs1 rs2) s = .next t ∧ wrote s.mem t.mem key p.2.2 (amoWrites p.2.1 p.2.2 old (s.x rs2) (s.x rd)) ∧
      t.me.arch = (s.me.setX rd.toNat (amoOld p.2.2 old)).arch ∧ t.me.pc = s.me.pc + 4 ∧
      ∀ k, k ≠ s.cur → (t.slot k).arch = (s.slot k).arch

/-- R224 to R234: versioned words and atomics on the own slice.
Readings and choices of the model that clauses rest on: log 9. -/
def Obligations.OwnSliceWords : Prop := ownVersionedWords ∧ ownSliceAtomics

/-- R226 to R229 at the home: a versioned load waits while its word is being zeroed (R220) or an earlier store of its ember at that home
is still to be performed (R246); it is refused with the cause of R219 or R296;
a full word of its generation is answered, and a take empties it; any other request of an ember that is there is listed in the watch
table, of which the slot is told, or held at the home behind the others while the table is full. -/
def Sys2Proof.Claims.versionedLoadAtHome : Prop :=
  ∀ (id : Nat) (f : Flight) (s : State), s.flight? id = some f → f.next = .versionedLoadAtHome id →
    let h := keyHome f.key
    let full := (s.tag f.key).toNat = 8 + f.op
    let here := (s.slot f.slot).ember = f.ember ∧ f.dead = false
    let answers (t : State) (P : Flight → Prop) : Prop := ∃ g, t.flight? id = some g ∧ g.next = .versionedReply id ∧ g.slot = f.slot ∧
      g.ember = f.ember ∧ g.rd = f.rd ∧ P g
    (s.waitsZero f = true → exec (.versionedLoadAtHome id) s = .next (s.holdHome f (.versionedLoadAtHome id))) ∧
    (s.waitsZero f = false →
      (∀ c, s.storageFault f f.key 8 = some c → ∃ t, exec (.versionedLoadAtHome id) s = .next t ∧
        answers t (fun g => g.cause = c ∧ g.tval = f.va) ∧ t.mem = s.mem ∧ t.tags = s.tags ∧ ∀ k, t.slot k = s.slot k) ∧
      (s.storageFault f f.key 8 = none →
        (full → ∃ t, exec (.versionedLoadAtHome id) s = .next t ∧
          answers t (fun g => g.data = BitVec.ofNat 1024 (memRead s.mem f.key 8) ∧ g.args = [] ∧ g.cause = f.cause) ∧ t.mem = s.mem ∧
          (∀ k, t.slot k = s.slot k) ∧
          ∀ a, t.tag a = if a / 8 = f.key / 8 ∧ f.aux = 1 then 0#1 ++ BitVec.ofNat 3 f.op else s.tag a) ∧
        (¬ full → ¬ here → ∃ t, exec (.versionedLoadAtHome id) s = .next t ∧ t.flight? id = none ∧ t.mem = s.mem ∧ t.tags = s.tags ∧
          ∀ k, t.slot k = s.slot k) ∧
        (¬ full → here → (s.slot f.slot).park = none →
          (s.watchRoom h id = true → ∃ t w, exec (.versionedLoadAtHome id) s = .next t ∧ answers t (fun g => g.args = [1]) ∧
            w ∈ (t.home h).watch ∧ w.key = f.key ∧ w.gen = f.op ∧ w.take = (f.aux == 1) ∧ w.ember = f.ember ∧ w.rd = f.rd ∧
            t.mem = s.mem ∧ t.tags = s.tags ∧ (t.slot f.slot).park.isSome ∧ ∀ k, (t.slot k).arch = (s.slot k).arch) ∧
          (s.watchRoom h id = false → id ∉ (s.home h).requests → (s.slot f.slot).stopReq = false →
            ∃ t, exec (.versionedLoadAtHome id) s = .next t ∧ (t.home h).requests = (s.home h).requests ++ [id] ∧ t.flight? id = some f ∧
              t.mem = s.mem ∧ t.tags = s.tags ∧ (t.slot f.slot).park.isSome ∧ ∀ k, (t.slot k).arch = (s.slot k).arch)) ∧
        (¬ full → here → s.watchRoom h id = false → id ∈ (s.home h).requests → ∃ t, exec (.versionedLoadAtHome id) s = .next t ∧
          (t.home h).requests = (s.home h).requests ∧ t.flight? id = some f ∧ t.mem = s.mem ∧ t.tags = s.tags ∧ ∀ k, t.slot k = s.slot k)))

/-- R219, R220, R230 to R233, R246, R296, R304 at the home: a versioned store, a reclaim and an atomic wait while their word is being
zeroed or an earlier store of the ember is still to be performed; a refused one is acknowledged or answered with its cause and changes nothing; else the store writes the word with its tag (where no
doorbell wakes an ember and no watch entry waits, it writes nothing else), the reclaim empties its range, and the atomic does what
it does on the own slice and returns the old value. Each answers under its own flight. -/
def Sys2Proof.Claims.versionedOpsAtHome : Prop :=
  ∀ (id : Nat) (f : Flight) (s : State), s.flight? id = some f →
    let acks (t : State) (c : Nat) : Prop := ∃ g, t.flight? id = some g ∧ g.next = .acknowledgement id ∧ g.slot = f.slot ∧
      g.ember = f.ember ∧ g.cause = c ∧ g.tval = f.va
    let replies (t : State) (c : Nat) (P : Flight → Prop) : Prop := ∃ g, t.flight? id = some g ∧ g.next = .loadReply id ∧
      g.slot = f.slot ∧ g.ember = f.ember ∧ g.rd = f.rd ∧ g.op = opValue ∧ g.cause = c ∧ P g
    let same (t : State) : Prop := t.mem = s.mem ∧ t.tags = s.tags ∧ ∀ k, t.slot k = s.slot k
    (s.waitsZero f = true → ∀ i ∈ [Instr.versionedStoreAtHome id, .vrclAtHome id, .atomicAtHome id],
      exec i s = .next (s.holdHome f i)) ∧
    (s.waitsZero f = false →
      let c := if s.ownerOk f.key f.owner false then if s.partBad f.key 8 then 0x0F else 0 else 0x10
      (c ≠ 0 → ∃ t, exec (.versionedStoreAtHome id) s = .next t ∧ acks t c ∧ same t) ∧
      (c = 0 → ∃ t, exec (.versionedStoreAtHome id) s = .next t ∧ acks t 0 ∧ (∀ k, (t.slot k).arch = (s.slot k).arch) ∧
        ((s.core (keyCore f.key)).bells = [] → (∀ h, (s.home h).watch = []) → stored s.mem t.mem f.key 8 (f.data.setWidth 64).toNat ∧
          ∀ a, t.tag a = if a / 8 = f.key / 8 then 1#1 ++ BitVec.ofNat 3 f.op else s.tag a)) ∧
      (s.ownerOk f.key f.owner false = false → ∃ t, exec (.vrclAtHome id) s = .next t ∧ acks t 0x10 ∧ same t) ∧
      (s.ownerOk f.key f.owner false = true → s.erased f.key = true → ∃ t, exec (.vrclAtHome id) s = .next t ∧ acks t 0x0F ∧ same t) ∧
      (s.ownerOk f.key f.owner false = true → s.erased f.key = false → ∃ t, exec (.vrclAtHome id) s = .next t ∧ acks t 0 ∧ t.mem = s.mem ∧
        (∀ k, t.slot k = s.slot k) ∧
        ∀ a, t.tag a = if f.key ≤ 8 * (a / 8) ∧ 8 * (a / 8) < f.key + f.size then 0 else s.tag a) ∧
      (∀ x, s.storageFault f f.key f.size = some x → ∃ t, exec (.atomicAtHome id) s = .next t ∧ replies t x (fun g => g.tval = f.va) ∧
        same t) ∧
      (s.storageFault f f.key f.size = none → f.size = 4 ∨ f.size = 8 → ∃ t, exec (.atomicAtHome id) s = .next t ∧
        replies t f.cause (fun g => g.data = (amoOld f.size (memRead s.mem f.key f.size)).setWidth 1024) ∧
        wrote s.mem t.mem f.key f.size (amoWrites f.op f.size (memRead s.mem f.key f.size) (f.args.getD 0 0) (f.args.getD 1 0)) ∧
        ∀ k, (t.slot k).arch = (s.slot k).arch))

/-- R219, R220, R226 to R233, R246, R296, R304: what the home of a versioned word does with each request, in every case.
Readings and choices of the model that clauses rest on: log 8; log 31 (the home tells the slot that its request is listed: args = [1]);
log 68 (the park of a request that is listed at once begins there). -/
def Obligations.VersionedAtHome : Prop := versionedLoadAtHome ∧ versionedOpsAtHome

/-- R228: the value of a versioned load, and the old value of an atomic or an append, are written to rd and complete the
instruction, with nothing else of the ember changed. -/
def Sys2Proof.Claims.valueReplies : Prop :=
  ∀ (id : Nat) (f : Flight) (s : State), s.flight? id = some f → f.ember ≠ 0 → f.dead = false → (s.slot f.slot).ember = f.ember →
    f.cause = 0 →
    let done (t : State) : Prop := t.flight? id = none ∧ t.mem = s.mem ∧ (t.slot f.slot).pc = (s.slot f.slot).pc + 4 ∧
      (t.slot f.slot).arch = ((s.slot f.slot).setX f.rd (f.data.setWidth 64)).arch ∧
      ∀ k, k ≠ f.slot → t.slot k = { s.slot k with inject := (t.slot k).inject }
    (f.op = opValue → ∃ t, exec (.loadReply id) s = .next t ∧ done t) ∧
    (f.args = [] → f.op ≠ opServed → ∃ t, exec (.versionedReply id) s = .next t ∧ done t)

/-- R30, R217, R228, R231, R233, R285: what the reply to a load, a store, a versioned word or an atomic leaves in its slot.
Readings and choices of the model that clauses rest on: log 9. -/
def Obligations.RepliesComplete : Prop := loadReplies ∧ acknowledged ∧ valueReplies

/-- R219, R220, R236, R237, R245: an append asks the frame's home; the home judges the owner of the words at the tail (that of the tail
alone where the page has no room), writes the bytes there and moves the tail, answers all ones where the page has no room, and refuses a
sealed page and one that would merge into an uncorrectable unit (log 59), with the address of the word at fault (R288); it waits while
the tail is being zeroed, and reports a frame without an entry; the words of a long append
may be written in two events of one clk (log 57); an append to a page that its leaf says is sealed is a trap. -/
def Sys2Proof.Claims.appendsAtTail : Prop :=
  ∀ (s : State),
    (∀ (rd rs1 rs2 : Reg) (key : Nat) (tl : TlbEntry), s.me.rowsQueued = false → s.access s.cur .append (s.x rs1) 1 = .ok key (some tl) →
      (leafSealed tl.leaf = true → ∃ t, exec (.apndD rd rs1 rs2) s = .next t ∧
        (s.touch s.cur (some tl)).Traps t s.cur false 0x09 (s.x rs1) s.me.pc) ∧
      (leafSealed tl.leaf = false → inTurn s → ∃ t, exec (.apndD rd rs1 rs2) s = .next t ∧ s.OnlyTraffic t s.cur ∧ s.Waits t .memory ∧
        s.Sent t .appendAtHome { requestTo s (s.x rs1) (leafFrame tl.leaf) with size := 8, data := (s.x rs2).setWidth 1024, rd := rd.toNat })) ∧
    (∀ (rd rs1 rs2 : Reg) (n : BitVec 3) (key : Nat) (tl : TlbEntry), s.me.accHeld = true → s.me.vbuf = [] → s.me.rowPend = [] →
      s.access s.cur .append (s.x rs1) 1 = .ok key (some tl) → leafSealed tl.leaf = false → inTurn s →
      ∃ t, exec (.apndV rd rs1 rs2 n) s = .next t ∧ s.OnlyTraffic t s.cur ∧ s.Waits t .memory ∧
        s.Sent t .appendAtHome { requestTo s (s.x rs1) (leafFrame tl.leaf) with
          size := 16 * (n.toNat + 1), data := s.row s.cur rs2.toNat, rd := rd.toNat }) ∧
    (∀ (id : Nat) (f : Flight), s.flight? id = some f → f.part ≤ f.size →
      let entry := Tab.find? (s.home (keyHome f.key)).appends f.key
      let size := if entry.any (·.big) then 2 ^ 26 else 2 ^ 16
      let at_ := f.key + min ((entry.map (·.tail)).getD 0) (size - 8)
      let answersAt (t : State) (c v : Nat) (a : Word) : Prop := ∃ g, t.flight? id = some g ∧ g.next = .loadReply id ∧ g.op = opAppend ∧
        g.cause = c ∧ g.slot = f.slot ∧ g.ember = f.ember ∧ g.rd = f.rd ∧ g.data = BitVec.ofNat 1024 v ∧ g.tval = a
      let answers (t : State) (c v : Nat) : Prop := answersAt t c v f.va
      let place (w : Nat) : Word := BitVec.ofNat 64 (f.va.toNat / size * size + (w - f.key))
      let waits := s.zeroing at_ = true ∧ s.ownerOk at_ f.owner false = true
      (waits → exec (.appendAtHome id) s = .next (s.holdZero at_ (.appendAtHome id))) ∧
      (¬ waits → f.part = 0 → entry = none → ∃ t, exec (.appendAtHome id) s = .next t ∧ answers t 0x05 0 ∧ t.mem = s.mem ∧
        f.key ∈ (t.field (coreField (keyCore f.key))).unlisted) ∧
      (¬ waits → f.part = 0 → ∀ e, entry = some e →
        let words := if size < e.tail + f.size then [at_] else wordsOf (f.key + e.tail) f.size
        (∀ w, words.find? (fun w => !s.ownerOk w f.owner false) = some w → ∃ t, exec (.appendAtHome id) s = .next t ∧
          answersAt t 0x10 0 (place w) ∧ t.mem = s.mem) ∧
        ((∀ w ∈ words, s.ownerOk w f.owner false = true) → ∃ t n v, exec (.appendAtHome id) s = .next t ∧
          if e.closed then answers t 0x09 0 ∧ t.mem = s.mem
          else if size < e.tail + f.size then answers t 0 (2 ^ 64 - 1) ∧ t.mem = s.mem
          else match s.partBadWord (f.key + e.tail) f.size with
          | some w => answersAt t 0x0F v (place w) ∧ t.mem = s.mem
          | none => stored s.mem t.mem (f.key + e.tail) n f.data.toNat ∧ n ≤ f.size ∧ (e.tail % 8 + f.size ≤ 8 → n = f.size) ∧
            Tab.find? (t.home (keyHome f.key)).appends f.key = some { e with tail := e.tail + f.size } ∧
            (n = f.size → answers t 0 e.tail) ∧
            (n < f.size → t.flight? id = some { f with part := n, args := [BitVec.ofNat 64 e.tail] } ∧
              (8 * s.now + 1, .appendAtHome id) ∈ t.agenda))) ∧
      (¬ waits → f.part ≠ 0 → let tail := (f.args.headD 0).toNat
        ∃ t, exec (.appendAtHome id) s = .next t ∧ answers t 0 tail ∧
          stored s.mem t.mem (f.key + tail + f.part) (f.size - f.part) (f.data.toNat / 2 ^ (8 * f.part))))

/-- R219, R239: `seal` first has its page walked afresh, then asks the frame's home, which closes the entry, or refuses another owner and a
frame without an entry; SEALED is set in the leaf (a leaf in error is refused, log 14), and the tail is returned once the report is
acknowledged. -/
def Sys2Proof.Claims.sealCloses : Prop :=
  ∀ (s : State),
    (∀ (rd rs1 : Reg), s.me.rowsQueued = false → translated (s.x rs1) = true → (s.asidRoot s.me.asid.toNat s.me.owner).isSome →
      (s.me.got ≠ some 1 → ∃ t, exec (.seal rd rs1) s = .next t ∧ s.OnlyTraffic t s.cur ∧ s.Waits t .memory ∧ t.me.walking = some (s.x rs1) ∧
        t.me.got = some 1 ∧ ∃ n, s.now ≤ n ∧ (8 * n + 1, .pageWalk s.cur (s.x rs1)) ∈ t.agenda) ∧
      (∀ w e, s.me.got = some 1 → s.me.walk = some w → w.entry = some e → e.hits s.me.asid.toNat (s.x rs1) = true →
        s.leafFault .seal (s.me.level == .user) e.leaf = none → s.me.outs = [] → ∃ t, exec (.seal rd rs1) s = .next t ∧
          s.OnlyTraffic t s.cur ∧ s.Waits t .memory ∧
          s.Sent t .sealAtHome { requestTo s (s.x rs1) (leafFrame e.leaf) with rd := rd.toNat, aux := e.at_ })) ∧
    (∀ (id : Nat) (f : Flight), s.flight? id = some f →
      let refuses (i : Instr) (c : Nat) : Prop := ∃ t g, exec i s = .next t ∧ t.flight? id = some g ∧ g.next = .loadReply id ∧ g.cause = c ∧
        t.mem = s.mem
      (s.waitsZero f = false → s.ownerOk f.key f.owner false = false → refuses (.sealAtHome id) 0x10) ∧
      (s.waitsZero f = false → s.ownerOk f.key f.owner false = true → Tab.find? (s.home (keyHome f.key)).appends f.key = none →
        refuses (.sealAtHome id) 0x05) ∧
      (∀ e, s.waitsZero f = false → s.ownerOk f.key f.owner false = true → Tab.find? (s.home (keyHome f.key)).appends f.key = some e →
        ∃ t g, exec (.sealAtHome id) s = .next t ∧ Tab.find? (t.home (keyHome f.key)).appends f.key = some { e with closed := true } ∧
          t.flight? id = some g ∧ g.data = BitVec.ofNat 1024 e.tail ∧ t.mem = s.mem ∧ ∃ n, (8 * n + 1, .leafSealOr id) ∈ t.agenda) ∧
      (s.fencedKey f.aux = false → s.zeroing f.aux = true → exec (.leafSealOr id) s = .next (s.holdZero f.aux (.leafSealOr id))) ∧
      (s.fencedKey f.aux = false → s.zeroing f.aux = false → (s.badWord f.aux 8).isSome → refuses (.leafSealOr id) 0x0F) ∧
      (s.fencedKey f.aux = false → s.zeroing f.aux = false → s.badWord f.aux 8 = none → ∃ t, exec (.leafSealOr id) s = .next t ∧ stored s.mem t.mem f.aux 8 (memRead s.mem f.aux 8 ||| 0x80) ∧
        ∃ n, (8 * n + 1, .sealReportAck id) ∈ t.agenda) ∧
      ((s.slot f.slot).ember = f.ember → f.dead = false → ∃ t, exec (.sealReportAck id) s = .next t ∧ t.flight? id = none ∧
        (t.slot f.slot).arch = ((s.slot f.slot).setX f.rd (f.data.setWidth 64)).arch ∧ (t.slot f.slot).pc = (s.slot f.slot).pc + 4))

/-- R240, R241: `srepl` asks for a copy of a sealable page and waits until it is accepted; one field takes a frame of its pool for a
copy, which is the page's bytes once it is done (after an alarm erasure it never is, R304); a dropped copy's frame returns to the pool
once no read that it serves is under way; the read counts restart every period. -/
def Sys2Proof.Claims.replicasCopy : Prop :=
  ∀ (s : State),
    (∀ (rs1 rs2 : Reg) (key : Nat) (tl : TlbEntry),
      ((s.x rs2).toNat / 64 ≠ 0 → ∃ t, exec (.srepl rs1 rs2) s = .next t ∧ s.Traps t s.cur false 0x01 (s.me.word.setWidth 64) s.me.pc) ∧
      ((s.x rs2).toNat / 64 = 0 → s.me.rowsQueued = false → s.access s.cur .load (s.x rs1) 1 = .ok key (some tl) →
        ((leafClass tl.leaf ≠ 1 ∨ nFields ≤ (s.x rs2).toNat) → ∃ t, exec (.srepl rs1 rs2) s = .next t ∧ s.OnlyTraffic t s.cur ∧
          t.me.arch = s.me.arch ∧ t.me.pc = s.me.pc + 4) ∧
        (leafClass tl.leaf = 1 → (s.x rs2).toNat < nFields → ∃ t f n, exec (.srepl rs1 rs2) s = .next t ∧ s.OnlyTraffic t s.cur ∧
          s.Waits t .memory ∧ t.flight? s.nextId = some f ∧ f.op = (s.x rs2).toNat ∧ f.key = leafFrame tl.leaf ∧
          (8 * n + 1, .sreplAccept s.nextId) ∈ t.agenda))) ∧
    (∀ (id : Nat) (f : Flight), s.flight? id = some f → (s.slot f.slot).ember = f.ember → f.dead = false → ∃ t, exec (.sreplAccept id) s = .next t ∧
      t.flight? id = none ∧ (t.slot f.slot).arch = (s.slot f.slot).arch ∧ (t.slot f.slot).pc = (s.slot f.slot).pc + 4) ∧
    (∀ f < nFields, ∀ frame : Nat,
      (∀ p ps (e : AppendEntry), (s.field f).pool = p :: ps → p.1 = Tab.get (s.home (keyHome frame)).bankOwner (keyBank frame) 0 →
        Tab.find? (s.home (keyHome frame)).appends frame = some e → e.closed = true → p.2.1 = e.big → (s.field f).replicas = [] →
        ∃ t, exec (.replicaCreate f frame) s = .next t ∧ (t.field f).pool = ps ∧ (t.field f).replicas = [⟨frame, p.2.2, e.big, p.1, false, 0, false⟩] ∧
          t.mem = s.mem) ∧
      (∀ r, (s.field f).replicas = [r] → r.frame = frame →
        let size := if r.big then 2 ^ 26 else 2 ^ 16
        let reading := s.flights.any fun p => p.2.served && decide (r.copy ≤ p.2.key ∧ p.2.key < r.copy + size)
        (r.done = true ∨ r.drop = true ∨ s.erased frame = true → exec (.replicaCopyDone f frame) s = .next s) ∧
        (r.done = false → r.drop = false → s.erased frame = false → ∃ t, exec (.replicaCopyDone f frame) s = .next t ∧ (t.field f).replicas = [{ r with done := true }] ∧
          (Memory.wf s.mem = true → ∀ m < size, memGet t.mem (r.copy + m) = memGet s.mem (frame + m))) ∧
        (reading = true → ∃ t, exec (.replicaDrop f frame) s = .next t ∧ (t.field f).replicas = [{ r with done := false, drop := true }] ∧
          (t.field f).pool = (s.field f).pool ∧ (8 * (s.now + 1) + 1, .replicaDrop f frame) ∈ t.agenda) ∧
        (reading = false → ∃ t, exec (.replicaDrop f frame) s = .next t ∧ (t.field f).replicas = [] ∧
          (t.field f).pool = (s.field f).pool ++ [(r.owner, r.big, r.copy)])) ∧
      (∃ t, exec (.replicaPeriod f) s = .next t ∧ (t.field f).reads = [] ∧
        (8 * (s.now + (65536 - s.counter f % 65536)) + 1, .replicaPeriod f) ∈ t.agenda))

/-- R219, R220, R236 to R241, R288, R304: appends, seals and replicas.
Readings and choices of the model that clauses rest on: logs 5, 14, 25, 57, 59. -/
def Obligations.AppendsAndReplicas : Prop := appendsAtTail ∧ sealCloses ∧ replicasCopy

/-- R73, R74, R76: `tlbinv` removes the named entries of every L1 TLB in scope and completes once nothing in scope still uses them;
`sig` opens a block while the checker is on, does nothing while it is off, and is illegal with LEN = 0.
Readings and choices of the model that clauses rest on: logs 39, 74. -/
def Obligations.SystemOpsComplete : Prop :=
  ∀ (rs1 rs2 : Reg) (sigv : BitVec 16) (len : BitVec 6) (s : State),
    (s.me.level = .supervisor → s.me.stores = 0 → s.me.got ≠ some 1 →
      let scope := bits (s.x rs2).toNat 14 2
      ∃ t, exec (.tlbinv rs1 rs2) s = .next t ∧ t.me.arch = s.me.arch ∧
        (∀ c, inScope scope (slotCore s.cur) c = true → ∀ e, e ∈ (t.core c).tlb ↔ e ∈ (s.core c).tlb ∧ ¬ (
          ((s.x rs2).getLsbD 13 = true ∨ e.asid = (s.x rs2).toNat % 4096) ∧
          ((s.x rs2).getLsbD 12 = true ∨ e.hits e.asid (s.x rs1) = true))) ∧
        (scope = 0 → s.flights = [] → (∀ p ∈ s.slots, p.2.vbuf = [] ∧ p.2.park = none) → (∀ p ∈ s.embers, p.2.park = none) →
          t.me.pc = s.me.pc + 4 ∧ t.mem = s.mem)) ∧
    (len = 0 → ∃ t, exec (.sig sigv len) s = .next t ∧ s.Traps t s.cur false 0x01 (s.me.word.setWidth 64) s.me.pc) ∧
    (len ≠ 0 → (s.core (slotCore s.cur)).sigEn = false → ∃ t, exec (.sig sigv len) s = .next t ∧ s.Completes t s.me (s.me.pc + 4)) ∧
    (len ≠ 0 → (s.core (slotCore s.cur)).sigEn = true → s.me.sig = none → ∃ t, exec (.sig sigv len) s = .next t ∧
      s.OnlyTraffic t s.cur ∧ t.me.arch = s.me.arch ∧ t.me.pc = s.me.pc + 4 ∧ t.me.sig = some ⟨len.toNat, sigv.toNat, 0, 0, false⟩)

/-- R102, R213, R305, R308, R309: a page walk answers its slot with the leaf that the lower caches or the table hold, or with the
fault, and fills the L1; a breakpoint stops its slot before the instruction; the accounting of a clk counts one class of one slot;
the counter sets take turns; a write of ones clears bits of the flag union.
Readings and choices of the model that clauses rest on: logs 5, 15, 40. -/
def Obligations.WatchEvents : Prop :=
  ∀ (s : State),
    (∀ k < nSlots, ∀ (va : Word), (s.slot k).walking = some va →
      let a := (s.slot k).asid.toNat
      let found (e : TlbEntry) : Prop := ∃ t, exec (.pageWalk k va) s = .next t ∧ (t.slot k).walk = some ⟨a, va, some e, 0⟩ ∧
        (t.slot k).walking = none ∧ e ∈ (t.core (slotCore k)).tlb ∧ t.mem = s.mem ∧ (t.slot k).arch = (s.slot k).arch
      ((s.slot k).got ≠ some 1 → ∀ e, s.lowerTlb k a va = some e → found e) ∧
      (∀ root, (s.slot k).got = some 1 ∨ s.lowerTlb k a va = none → s.asidRoot a (s.slot k).owner = some root →
        let faults (c : Nat) : Prop := ∃ t, exec (.pageWalk k va) s = .next t ∧ (t.slot k).walk = some ⟨a, va, none, c⟩ ∧
          t.mem = s.mem ∧ (t.slot k).arch = (s.slot k).arch
        (∀ e, s.walk a root va = .leaf e → found e) ∧ (∀ c at_, s.walk a root va = .fault c at_ → faults c) ∧
        (∀ node level, s.walk a root va = .bad node level → faults 0x0F) ∧
        (∀ at_, s.walk a root va = .busy at_ → ∃ t, exec (.pageWalk k va) s = .next t ∧ (t.slot k).walking = some va ∧ t.mem = s.mem ∧
          (t.slot k).arch = (s.slot k).arch))) ∧
    (∀ k < nSlots, (s.slot k).mode = .active → s.breakpointHit k = true → ∃ t, exec (.hwBreakpointStop k) s = .next t ∧
      (t.slot k).mode = .stopped ∧ (t.slot k).due = none ∧ (t.slot k).bpSkip = some (s.slot k).pc ∧ (t.slot k).arch = (s.slot k).arch ∧
      (t.slot k).pc = (s.slot k).pc) ∧
    (∀ c < nCores, ∃ t, exec (.issueCycle c) s = .next t ∧ t.mem = s.mem ∧ (∀ k, (t.slot k).arch = (s.slot k).arch) ∧
      ((s.core c).counting = true → (8 * (s.now + 1), .issueCycle c) ∈ t.agenda) ∧
      (∀ k, ((List.range 8).map (8 * c + ·)).find? (fun k => decide (s.nextIssue k (s.now - 1) = s.now - 1)) = some k →
        Tab.get (t.slot k).acct (s.slotClass k (s.now - 1)) 0 = Tab.get (s.slot k).acct (s.slotClass k (s.now - 1)) 0 + 1)) ∧
    (∀ c < nCores, (s.core c).pcrotEn = true → (s.core c).rotation ≠ s.now → s.rotationAt c s.now = s.now →
      ∃ t, exec (.counterSetRotate c) s = .next t ∧ (t.core c).activeSet = ((s.core c).activeSet + 1) % ((s.core c).pcrotSets.toNat + 1)) ∧
    (∀ cl < nClusters, ∀ (ones : Word), ∃ t, exec (.flagUnionClear cl ones) s = .next t ∧
      (t.cluster cl).flagUnion = (s.cluster cl).flagUnion &&& ~~~ ones.extractLsb' 0 5)

/-- R181, R187: a tabled call or look-up traps on a bad callee or on a group of another owner; outside any group the call is a plain
call with `tstatus` = 3 and the look-up answers 4; else it asks its home slice, and waits. -/
def Sys2Proof.Claims.tabledCalls : Prop :=
  ∀ (rd rs1 n : BitVec 5) (s : State), s.me.level = .user →
    let v := s.x rs1
    let grp := Tab.find? s.groups s.me.tgroup.toNat
    (∀ i ∈ [Instr.tcall rs1 n, .tlook rd rs1 n],
      (v.toNat / 2 ^ 55 ≠ 0 → ∃ t, exec i s = .next t ∧ s.Traps t s.cur false 0x14 v s.me.pc) ∧
      (v.toNat / 2 ^ 55 = 0 → v.toNat % 4 ≠ 0 → ∃ t, exec i s = .next t ∧ s.Traps t s.cur false 0x02 v s.me.pc) ∧
      (calleeOk v → ∀ g, grp = some g → g.owner ≠ s.me.owner → ∃ t, exec i s = .next t ∧
        s.Traps t s.cur false 0x10 (s.me.tgroup.setWidth 64) s.me.pc)) ∧
    (calleeOk v → grp = none →
      (∃ t, exec (.tcall rs1 n) s = .next t ∧
        s.Completes t { (s.me.setX 31 0).setX 1 (s.me.pc + 4) with tstatus := 3 } v) ∧
      (∃ t, exec (.tlook rd rs1 n) s = .next t ∧ s.Completes t (s.me.setX rd.toNat 4) (s.me.pc + 4))) ∧
    (calleeOk v → ∀ g cl, grp = some g → g.owner = s.me.owner → callHome s v n.toNat g = some cl →
      (∃ t via, exec (.tcall rs1 n) s = .next t ∧ s.OnlyTraffic t s.cur ∧ s.Waits t .message ∧
        s.Sent t .tcallAtHome { homeTo s v cl via with key := s.me.tgroup.toNat, args := keyWords s n.toNat }) ∧
      (∃ t via, exec (.tlook rd rs1 n) s = .next t ∧ s.OnlyTraffic t s.cur ∧ s.Waits t .message ∧
        s.Sent t .tlookAtHome { homeTo s v cl via with
          key := s.me.tgroup.toNat, args := keyWords s n.toNat, rd := rd.toNat, op := 1 }))

/-- R186: `tret` and `tfail` return to the address in x1; with the handle 0 that is all (`tfail` sets `tstatus`); with a handle that
names no slice the publication is stale; else they publish at the home slice, once everything before them is done. -/
def Sys2Proof.Claims.publications : Prop :=
  ∀ (rs1 rs2 : Reg) (s : State), s.me.level = .user →
    let target := s.me.xr 1 &&& ~~~ 1
    let hd := s.x rs1
    let fails := { s.me with tstatus := BitVec.ofNat 64 ((low (s.x rs2)).toNat % 256 * 256 + 7) }
    (target.getLsbD 1 = true → ∀ i ∈ [Instr.tret rs1, .tfail rs1 rs2], ∃ t, exec i s = .next t ∧
      s.Traps t s.cur false 0x02 target s.me.pc) ∧
    (target.getLsbD 1 = false → hd = 0 →
      (∃ t, exec (.tret rs1) s = .next t ∧ s.Completes t s.me target) ∧
      (∃ t, exec (.tfail rs1 rs2) s = .next t ∧ s.Completes t fails target)) ∧
    (target.getLsbD 1 = false → hd ≠ 0 → handleCluster hd = none → ∀ i ∈ [Instr.tret rs1, .tfail rs1 rs2], ∃ t, exec i s = .next t ∧
      s.OnlyTraffic t s.cur ∧ s.Waits t .message ∧ s.Sent t .tcallReply { requestTo s target 0 with cause := ansPublished, args := [5] }) ∧
    (target.getLsbD 1 = false → hd ≠ 0 → ∀ cl, handleCluster hd = some cl →
      ((s.cluster cl).answers.owner ≠ s.me.owner → ∀ i ∈ [Instr.tret rs1, .tfail rs1 rs2], ∃ t, exec i s = .next t ∧
        s.Traps t s.cur false 0x10 hd s.me.pc) ∧
      ((s.cluster cl).answers.owner = s.me.owner → released s.me →
        (∃ t via, exec (.tret rs1) s = .next t ∧ s.OnlyTraffic t s.cur ∧ s.Waits t .message ∧
          s.Sent t .publicationAtHome { homeTo s target cl via with tval := hd, op := 0, args := [s.me.xr 10, s.me.xr 11, 0] }) ∧
        (∃ t via, exec (.tfail rs1 rs2) s = .next t ∧ s.OnlyTraffic t s.cur ∧ s.Waits t .message ∧
          s.Sent t .publicationAtHome { homeTo s target cl via with
            tval := hd, op := 1, args := [s.me.xr 10, s.me.xr 11, ((s.x rs2).extractLsb' 0 8).setWidth 64] })))

/-- R188 to R191: `tgopen`, its words read, answers −2 for a malformed descriptor and else asks the region's first cluster;
`tgclose`, `tgdrop` and `tgseal` ask their group's home; `tgseal` of a group that is not complete waits, and of a sealed one is over. -/
def Sys2Proof.Claims.groupOpsAsk : Prop :=
  ∀ (rd rs1 rs2 : Reg) (ws : List Word) (s : State),
    (hasWords s (s.x rs1) 4 ws →
      let w0 := ws.getD 0 0
      let w1 := ws.getD 1 0
      let w2 := (ws.getD 2 0).toNat
      let bad := (s.x rs2).toNat / 65536 ≠ 0 ∨ ws.getD 3 0 ≠ 0 ∨
        (w0 ≠ 0 ∧ (inStore w0 = false ∨ s.storeKey w0 = none ∨ w0.toNat % 8 ≠ 0)) ∨ w1.toNat % 65536 ≠ 0 ∨
        (w1 ≠ 0 ∧ (w2 < 2 ^ 10 ∨ 2 ^ 26 < w2 ∨ 2 ^ Nat.log2 w2 ≠ w2))
      (bad → ∃ t, exec (.tgopen rd rs1 rs2) s = .next t ∧ s.OnlyTraffic t s.cur ∧ s.Waits t .message ∧
        s.Sent t .tcallReply { requestTo s 0 0 with cause := ansValue, rd := rd.toNat, data := (BitVec.ofInt 64 (-2)).setWidth 1024 }) ∧
      (¬ bad → ∀ g cl cls, Tab.find? s.regions (s.x rs2).toNat = some g → g.owner = s.me.owner → g.clusters = cl :: cls →
        ∃ t via, exec (.tgopen rd rs1 rs2) s = .next t ∧ s.OnlyTraffic t s.cur ∧ s.Waits t .message ∧
          s.Sent t .groupOpenAtHome { homeTo s 0 cl via with
            key := (s.x rs2).toNat, args := [w0, w1, BitVec.ofNat 64 w2], rd := rd.toNat })) ∧
    groupChecks (.tgclose rs1) (s.x rs1) s ∧ groupChecks (.tgdrop rs1) (s.x rs1) s ∧
    (s.me.level = .user → groupChecks (.tgseal rs1) (s.x rs1) s) ∧
    (∀ g h, (s.x rs1).toNat / 65536 = 0 → Tab.find? s.groups (s.x rs1).toNat = some g → g.owner = s.me.owner → s.groupHome g = some h →
      (∃ t via, exec (.tgclose rs1) s = .next t ∧ s.OnlyTraffic t s.cur ∧ s.Waits t .message ∧
        s.Sent t .groupCloseAtHome { homeTo s 0 h via with key := (s.x rs1).toNat }) ∧
      (∃ t via, exec (.tgdrop rs1) s = .next t ∧ s.OnlyTraffic t s.cur ∧ s.Waits t .message ∧
        s.Sent t .groupDropAtHome { homeTo s 0 h via with key := (s.x rs1).toNat }) ∧
      (s.me.level = .user →
        (g.state = .sealed → ∃ t, exec (.tgseal rs1) s = .next t ∧ s.Completes t s.me (s.me.pc + 4)) ∧
        (g.state ≠ .sealed → g.complete = false → ∃ t, exec (.tgseal rs1) s = .next t ∧ t.me.arch = s.me.arch ∧ t.me.pc = s.me.pc ∧
          t.me.due = none ∧ (Tab.find? t.groups (s.x rs1).toNat).map (·.sealers) = some (g.sealers.filter (· != s.cur) ++ [s.cur])) ∧
        (g.state ≠ .sealed → g.complete = true → ∃ t via, exec (.tgseal rs1) s = .next t ∧ s.OnlyTraffic t s.cur ∧ s.Waits t .message ∧
          s.Sent t .groupSealWriteback { homeTo s 0 h via with key := (s.x rs1).toNat })))

/-- R175 to R191: what the instructions of tabled calls and groups ask of their homes.
Readings and choices of the model that clauses rest on: logs 9, 31. -/
def Obligations.TabledOpsAsk : Prop := tabledCalls ∧ publications ∧ groupOpsAsk

/-- R178, R182, R184, R186, R187, R193, R197, R219, R298 at a slice: a request of an owner other than the slice's is refused; a miss in an
open group creates an entry for its producer, a hit on a done one answers; a look-up changes nothing; an answer found in the backing
table is entered, with the next serial and as the most recently used (log 60), and given; a publication by the producer is kept, and any
other is stale; a consumer reads its cell at its first issue cycle after the clk in which the home writes it; the death of a producer
frees its entry, and a second fails it; an uncorrectable entry is recorded: it is freed if its key cannot be read or nothing pins it, and
else fails. -/
def Sys2Proof.Claims.answerSliceEvents : Prop :=
  ∀ (s : State) (id : Nat) (f : Flight), s.flight? id = some f →
    let cl := f.aux
    let a := (s.cluster cl).answers
    let replies (t : State) (c : Nat) (P : Flight → Prop) : Prop := ∃ g, t.flight? id = some g ∧ g.next = .tcallReply id ∧ g.slot = f.slot ∧
      g.ember = f.ember ∧ g.cause = c ∧ P g
    (a.owner ≠ f.owner →
      (f.next = .tcallAtHome id → ∃ t, exec (.tcallAtHome id) s = .next t ∧ (t.cluster cl).answers.entries = a.entries ∧
        replies t ansRefused fun g => g.tval = BitVec.ofNat 64 f.key) ∧
      (f.next = .tlookAtHome id → ∃ t, exec (.tlookAtHome id) s = .next t ∧ (t.cluster cl).answers.entries = a.entries ∧
        replies t ansRefused fun g => g.tval = BitVec.ofNat 64 f.key) ∧
      (∃ t, exec (.publicationAtHome id) s = .next t ∧ (t.cluster cl).answers.entries = a.entries ∧
        replies t ansRefused fun g => g.tval = f.tval)) ∧
    (∀ g, a.owner = f.owner → a.zero = false → a.reading = none → Tab.find? s.groups f.key = some g → g.table = 0 →
      (f.next = .tcallAtHome id → f.op = 0 → f.dead = false → a.find f.key f.va f.args = none → g.state = .opened →
        a.entries.length < 8192 →
        ∃ t i x, exec (.tcallAtHome id) s = .next t ∧ Tab.find? (t.cluster cl).answers.entries i = some x ∧ x.group = f.key ∧
          x.callee = f.va ∧ x.args = f.args ∧ x.state = .producing ∧ x.producer = f.ember ∧
          replies t ansCreated fun g => g.data = (handleOf cl i x).setWidth 1024) ∧
      (f.next = .tcallAtHome id → f.op = 0 → ∀ i x, a.find f.key f.va f.args = some (i, x) → x.state = .done → ∃ t, exec (.tcallAtHome id) s = .next t ∧
        (t.cluster cl).answers.entries = a.entries ∧ replies t ansDone fun g => g.args = [x.a0, x.a1]) ∧
      (f.next = .tlookAtHome id → f.op = 1 → ∃ t, exec (.tlookAtHome id) s = .next t ∧ (t.cluster cl).answers.entries = a.entries ∧
        replies t ansValue fun g => g.data = BitVec.ofNat 1024 (match (a.find f.key f.va f.args).map (·.2) with
          | none => 0
          | some x => if x.state = .done then 2 else if x.state = .failed then 3 + x.reason.toNat * 256 else 1))) ∧
    (∀ g key e x, a.owner = f.owner → Tab.find? s.groups f.key = some g → a.find f.key f.va f.args = none → a.entries.length < 8192 →
      a.queue = [] → s.backingKey g (keyHash f.key f.va f.args) false = some (key, e) →
      answerOf f.key f.va f.args ((List.range 8).map fun i => BitVec.ofNat 64 (memRead s.mem (key + 8 * i) 8)) ((a.serial + 1) % 65536) = some x →
      x.state = .done → ∃ t, exec (.backingTableLookup id) s = .next t ∧ (t.cluster cl).answers.reading = none ∧
        (∃ i, Tab.find? (t.cluster cl).answers.entries i = some x ∧ (t.cluster cl).answers.lru.head? = some i) ∧
        (t.cluster cl).answers.serial = (a.serial + 1) % 65536 ∧
        (f.op = 0 → replies t ansDone fun g => g.args = [x.a0, x.a1]) ∧ (f.op = 1 → replies t ansValue fun g => g.data = 2)) ∧
    (a.owner = f.owner → a.zero = false → a.reading = none →
      (∀ x, Tab.find? a.entries (bits f.tval.toNat 22 13) = some x → x.state = .producing → x.group = bits f.tval.toNat 48 16 →
        x.serial = f.tval.toNat % 65536 → x.producer = f.ember → f.op = 0 → ∃ t y, exec (.publicationAtHome id) s = .next t ∧
          Tab.find? (t.cluster cl).answers.entries (bits f.tval.toNat 22 13) = some y ∧ y.state = .done ∧ y.a0 = f.args.getD 0 0 ∧
          y.a1 = f.args.getD 1 0 ∧ y.consumers = [] ∧ replies t ansPublished fun g => g.args = []) ∧
      (Tab.find? a.entries (bits f.tval.toNat 22 13) = none → ∃ t, exec (.publicationAtHome id) s = .next t ∧
        (t.cluster cl).answers = a ∧ replies t ansPublished fun g => g.args = [5])) ∧
    (∀ e k c p, cl < nClusters → Tab.find? a.cells e = some c → s.slotOf e = some k → (s.slot k).park = some p → (s.slot k).leaving = false →
      (s.now < c.at_ → exec (.consumerResume cl e) s = .next s) ∧
      (c.at_ ≤ s.now → c.at_ = s.now ∨ s.nextIssue k s.now ≠ s.now → ∃ t, exec (.consumerResume cl e) s = .next t ∧
        Tab.find? (t.cluster cl).answers.cells e = some c ∧ (t.slot k).park = some { p with met := true } ∧
        (t.slot k).arch = (s.slot k).arch ∧ (8 * s.nextIssue k (s.now + 1) + 1, .consumerResume cl e) ∈ t.agenda) ∧
      (c.at_ < s.now → s.nextIssue k s.now = s.now → ∃ t, exec (.consumerResume cl e) s = .next t ∧
        Tab.find? (t.cluster cl).answers.cells e = none ∧
        (t.slot k).pc = (s.slot k).pc + 4 ∧ (t.slot k).tstatus = BitVec.ofNat 64 (c.reason.toNat * 256 + c.out) ∧
        ∀ a0 a1, c.answer = some (a0, a1) → (t.slot k).xr 10 = a0 ∧ (t.slot k).xr 11 = a1)) ∧
    (∀ i x, a.entries = [(i, x)] → x.state = .producing → x.producer = f.ember →
      (x.kills = 0 → x.consumers = [] → ∃ t, exec (.producerKillAtHome id) s = .next t ∧ (t.cluster cl).answers.entries = []) ∧
      (x.kills = 1 → ∃ t y, exec (.producerKillAtHome id) s = .next t ∧ Tab.find? (t.cluster cl).answers.entries i = some y ∧
        y.state = .failed ∧ y.code = 6)) ∧
    (∀ i x, cl < nClusters → i < 8192 → Tab.find? a.entries i = some x → ∃ t, exec (.answerEntryError cl i) s = .next t ∧
      recorded s t (clusterField cl) 7 ∧
      (x.keyBad = true ∨ x.pinned = false → Tab.find? (t.cluster cl).answers.entries i = none) ∧
      (x.keyBad = false → x.pinned = true → ∃ y, Tab.find? (t.cluster cl).answers.entries i = some y ∧ y.state = .failed ∧ y.code = 6 ∧
        y.consumers = [] ∧ y.group = x.group ∧ y.callee = x.callee ∧ y.args = x.args))

/-- R181 to R187: what a home's reply leaves in the calling slot: x31 the handle and x1 the link of a producer, with the PC at the
callee; the answer in x10 and x11; the outcome in `tstatus`; a value in rd; or the PC at the return address; a refusal (R219) is a trap
that the slot takes at its next issue cycle. -/
def Sys2Proof.Claims.tabledReplies : Prop :=
  ∀ (id : Nat) (f : Flight) (s : State), s.flight? id = some f → f.ember ≠ 0 → f.dead = false → (s.slot f.slot).ember = f.ember →
    let v := s.slot f.slot
    let leaves (w : Slot) (pc : Word) : Prop := ∃ t, exec (.tcallReply id) s = .next t ∧ t.flight? id = none ∧ t.mem = s.mem ∧
      (t.slot f.slot).arch = w.arch ∧ (t.slot f.slot).pc = pc ∧ ∀ k, k ≠ f.slot → t.slot k = s.slot k
    (f.cause = 0 → leaves { (v.setX 31 (f.data.setWidth 64)).setX 1 (v.pc + 4) with tstatus := 0 } f.va) ∧
    (f.cause = 1 → leaves { (v.setX 10 (f.args.getD 0 0)).setX 11 (f.args.getD 1 0) with tstatus := 1 } (v.pc + 4)) ∧
    (f.cause = 2 → leaves { v with tstatus := f.args.getD 0 0 } (v.pc + 4)) ∧
    (f.cause = 3 → leaves { v with tstatus := 4 } (v.pc + 4)) ∧
    (f.cause = 5 → leaves { (v.setX 31 0).setX 1 (v.pc + 4) with tstatus := 3 } f.va) ∧
    (f.cause = 6 → leaves (v.setX f.rd (f.data.setWidth 64)) (v.pc + 4)) ∧
    (f.cause = 7 → f.args = [] → leaves v f.va) ∧ (f.cause = 7 → ∀ w, f.args = [w] → leaves { v with tstatus := w } f.va) ∧
    (f.cause = 8 → leaves v (v.pc + 4)) ∧
    (f.cause = ansRefused → ∃ t, exec (.tcallReply id) s = .next t ∧ t.flight? id = none ∧ (t.slot f.slot).arch = v.arch ∧
      (t.slot f.slot).pc = v.pc ∧ (t.slot f.slot).trapNow = some (0x10, f.tval))

/-- R177, R188 to R195 at a group home: the lowest free ID is given out; a close, a seal and a drop change the group's state; a report
moves the counts P and publications (one about an earlier group of the same ID, told by `born`, counts for nothing); a probe round asks
every slice, each answers with its latest number, and the answers confirm. -/
def Sys2Proof.Claims.groupEvents : Prop :=
  ∀ (s : State) (id : Nat) (f : Flight), s.flight? id = some f →
    let ended (t : State) : Prop := ∃ g, t.flight? id = some g ∧ g.next = .tcallReply id ∧ g.cause = ansOver ∧ g.slot = f.slot
    (lowestFree s.groups 1 < 65536 → ∃ t v g, exec (.groupOpenAtHome id) s = .next t ∧
      Tab.find? t.groups (lowestFree s.groups 1) = some v ∧ v.state = .opened ∧ v.owner = f.owner ∧ v.asid = f.asid ∧ v.region = f.key ∧
      v.cword = f.args.getD 0 0 ∧ v.table = f.args.getD 1 0 ∧ v.p = 0 ∧ t.flight? id = some g ∧ g.cause = ansValue ∧
      g.data = BitVec.ofNat 1024 (lowestFree s.groups 1)) ∧
    (∀ v, Tab.find? s.groups f.key = some v →
      (∃ t w, exec (.groupCloseAtHome id) s = .next t ∧ Tab.find? t.groups f.key = some w ∧ ended t ∧
        w.state = (if v.state = .opened then .closed else v.state) ∧ (v.p = 0 → w.complete = true)) ∧
      (v.complete = true → ∃ t w, exec (.groupSealWriteback id) s = .next t ∧ Tab.find? t.groups f.key = some w ∧ w.state = .sealed ∧ ended t) ∧
      (∃ t, exec (.groupDropAtHome id) s = .next t ∧ Tab.find? t.groups f.key = none ∧ ended t)) ∧
    (∀ v, Tab.find? s.groups f.aux = some v →
      (f.tval ≠ BitVec.ofNat 64 v.born → ∃ t, exec (.groupReport id) s = .next t ∧ t.groups = s.groups) ∧
      (f.tval = BitVec.ofNat 64 v.born → ∃ t w, exec (.groupReport id) s = .next t ∧ Tab.find? t.groups f.aux = some w ∧
        w.p = (if f.op = 0 then v.p + 1 else if f.op = 3 ∨ f.op = 4 then v.p - 1 else v.p) ∧
        w.pubs = (if f.op = 3 then v.pubs + 1 else v.pubs) ∧ w.state = v.state) ∧
      (∃ t g, exec (.probeQuestion id) s = .next t ∧ t.flight? id = some g ∧ g.next = .probeAnswer id ∧
        g.rd = Tab.get (s.cluster f.key).answers.reports f.aux 0 ∧ ∃ n, (8 * n + 1, .probeAnswer id) ∈ t.agenda) ∧
      (∀ p, v.probe = some p → f.tval = BitVec.ofNat 64 v.born →
        (f.op ≠ 1 → ∃ t w, exec (.probeAnswer id) s = .next t ∧ Tab.find? t.groups f.aux = some w ∧
          w.probe = some ⟨p.left - 1, p.good && f.rd == Tab.get v.latest f.key 0⟩) ∧
        (f.op = 1 → p.good = true → ∃ t w, exec (.probeAnswer id) s = .next t ∧ Tab.find? t.groups f.aux = some w ∧ w.probe = none ∧
          w.changed = s.now ∧ ∀ q ∈ w.producers, q.2.2 = false)) ∧
      (∀ h r, v.p = v.w → v.p ≠ 0 → v.due ≤ s.now → v.probe = none → s.groupHome v = some h →
        Tab.find? s.regions v.region = some r → ∃ t w, exec (.probeRoundStart f.aux) s = .next t ∧ Tab.find? t.groups f.aux = some w ∧
          w.probe = some ⟨r.clusters.length, true⟩))

/-- R177 to R198, R219, R298: what slices and group homes do, and what their replies leave.
Readings and choices of the model that clauses rest on: logs 31, 60, 69. -/
def Obligations.TabledEvents : Prop := answerSliceEvents ∧ tabledReplies ∧ groupEvents

/-- R45, R146, R149 to R152, R161: a lane instruction that is illegal under `vtype` and `fcsr`.FRM, or whose window another slot holds,
traps; with a full buffer it waits; else it enters the buffer with what it captures. A slot that does not hold its free window claims
it, and its rows are zero. A word of an open repeat body is marked so and counted; with its last word the body is whole, or is dropped
where its count is 0. -/
def Sys2Proof.Claims.laneOpsEnter : Prop :=
  ∀ p ∈ laneOps, ∀ (rd rs1 rs2 : Reg) (s : State),
    let i := p.1 rd rs1 rs2
    let b : Reg := if p.2.2.2.2.2 then rs2 else 0
    let ok := p.2.1.legal p.2.2.1 (s.me.vtype.toNat % 8) s.me.frm.toNat (b.toNat % 8) false
    let e : VEntry := { op := p.2.1, form := p.2.2.1, vd := if p.2.2.2.1 then rd.toNat else 0,
                        vs1 := if p.2.2.2.2.1 then rs1.toNat else 0, vs2 := b.toNat, b := operandB p.2.2.1 s b }
    let taken := s.me.accHeld = false ∧ s.windowTaken s.cur s.me.accWin.toNat = true
    (ok = false ∨ taken → ∃ t, exec i s = .next t ∧ s.Traps t s.cur false 0x01 (s.me.word.setWidth 64) s.me.pc) ∧
    (ok = true → ¬ taken → 16 ≤ s.me.vbuf.length → ∃ t, exec i s = .next t ∧ s.NotReady t) ∧
    (ok = true → canEnter s.me → ∃ t, exec i s = .next t ∧ entered s t e) ∧
    (ok = true → ¬ taken → s.me.accHeld = false → s.me.vbuf.length < 16 → s.me.inBody = false → ∃ t, exec i s = .next t ∧
      t.me.vbuf = s.me.vbuf ++ [captured s e] ∧ t.me.arch = ({ s.me with accHeld := true } : Slot).arch ∧ t.me.pc = s.me.pc + 4 ∧
      t.mem = s.mem ∧ ∀ r, t.row s.cur r = 0) ∧
    (∀ r, ok = true → s.me.accHeld = true → s.me.vbuf.length < 16 → s.me.rep = some r → 1 < r.left → ∃ t, exec i s = .next t ∧
      t.me.vbuf = s.me.vbuf ++ [{ captured s e with body := true }] ∧ t.me.rep = some { r with left := r.left - 1 } ∧
      t.me.arch = s.me.arch ∧ t.me.pc = s.me.pc + 4) ∧
    (∀ r, ok = true → s.me.accHeld = true → s.me.vbuf.length < 16 → s.me.rep = some r → r.left = 1 → ∃ t, exec i s = .next t ∧
      t.me.arch = s.me.arch ∧ t.me.pc = s.me.pc + 4 ∧
      (r.count = 0 → t.me.rep = none ∧ t.me.vbuf = s.me.vbuf.filter fun e => !e.body) ∧
      (0 < r.count → t.me.rep = some { r with left := 0 } ∧ t.me.vbuf =
        s.me.vbuf.map (fun e => if e.body then { e with at_ := s.now } else e) ++ [{ captured s e with body := true }]))

/-- R159, R160, R161: `vcvt` enters the buffer with its target type; a reduction enters it and holds its slot until it has executed;
`vrep` opens a repeat body, and is illegal under a reserved ET or with a count of 2^16 or more. -/
def Sys2Proof.Claims.vectorOpsEnter : Prop :=
  ∀ (rd rs1 rs2 : Reg) (ty cnt : BitVec 4) (adv : BitVec 3) (s : State),
    (let ok := VOp.cvt.legal .unary (s.me.vtype.toNat % 8) s.me.frm.toNat (ty.toNat % 8) false
     (ok = false → ∃ t, exec (.vcvt rd rs1 ty) s = .next t ∧ s.Traps t s.cur false 0x01 (s.me.word.setWidth 64) s.me.pc) ∧
     (ok = true → canEnter s.me → ∃ t, exec (.vcvt rd rs1 ty) s = .next t ∧
      entered s t { op := .cvt, vd := rd.toNat, vs1 := rs1.toNat, vs2 := ty.toNat, b := ty.setWidth 64 })) ∧
    (∀ p ∈ reductionOps,
      let ok := p.2.1.legal .unary (s.me.vtype.toNat % 8) s.me.frm.toNat 0 p.2.2
      (ok = false → ∃ t, exec (p.1 rd rs1 rs2) s = .next t ∧ s.Traps t s.cur false 0x01 (s.me.word.setWidth 64) s.me.pc) ∧
      (ok = true → canEnter s.me → ∃ t, exec (p.1 rd rs1 rs2) s = .next t ∧ s.Waits t .memory ∧ t.mem = s.mem ∧
        let b : Word := if p.2.1 = .get then s.x rs2 else 0
        t.me.vbuf = s.me.vbuf ++ [captured s { op := p.2.1, rd := rd.toNat, isF := p.2.2, vs1 := rs1.toNat, b := b }])) ∧
    (6 ≤ s.me.vtype.toNat % 8 ∨ 2 ^ 16 ≤ (s.x rs1).toNat → ∃ t, exec (.vrep cnt rs1 rs2 adv) s = .next t ∧
      s.Traps t s.cur false 0x01 (s.me.word.setWidth 64) s.me.pc) ∧
    (s.me.vtype.toNat % 8 < 6 → (s.x rs1).toNat < 2 ^ 16 → s.me.rep = none → ∃ t, exec (.vrep cnt rs1 rs2 adv) s = .next t ∧
      s.Completes t { s.me with rep := some { left := cnt.toNat + 1, size := cnt.toNat + 1, count := (s.x rs1).toNat, stride := rs2.toNat,
                                              mask := adv.toNat, round := 0, place := 0 } } (s.me.pc + 4))

/-- R141, R143, R167 to R171: a row access or row message whose checks pass enters the buffer with the key of its row (and of the
block's exponent); `vlr` finds its address's faults at issue; `send.v` counts its message at issue, and `recv.v` takes its own. -/
def Sys2Proof.Claims.rowOpsEnter : Prop :=
  ∀ (rd rs1 rs2 : Reg) (s : State) (key : Nat) (tl : Option TlbEntry), canEnter s.me →
    (s.access s.cur .load (s.x rs1) 128 = .ok key tl →
      (s.ownerOk key s.me.owner (readOnly tl) = true → s.badWord key 128 = none → ∃ t, exec (.vlr rd rs1) s = .next t ∧
        entered s t { op := .lr, vd := rd.toNat, b := s.x rs1, key := key, ro := readOnly tl }) ∧
      (s.ownerOk key s.me.owner (readOnly tl) = false → ∃ t, exec (.vlr rd rs1) s = .next t ∧
        (s.touch s.cur tl).Traps t s.cur false 0x10 (s.x rs1) s.me.pc)) ∧
    (s.access s.cur .store (s.x rs1) 128 = .ok key tl → ∃ t, exec (.vsr rs1 rs2) s = .next t ∧
      entered s t { op := .sr, vs2 := rs2.toNat, b := s.x rs1, key := key }) ∧
    (inStore (s.x rs1) = true → (s.x rs1).toNat % 4 = 0 → s.storeKey (s.x rs1) = some key → s.ownerOk key s.me.owner false = true →
      ∃ t, exec (.vlrg rd rs1 rs2) s = .next t ∧ entered s t { op := .lrg, vd := rd.toNat, vs2 := rs2.toNat, b := s.x rs1, key := key }) ∧
    (∀ m km ke, s.plane s.cur (s.x rs2) = .ok (m, km, ke) → s.me.vtype.toNat % 8 = 0 → s.me.frm.toNat < 5 →
      (∃ t, exec (.vqnt rs1 rs2) s = .next t ∧ entered s t { op := .qnt, vs1 := rs1.toNat, vd := m, key := km, b := BitVec.ofNat 64 ke }) ∧
      (∃ t, exec (.vdqnt rd rs2) s = .next t ∧ entered s t { op := .dqnt, vd := rd.toNat, vs1 := m, key := km, b := BitVec.ofNat 64 ke })) ∧
    (∀ dst, s.sendCheck s.me.owner (s.x rs1) = .ok dst → s.me.stores < 63 → ∃ t, exec (.sendV rs1 rs2) s = .next t ∧
      entered s t { op := .sendV, vs2 := rs2.toNat, rd := dst, key := s.nextId, b := s.x rs1 } ∧
        ∃ r, t.me.outs = s.me.outs ++ [⟨s.nextId, true, dst, some r, false, none⟩]) ∧
    (∀ m r', s.me.level = .user → (s.queue (slotCore s.cur) (bits (s.x rs1).toNat 36 3)).take s.me.ember = some (m, r') →
      ∃ t, exec (.recvV rd rs1) s = .next t ∧ entered s t { op := .recvV, vd := rd.toNat, data := m.row_ } ∧
        t.queue (slotCore s.cur) (bits (s.x rs1).toNat 36 3) = r')

/-- R173, R245: at supervisor level `vsave` stores the rows of the window to the slot's own slice, word by word from row 0 on (the words
that are not performed at once follow in the same clk, log 57), and lets the window go; `vrest` reads its 512 words so and waits, and
completes once all rows have arrived (`windowArrives`). -/
def Sys2Proof.Claims.windowMoves : Prop :=
  ∀ (rs1 : Reg) (s : State) (key : Nat), s.me.level = .supervisor → s.OwnSlice (s.x rs1) 4096 key → s.me.windowIdle = true →
    (∀ p ∈ s.flights, p.2.slot ≠ s.cur) → (s.core (slotCore s.cur)).sliceHeld = [] →
    (s.me.loadIds = [] → ∃ t j, exec (.vsave rs1) s = .next t ∧ t.me.accHeld = false ∧ t.me.pc = s.me.pc + 4 ∧ t.me.x = s.me.x ∧
      t.me.f = s.me.f ∧ 0 < j ∧ j ≤ 512 ∧ (∀ b, memGet t.mem b = if key ≤ b ∧ b < key + 8 * j then
        byteOf (s.row s.cur ((b - key) / 128)).toNat ((b - key) % 128) else memGet s.mem b) ∧
      ∀ r < 32, 8 * j < 128 * r + 128 → (8 * s.now + 4, .farStoreAtHome (s.nextId + r)) ∈ t.agenda ∧
        ∃ g, t.flight? (s.nextId + r) = some g ∧ g.key = key + 128 * r ∧ g.size = 128 ∧ g.part = 8 * j - 128 * r ∧
          g.data = s.row s.cur r ∧ g.near = true) ∧
    (s.windowTaken s.cur s.me.accWin.toNat = false → ∃ t g, exec (.vrest rs1) s = .next t ∧ s.Waits t .memory ∧ t.mem = s.mem ∧
      t.flight? s.nextId = some g ∧ g.op = opWindow ∧ g.near = true ∧ g.cause = 0 ∧
      let words (n : Nat) : List Word := (List.range n).map fun i => BitVec.ofNat 64 (memRead s.mem (key + 8 * i) 8)
      ((g.args = words 512 ∧ (8 * (s.now + s.clk (slotField s.cur) 35 + 1) + 1, .loadReply s.nextId) ∈ t.agenda) ∨
        ∃ n, 0 < n ∧ n < 512 ∧ g.took = words n ∧ (8 * s.now + 4, .farLoadAtHome s.nextId) ∈ t.agenda)) ∧
    (s.windowTaken s.cur s.me.accWin.toNat = true → ∃ t, exec (.vrest rs1) s = .next t ∧
      s.Traps t s.cur false 0x01 (s.me.word.setWidth 64) s.me.pc)

/-- R173: the rows that a `vrest` asked for arrive: they are written to the window, which is held now, and the instruction completes. -/
def Sys2Proof.Claims.windowArrives : Prop :=
  ∀ (id : Nat) (f : Flight) (s : State), s.flight? id = some f → f.op = opWindow → f.cause = 0 → f.ember ≠ 0 → f.dead = false →
    (s.slot f.slot).ember = f.ember → ∃ t, exec (.loadReply id) s = .next t ∧ t.mem = s.mem ∧
      (t.slot f.slot).accHeld = true ∧ (t.slot f.slot).pc = (s.slot f.slot).pc + 4 ∧ (t.slot f.slot).x = (s.slot f.slot).x ∧
      (t.slot f.slot).f = (s.slot f.slot).f ∧
      ∀ r < 32, ∀ i < 16, laneAt (t.row f.slot r) 8 i = (f.args.getD (16 * r + i) 0).toNat

/-- R45, R46, R141 to R173: vector instructions at issue.
Readings and choices of the model that clauses rest on: logs 9, 34, 57, 62. -/
def Obligations.VectorIssue : Prop := laneOpsEnter ∧ vectorOpsEnter ∧ rowOpsEnter ∧ windowMoves ∧ windowArrives

/-- R147 to R149, R153, R154, R156: on integer lanes an entry of the arithmetic group delivers its exact result, wrapped or saturated;
and at every element type the logic group acts on the lanes' patterns. -/
def Sys2Proof.Claims.integerLanes : Prop :=
  ∀ (s : State) (k : Nat) (e : VEntry) (rest : List VEntry), ready s k e rest → e.et ≤ 5 →
    let w := etW e.et
    let x (i : Nat) : Nat := laneAt (s.row k e.vs1) w i
    let a (i : Nat) : Int := laneInt w (x i)
    let b (i : Nat) : Int := laneInt w (laneB s k e false i)
    let c (i : Nat) : Int := laneInt w (laneAt (s.row k e.vd) w i)
    let n (i : Nat) : Nat := laneB s k e true i % (8 * w)
    let writes (f : Nat → Nat) : Prop := lanesWritten s k e rest w fun i => (f i, 0)
    (3 ≤ e.et →
      (e.op = .add → writes fun i => deliver e.sat w (a i + b i)) ∧ (e.op = .sub → writes fun i => deliver e.sat w (a i - b i)) ∧
      (e.op = .mul → writes fun i => deliver e.sat w (a i * b i)) ∧ (e.op = .fma → writes fun i => deliver e.sat w (c i + a i * b i)) ∧
      (e.op = .fnma → writes fun i => deliver e.sat w (c i - a i * b i)) ∧
      (e.op = .min → writes fun i => deliver e.sat w (min (a i) (b i))) ∧
      (e.op = .max → writes fun i => deliver e.sat w (max (a i) (b i)))) ∧
    (e.op = .land → writes fun i => x i &&& laneB s k e false i) ∧ (e.op = .lor → writes fun i => x i ||| laneB s k e false i) ∧
    (e.op = .lxor → writes fun i => x i ^^^ laneB s k e false i) ∧ (e.op = .sll → writes fun i => x i * 2 ^ n i) ∧
    (e.op = .srl → writes fun i => x i / 2 ^ n i) ∧ (e.op = .sra → writes fun i => (BitVec.ofInt (8 * w) (a i / 2 ^ n i)).toNat)

/-- R66, R151, R153: on floating-point lanes an entry of the arithmetic group writes the exact result rounded once in the captured mode,
and minimum and maximum their choice. Where the chosen value is an FP32 scalar that the lane format cannot hold, the lane receives a free
value (log 16). -/
def Sys2Proof.Claims.floatLanes : Prop :=
  ∀ (s : State) (k : Nat) (e : VEntry) (rest : List VEntry) (f : Fmt), ready s k e rest → etFmt e.et = some f →
    let w := etW e.et
    let a (i : Nat) : Machine.Num := unpack f (laneAt (s.row k e.vs1) w i)
    let b (i : Nat) : Machine.Num := numB s k e f i
    let c (i : Nat) : Machine.Num := unpack f (laneAt (s.row k e.vd) w i)
    let writes (g : Nat → Machine.Num × Fl) : Prop := lanesWritten s k e rest w fun i =>
      ((roundTo f e.rm (g i).1).1, (roundTo f e.rm (g i).1).2 ||| (g i).2)
    let chooses (max : Bool) : Prop :=
      if e.form = .vf ∧ f ≠ fp32 then ∃ o : Nat → Nat, lanesWritten s k e rest w fun i =>
        minMaxScalar f max (laneAt (s.row k e.vs1) w i) (e.b.toNat % 2 ^ 32) (o i)
      else lanesWritten s k e rest w fun i =>
        minMax f max (laneAt (s.row k e.vs1) w i) (if e.form = .vf then e.b.toNat % 2 ^ 32 else laneAt (s.row k e.vs2) w i)
    (e.op = .add → writes fun i => sumN e.rm [a i, b i]) ∧ (e.op = .sub → writes fun i => sumN e.rm [a i, (b i).neg]) ∧
    (e.op = .mul → writes fun i => mulN (a i) (b i)) ∧
    (e.op = .fma → writes fun i => let p := mulN (a i) (b i); let r := sumN e.rm [p.1, c i]; (r.1, p.2 ||| r.2)) ∧
    (e.op = .fnma → writes fun i => let p := mulN (a i) (b i); let r := sumN e.rm [p.1.neg, c i]; (r.1, p.2 ||| r.2)) ∧
    (e.op = .min → chooses false) ∧ (e.op = .max → chooses true)

/-- R148, R155: a compare writes the mask bits of the enabled lanes below L, keeps the others, and changes no row. -/
def Sys2Proof.Claims.comparesSetMask : Prop :=
  ∀ (s : State) (k : Nat) (e : VEntry) (rest : List VEntry), ready s k e rest → e.et ≤ 5 →
    let w := etW e.et
    let on := (List.range (etL e.et)).filter (s.slot k).enabled
    let writes (p : Nat → Bool × Fl) : Prop := ∃ t, executed s t k rest (on.foldl (fun x i => x ||| (p i).2) 0) ∧ t.mem = s.mem ∧
      (∀ i < 128, (t.slot k).enabled i = if i ∈ on then (p i).1 else (s.slot k).enabled i) ∧ ∀ r, t.row k r = s.row k r
    (3 ≤ e.et →
      let a (i : Nat) : Int := laneInt w (laneAt (s.row k e.vs1) w i)
      let b (i : Nat) : Int := laneInt w (laneB s k e false i)
      (e.op = .ceq → writes fun i => (decide (a i = b i), 0)) ∧ (e.op = .cne → writes fun i => (decide (a i ≠ b i), 0)) ∧
      (e.op = .clt → writes fun i => (decide (a i < b i), 0)) ∧ (e.op = .cle → writes fun i => (decide (a i ≤ b i), 0))) ∧
    (∀ f, etFmt e.et = some f →
      let a (i : Nat) : Machine.Num := unpack f (laneAt (s.row k e.vs1) w i)
      let b (i : Nat) : Machine.Num := numB s k e f i
      let anyNan (i : Nat) : Fl := if (a i).isNan || (b i).isNan then nv else 0
      (e.op = .ceq → writes fun i => (eqN (a i) (b i), (a i).nvIf ||| (b i).nvIf)) ∧
      (e.op = .cne → writes fun i => (!eqN (a i) (b i), (a i).nvIf ||| (b i).nvIf)) ∧
      (e.op = .clt → writes fun i => (ltN (a i) (b i), anyNan i)) ∧
      (e.op = .cle → writes fun i => (ltN (a i) (b i) || eqN (a i) (b i), anyNan i)))

/-- R156, R157: `vsel` writes every lane; the lane-moving instructions write the enabled ones, from lanes read before any is written. -/
def Sys2Proof.Claims.lanesMove : Prop :=
  ∀ (s : State) (k : Nat) (e : VEntry) (rest : List VEntry), ready s k e rest → e.et ≤ 5 →
    let w := etW e.et
    let x (i : Nat) : Nat := laneAt (s.row k e.vs1) w i
    let v := s.slot k
    let writes (f : Nat → Nat × Fl) : Prop := lanesWritten s k e rest w f
    (e.op = .sel → ∃ t, executed s t k rest (if e.form = .vf then (valueB s k e 0).2 else 0) ∧ t.mem = s.mem ∧ (t.slot k).vmk = v.vmk ∧
      (t.slot k).vmkh = v.vmkh ∧ (∀ r, r % 32 ≠ e.vd % 32 → t.row k r = s.row k r) ∧
      ∀ i < 128 / w, laneAt (t.row k e.vd) w i = (if v.enabled i then x i else (valueB s k e i).1) % 2 ^ (8 * w)) ∧
    (e.op = .perm → writes fun i => (x (laneAt (s.row k e.vs2) w i % (128 / w)), 0)) ∧
    (e.op = .rot → writes fun i =>
      let b : Int := if e.form = .vi then (e.b.extractLsb' 0 5).toInt else e.b.toInt
      (x (((i : Int) - b) % (128 / w : Nat)).toNat, 0)) ∧
    (e.op = .bc → writes fun i => valueB s k e i) ∧
    (e.op = .mv → writes fun i => (x i, 0)) ∧
    (e.op = .neg → writes fun i => (if e.et < 3 then x i ^^^ 2 ^ (8 * w - 1) else deliver e.sat w (-laneInt w (x i)), 0)) ∧
    (e.op = .abs → writes fun i => (if e.et < 3 then x i % 2 ^ (8 * w - 1) else deliver e.sat w (laneInt w (x i)).natAbs, 0))

/-- R158: a special function of the enabled lanes: FP32 lanes receive its FP32 result; BF16 and FP16 lanes are widened first, and the
result is narrowed in the captured mode. The special values and the operands beyond the ranges give what the table says. -/
def Sys2Proof.Claims.specialFunctions : Prop :=
  (∀ (s : State) (k : Nat) (e : VEntry) (rest : List VEntry) (f : Fmt), ready s k e rest → etFmt e.et = some f →
    let x (i : Nat) : Nat := laneAt (s.row k e.vs1) (etW e.et) i
    ∀ p ∈ [(VOp.rcp, rcpF), (.rsq, rsqF), (.exp2, exp2F), (.log2, log2F), (.tanh, tanhF)], e.op = p.1 →
      lanesWritten s k e rest (etW e.et) fun i =>
        if f = fp32 then p.2 (x i)
        else
          let a := roundTo fp32 .rne (unpack f (x i))
          let y := p.2 a.1
          let z := roundTo f e.rm (unpack fp32 y.1)
          (z.1, (a.2 ||| (unpack f (x i)).nvIf) ||| y.2 ||| (z.2 ||| (unpack fp32 y.1).nvIf))) ∧
  (∀ g ∈ [rcpF, rsqF, exp2F, log2F, tanhF], ∀ x s, unpack fp32 x = .nan s → g x = (fp32.nan, if s then nv else 0)) ∧
  (∀ p ∈ [(rcpF, [(0, 0x7F800000, dz), (0x80000000, 0xFF800000, dz), (0x7F800000, 0, 0), (0xFF800000, 0x80000000, 0),
      (0x00200000, 0x7F800000, ovf ||| nx), (0x80200000, 0xFF800000, ovf ||| nx), (0x40000000, 0x3F000000, 0)]),
    (rsqF, [(0, 0x7F800000, dz), (0x80000000, 0xFF800000, dz), (0x7F800000, 0, 0), (0xFF800000, 0x7FC00000, nv),
      (0xBF800000, 0x7FC00000, nv), (0x40800000, 0x3F000000, 0)]),
    (exp2F, [(0xFF800000, 0, 0), (0x7F800000, 0x7F800000, 0), (0x43000000, 0x7F800000, ovf ||| nx), (0xC3160000, 0, uf ||| nx),
      (0x40400000, 0x41000000, 0)]),
    (log2F, [(0, 0xFF800000, dz), (0x80000000, 0xFF800000, dz), (0xBF800000, 0x7FC00000, nv), (0x7F800000, 0x7F800000, 0),
      (0x3F800000, 0, 0), (0x41000000, 0x40400000, 0)]),
    (tanhF, [(0, 0, 0), (0x80000000, 0x80000000, 0), (0x7F800000, 0x3F800000, 0), (0xFF800000, 0xBF800000, 0),
      (0x41180000, 0x3F800000, nx), (0xC1180000, 0xBF800000, nx)])], ∀ q ∈ p.2, p.1 q.1 = (q.2.1, q.2.2))

/-- R78, R83, R84, R159: `vcvt`: source lane i goes to destination lane i; enabled destination lanes beyond the source are zero. -/
def Sys2Proof.Claims.lanesConvert : Prop :=
  ∀ (s : State) (k : Nat) (e : VEntry) (rest : List VEntry), ready s k e rest → e.op = .cvt → e.et ≤ 5 →
    let g := e.b.toNat % 8
    let w := etW e.et
    let x (i : Nat) : Nat := laneAt (s.row k e.vs1) w i
    let writes (f : Nat → Nat × Fl) : Prop := lanesWritten s k e rest (etW g) fun i => if i < 128 / w then f i else (0, 0)
    let limit : Int := 2 ^ (8 * etW g - 1)
    (∀ a b, etFmt e.et = some a → etFmt g = some b →
      writes fun i => ((roundTo b e.rm (unpack a (x i))).1, (roundTo b e.rm (unpack a (x i))).2 ||| (unpack a (x i)).nvIf)) ∧
    (∀ a, etFmt e.et = some a → 3 ≤ g → g ≤ 5 → writes fun i =>
      let r := toInt e.rm (-limit) (limit - 1) (unpack a (x i))
      ((BitVec.ofInt (8 * etW g) r.1).toNat, r.2)) ∧
    (∀ b, 3 ≤ e.et → etFmt g = some b → writes fun i =>
      let v := laneInt w (x i)
      roundTo b e.rm (.fin (decide (v < 0)) v.natAbs 0)) ∧
    (3 ≤ e.et → 3 ≤ g → g ≤ 5 → writes fun i => (deliver (e.b.getLsbD 3) (etW g) (laneInt w (x i)), 0))

/-- R66, R94, R160: a reduction or lane read leaves its scalar in rd, raises its flags, and completes its instruction. -/
def Sys2Proof.Claims.lanesReduce : Prop :=
  ∀ (s : State) (k : Nat) (e : VEntry) (rest : List VEntry), ready s k e rest → e.et ≤ 5 →
    let w := etW e.et
    let v := s.slot k
    let x (i : Nat) : Nat := laneAt (s.row k e.vs1) w i
    let on := (List.range (etL e.et)).filter v.enabled
    let pick := e.b.toNat % etL e.et
    let gives (r : Word) (fl : Fl) : Prop := ∃ t, exec (.vectorEntryExecute k) s = .next t ∧ (t.slot k).vbuf = rest ∧ t.mem = s.mem ∧
      (∀ q, t.row k q = s.row k q) ∧ (t.slot k).pc = v.pc + 4 ∧
      (t.cluster (slotCluster k)).flagUnion = (s.cluster (slotCluster k)).flagUnion ||| fl ∧
      (t.slot k).arch =
        ({ (if e.isF then v.setF e.rd (r.setWidth 32) else v.setX e.rd r) with fflags := v.fflags ||| fl } : Slot).arch
    (3 ≤ e.et →
      let a (i : Nat) : Int := laneInt w (x i)
      (e.op = .rsum → gives (BitVec.ofInt 64 (on.map a).sum) 0) ∧ (e.op = .get → gives (BitVec.ofInt 64 (a pick)) 0) ∧
      (∀ p ∈ [(VOp.rmax, max), (VOp.rmin, min)], e.op = p.1 →
        gives (BitVec.ofInt 64 ((on.map a).foldl p.2 ((on.map a).headD 0))) 0)) ∧
    (∀ f, etFmt e.et = some f →
      let wide (n : Nat) (fl : Fl) (q : Word → Fl → Prop) : Prop :=
        if f = fp32 then q (BitVec.ofNat 64 n) fl
        else q (BitVec.ofNat 64 (widen f n).1) (fl ||| (widen f n).2)
      (e.op = .get → wide (x pick) 0 gives) ∧
      (e.op ∈ [.rmax, .rmin] → on = [] → gives 0 0) ∧
      (∀ p ∈ [(VOp.rmax, true), (VOp.rmin, false)], e.op = p.1 → on ≠ [] →
        let r := on.foldl (fun (q : Nat × Fl) i => ((minMax f p.2 q.1 (x i)).1, q.2 ||| (minMax f p.2 q.1 (x i)).2))
          (x (on.headD 0), 0)
        wide r.1 r.2 gives) ∧
      (e.op = .rsum →
        let leaf (i : Nat) : Nat × Fl := if f = fp32 then (x i, 0) else widen f (x i)
        let r := sumTree e.rm (Nat.log2 (etL e.et)) ((List.range (etL e.et)).map fun i => if v.enabled i then some (leaf i).1 else none)
        let fl := on.foldl (fun y i => y ||| (leaf i).2) r.2
        gives (BitVec.ofNat 64 (if (unpack fp32 r.1).isNan then fp32.nan else r.1)) (fl ||| (unpack fp32 r.1).nvIf)))

/-- R162: the butterfly reads all 32 FP32 lanes, rounds at every stage, and is written to the enabled lanes; `vhad.s` scales it by 2^−5. -/
def Sys2Proof.Claims.butterflies : Prop :=
  ∀ (s : State) (k : Nat) (e : VEntry) (rest : List VEntry), ready s k e rest →
    let x := laneAt (s.row k e.vs1) 4
    let y := stages e.rm x 5
    let fl := stageFlags e.rm x 5
    let scaled (i : Nat) : Nat × Fl := mulF fp32 e.rm (y i) 0x3D000000
    let writes (f : Nat → Nat) (fl : Fl) : Prop := ∃ t, executed s t k rest fl ∧ t.mem = s.mem ∧ (∀ r, r % 32 ≠ e.vd % 32 → t.row k r = s.row k r) ∧
      ∀ i < 32, laneAt (t.row k e.vd) 4 i = if (s.slot k).enabled i then f i % 2 ^ 32 else laneAt (s.row k e.vd) 4 i
    (e.op = .had → writes y fl) ∧
    (e.op = .hadS → writes (fun i => (scaled i).1) ((List.range 32).foldl (fun a i => a ||| (scaled i).2) fl))

/-- R163 to R165: the algebra instructions through the table of the captured slot: an element whose lanes are all enabled is written whole,
any other keeps its lanes. -/
def Sys2Proof.Claims.algebraLanes : Prop :=
  ∀ (s : State) (k : Nat) (e : VEntry) (rest : List VEntry) (f : Fmt), ready s k e rest → etFmt e.et = some f → e.et ≤ 1 →
    let w := etW e.et
    let d := e.dv
    let tab := (s.cluster (slotCluster k)).table e.aslot
    let x (i : Nat) : Nat := laneAt (s.row k e.vs1) w i
    let a (i p : Nat) : Machine.Num := unpack f (x (i / d * d + p))
    let b (i p : Nat) : Machine.Num := unpack f (laneAt (s.row k e.vs2) w (i / d * d + p))
    let whole (i : Nat) : Bool := (List.range d).all fun p => (s.slot k).enabled (i / d * d + p)
    let writes (g : Nat → Nat × Fl) : Prop :=
      ∃ t, executed s t k rest (((List.range (128 / w)).filter whole).foldl (fun y i => y ||| (g i).2) 0) ∧ t.mem = s.mem ∧
        (∀ r, r % 32 ≠ e.vd % 32 → t.row k r = s.row k r) ∧
        ∀ i < 128 / w, laneAt (t.row k e.vd) w i = if whole i then (g i).1 % 2 ^ (8 * w) else laneAt (s.row k e.vd) w i
    let rounds (p : Machine.Num × Fl) : Nat × Fl := ((roundTo f e.rm p.1).1, (roundTo f e.rm p.1).2 ||| p.2)
    let terms (i : Nat) (l : List (Nat × Nat)) (k : Nat) (g : Nat → Nat → Machine.Num × Fl) : Machine.Num × Fl :=
      let on := l.filterMap fun q => (tableCoef tab q.1 q.2).bind fun c =>
        if c.k = k then some ((if i = 1 ∧ tableConj tab q.1 then (c.apply (g q.1 q.2).1).neg else c.apply (g q.1 q.2).1), (g q.1 q.2).2) else none
      ((sumN e.rm (on.map (·.1))).1, on.foldl (fun y q => y ||| q.2) (sumN e.rm (on.map (·.1))).2)
    let n := min d (tableD tab)
    (e.op = .amul → writes fun i => rounds (terms 0 ((List.range n).flatMap fun p => (List.range n).map fun q => (p, q)) (i % d)
      fun p q => mulN (a i p) (b i q))) ∧
    (e.op = .conj → writes fun i => (if tableConj tab (i % d) && !(unpack f (x i)).isNan then x i ^^^ 2 ^ (8 * w - 1) else x i, 0)) ∧
    (e.op = .norm → writes fun i => if i % d = 0 then
      rounds (terms 1 ((List.range n).map fun p => (p, p)) 0 fun p _ => mulN (a i p) (a i p)) else (0, 0))

/-- R147 to R160, R162 to R166: what an executed entry writes.
Readings and choices of the model that clauses rest on: logs 12 (the exact values of the special functions), 16, 33. -/
def Obligations.LanesComputed : Prop :=
  integerLanes ∧ floatLanes ∧ comparesSetMask ∧ lanesMove ∧ specialFunctions ∧ lanesConvert ∧ lanesReduce ∧ butterflies ∧ algebraLanes

/-- R161: an entry of a repeat body that is whole executes with its fields advanced as the round says, just as the advanced word would; the
repetition goes on with the next entry, then with the next round, and the body leaves the buffer after the last. -/
def Sys2Proof.Claims.bodiesRepeat : Prop :=
  ∀ (s : State) (k : Nat) (h e : VEntry) (tail : List VEntry) (r : Repeat), k < nSlots → (s.slot k).vbuf = h :: tail → h.body = true →
    h.op ≠ .tile → (s.slot k).rep = some r → r.left = 0 → (h :: tail)[r.place]? = some e → computes e.op = true →
    s.entryClk k h ≤ s.now →
    let adv (i n : Nat) : Nat := if r.mask.testBit i then (n + r.round * r.stride) % 32 else n
    let e' : VEntry := { e with vd := adv 0 e.vd, vs1 := adv 1 e.vs1, vs2 := adv 2 e.vs2 }
    s.rowsWait k e' = false →
    let u := s.modSlot k fun v => { v with rep := none, vbuf := [{ e' with at_ := h.at_ }] }
    ∃ t t', exec (.vectorEntryExecute k) s = .next t ∧ exec (.vectorEntryExecute k) u = .next t' ∧
      (∀ q, t.row k q = t'.row k q) ∧ t.mem = s.mem ∧ (t.slot k).arch = (t'.slot k).arch ∧
      (t.cluster (slotCluster k)).flagUnion = (t'.cluster (slotCluster k)).flagUnion ∧
      (r.place + 1 < r.size → (t.slot k).rep = some { r with place := r.place + 1 } ∧ (t.slot k).vbuf = h :: tail) ∧
      (r.size ≤ r.place + 1 → r.round + 1 < r.count →
        (t.slot k).rep = some { r with place := 0, round := r.round + 1 } ∧ (t.slot k).vbuf = h :: tail) ∧
      (r.size ≤ r.place + 1 → r.count ≤ r.round + 1 → (t.slot k).rep = none ∧ (t.slot k).vbuf = (h :: tail).drop r.size)

/-- R168, R170, R171, R245: row stores that leave the buffer: to the slot's own slice they are performed word by word (log 57), or refused
with a report; to any other home they are sent, and count. `vqnt` writes the mantissas and the exponent of its block, with the flags. -/
def Sys2Proof.Claims.rowStoresLeave : Prop :=
  ∀ (s : State) (k : Nat) (e : VEntry) (rest : List VEntry), ready s k e rest →
    let v := s.slot k
    (e.op = .sr → State.sliceOf k e.key = true → calm s k →
      (s.writeFault v.owner e.key 128 = 0 → ∃ t, executed s t k rest 0 ∧ nearStored s s.mem t.mem t s.nextId e.key 128 (s.row k e.vs2).toNat) ∧
      (s.ownerOk e.key v.owner false = false → ∃ t, executed s t k rest 0 ∧ t.mem = s.mem ∧
        (8 * s.now + 1, .impreciseReport k v.ember 0x10 e.b) ∈ t.agenda)) ∧
    (e.op = .sr → State.sliceOf k e.key = false →
      (v.stores < 63 → ∃ t, executed s t k rest 0 ∧ t.mem = s.mem ∧
        sentRow s t k e.key true { s.rowFlight k e.b e.key with next := .farStoreAtHome s.nextId, size := 128, data := s.row k e.vs2 }) ∧
      (63 ≤ v.stores → ∃ t, exec (.vectorEntryExecute k) s = .next t ∧ (t.slot k).vbuf = e :: rest ∧ t.mem = s.mem)) ∧
    (e.op = .qnt →
      let m := e.vd
      let ke := e.b.toNat
      let q := quantise e.rm m (lanes (s.row k e.vs1) 4)
      (State.sliceOf k e.key = true → State.sliceOf k ke = true → calm s k → 0 < m → m ≤ 16 → s.writeFault v.owner e.key (4 * m) = 0 →
        s.writeFault v.owner ke 1 = 0 → ∃ t mem', executed s t k rest q.2.2 ∧
          nearStored s s.mem mem' t s.nextId e.key (4 * m) (packBlock m q.2.1) ∧
          (t.flight? s.nextId = none → stored mem' t.mem ke 1 q.1) ∧
          (t.flight? s.nextId ≠ none → t.mem = mem' ∧ (8 * s.now + 4, .farStoreAtHome (s.nextId + 1)) ∈ t.agenda ∧
            ∃ g, t.flight? (s.nextId + 1) = some g ∧ g.key = ke ∧ g.size = 1 ∧ g.part = 0 ∧ g.data = BitVec.ofNat 1024 q.1)) ∧
      (State.sliceOf k e.key = false → State.sliceOf k ke = false → v.stores < 63 → ∃ t, executed s t k rest q.2.2 ∧ t.mem = s.mem ∧
        (∃ g, t.flight? s.nextId = some g ∧ g.next = .farStoreAtHome s.nextId ∧ g.key = e.key ∧ g.size = 4 * m ∧
          g.data = BitVec.ofNat 1024 (packBlock m q.2.1)) ∧
        (∃ g, t.flight? (s.nextId + 1) = some g ∧ g.next = .farStoreAtHome (s.nextId + 1) ∧ g.key = ke ∧ g.size = 1 ∧
          g.data = BitVec.ofNat 1024 q.1) ∧
        (t.slot k).outs = v.outs ++ [⟨s.nextId, true, keyCore e.key, none, true, none⟩,
          ⟨s.nextId + 1, true, keyCore ke, none, true, some s.nextId⟩]))

/-- R169 to R171, R246: row reads that leave the buffer: to the slot's own slice they begin, word by word; to any other home they are sent,
and count; later entries that name the row wait. A gather whose lowest enabled lane outside the slice names an address is reported with
it, and one with no enabled lane does nothing. A `vdqnt` whose planes stand in two slices sends two reads. -/
def Sys2Proof.Claims.rowReadsLeave : Prop :=
  ∀ (s : State) (k : Nat) (e : VEntry) (rest : List VEntry), ready s k e rest →
    let v := s.slot k
    let begins (f : Flight) : Prop :=
      let f : Flight := { f with next := .farLoadAtHome s.nextId, rd := e.vd }
      (State.sliceOf k f.key = true → calm s k → (∀ a ∈ f.words.2, s.zeroing a = false) → s.zeroing f.key = false →
        ∃ t g i r, executed s t k rest 0 ∧ t.mem = s.mem ∧ (t.slot k).rowPend = v.rowPend ++ [(s.nextId, e.vd)] ∧
          t.flight? s.nextId = some g ∧ g.near = true ∧ g.op = f.op ∧ g.key = f.key ∧ g.rd = e.vd ∧ g.aux = f.aux ∧
          (8 * s.now + r, i) ∈ t.agenda ∧ (i = .farLoadAtHome s.nextId ∨ i = .loadReply s.nextId)) ∧
      (State.sliceOf k f.key = false → v.loads < 63 → s.storesHeld k = false → ∃ t, executed s t k rest 0 ∧ t.mem = s.mem ∧
        (t.slot k).rowPend = v.rowPend ++ [(s.nextId, e.vd)] ∧ sentRow s t k f.key false f) ∧
      (State.sliceOf k f.key = false → (63 ≤ v.loads ∨ s.storesHeld k = true) → ∃ t, exec (.vectorEntryExecute k) s = .next t ∧
        (t.slot k).vbuf = e :: rest ∧ t.mem = s.mem)
    (e.op = .lr → begins { s.rowFlight k e.b e.key with size := 128, op := opRow, ro := e.ro }) ∧
    (e.op = .lrg →
      let off (i : Nat) : Nat := 4 * laneAt (s.row k e.vs2) 4 i
      let on := (List.range 32).filter v.enabled
      let out (i : Nat) : Bool := decide (2 ^ 19 ≤ e.key - sliceKey (keyCore e.key) + off i)
      let mask := on.foldl (fun m i => m + 2 ^ i) 0
      (∀ i, on.find? out = some i → ∃ t, executed s t k rest 0 ∧ t.mem = s.mem ∧ (∀ q, t.row k q = s.row k q) ∧
        (8 * s.now + 1, .impreciseReport k v.ember 0x13 (e.b + BitVec.ofNat 64 (off i))) ∈ t.agenda) ∧
      (on = [] → ∃ t, executed s t k rest 0 ∧ t.mem = s.mem ∧ (∀ q, t.row k q = s.row k q) ∧ t.flights = s.flights) ∧
      (on ≠ [] → on.find? out = none → begins { s.rowFlight k e.b e.key with
        size := 4 * on.length, op := opGather, aux := mask, args := on.map fun i => BitVec.ofNat 64 (e.key + off i) })) ∧
    (e.op = .dqnt →
      let m := e.vs1
      let ke := e.b.toNat
      let keys := (List.range (4 * m)).map (e.key + ·)
      let f : Flight := { s.rowFlight k (storeAddr e.key) e.key with
        op := opDequant, aux := (m * 8 + e.frm % 8) * 2 ^ 32 + v.vmk.toNat % 2 ^ 32 }
      (0 < m → keyCore e.key = keyCore ke → begins { f with
        va := storeAddr e.key, size := 4 * m + 1, args := (keys ++ [ke]).map (BitVec.ofNat 64) }) ∧
      (0 < m → keyCore e.key ≠ keyCore ke → (∀ a ∈ ke :: keys, State.sliceOf k a = false) → v.loads < 63 → s.storesHeld k = false →
        ∃ t g g', executed s t k rest 0 ∧ t.mem = s.mem ∧
          (t.slot k).rowPend = v.rowPend ++ [(s.nextId, e.vd), (s.nextId + 1, e.vd)] ∧
          t.flight? s.nextId = some g ∧ g.args = keys.map (BitVec.ofNat 64) ∧ g.key = e.key ∧ g.aux = f.aux ∧ g.pair = some (s.nextId + 1) ∧
          t.flight? (s.nextId + 1) = some g' ∧ g'.args = [BitVec.ofNat 64 ke] ∧ g'.key = ke ∧ g'.aux = f.aux ∧ g'.pair = some s.nextId))

/-- R141 to R143, R248: `send.v` sends its row under the number that it took at issue, once what its ember issued before it, and the row
accesses that have left the buffer, are done; `recv.v` writes its message to its row. -/
def Sys2Proof.Claims.rowMessagesLeave : Prop :=
  ∀ (s : State) (k : Nat) (e : VEntry) (rest : List VEntry), ready s k e rest →
    let v := s.slot k
    let waits := (v.outs.filter fun o => o.row || decide (o.id < e.key)).map (·.id)
    (e.op = .sendV → ∃ t g, executed s t k rest 0 ∧ t.mem = s.mem ∧ t.flight? e.key = some g ∧ g.next = .messageArrival e.key ∧
      g.slot = k ∧ g.ember = v.ember ∧ g.dst = e.rd ∧ g.op = (e.b.extractLsb' 36 3).toNat ∧ g.size = 128 ∧ g.data = s.row k e.vs2 ∧
      (waits ≠ [] → (e.key, waits) ∈ (t.core (slotCore k)).held)) ∧
    (e.op = .recvV → ∃ t, executed s t k rest 0 ∧ t.mem = s.mem ∧ t.row k e.vd = e.data ∧
      ∀ r, r % 32 ≠ e.vd % 32 → t.row k r = s.row k r)

/-- R30, R89, R169 to R171, R285: what the reply to a row read leaves: the row, the gathered lanes, or the values of the block in the lanes
that the mask enabled; a refusal leaves the row as it was and is reported. -/
def Sys2Proof.Claims.rowReplies : Prop :=
  ∀ (id : Nat) (f : Flight) (s : State), s.flight? id = some f → f.ember ≠ 0 → f.dead = false → (s.slot f.slot).ember = f.ember →
    (s.slot f.slot).block = none → f.op ∈ [opRow, opGather, opDequant] → f.pair = none →
    let k := f.slot
    let old := s.row k f.rd
    let leaves (t : State) : Prop := exec (.loadReply id) s = .next t ∧ t.flight? id = none ∧ t.mem = s.mem ∧
      (t.slot k).outs = (s.slot k).outs.filter (fun o => o.id != id) ∧
      (t.slot k).rowPend = (s.slot k).rowPend.filter (fun p => p.1 != id) ∧ (t.slot k).x = (s.slot k).x ∧ (t.slot k).f = (s.slot k).f ∧
      (t.slot k).pc = (s.slot k).pc ∧ ∀ r, r % 32 ≠ f.rd % 32 → t.row k r = s.row k r
    (f.cause ≠ 0 → ∃ t, leaves t ∧ t.row k f.rd = old ∧ (8 * s.now + 1, .impreciseReport k f.ember f.cause f.tval) ∈ t.agenda) ∧
    (f.cause = 0 → f.op = opRow → ∃ t, leaves t ∧ t.row k f.rd = f.data) ∧
    (f.cause = 0 → f.op = opGather → ∃ t, leaves t ∧ ∀ i < 32,
      laneAt (t.row k f.rd) 4 i = match ((maskLanes f.aux).zip f.args).find? fun p => p.1 == i with
        | some p => p.2.toNat % 2 ^ 32
        | none => laneAt old 4 i) ∧
    (∀ m, f.cause = 0 → f.op = opDequant → f.bytes = [] → f.aux / 2 ^ 35 = m → 2 ≤ m → m ≤ 16 → f.args.length = 4 * m + 1 →
      let v := (f.args.take (4 * m)).foldr (fun b a => b.toNat + 256 * a) 0
      let rm : Rm := (rmOf (f.aux / 2 ^ 32 % 8)).getD .rne
      ∃ t, leaves t ∧ ∀ i < 32, laneAt (t.row k f.rd) 4 i =
        if (f.aux % 2 ^ 32).testBit i then (dequantise rm m (f.args.getD (4 * m) 0).toNat (mantissa v m i)).1 % 2 ^ 32 else laneAt old 4 i)

/-- R141 to R143, R161, R168 to R171: what the other entries do when they leave the buffer, and repeat bodies.
Readings and choices of the model that clauses rest on: logs 57, 62, 67. -/
def Obligations.EntriesLeave : Prop := bodiesRepeat ∧ rowStoresLeave ∧ rowReadsLeave ∧ rowMessagesLeave ∧ rowReplies

/-- R257, R260 to R263, R268 to R271: the five matrix instructions: illegal contents and every fault that R262 finds at issue trap; else the
entry with what the instruction read is counted and enters the buffer. `mgth` marks the latch of the window valid with its m and n.
Readings and choices of the model that clauses rest on: logs 9, 35. -/
def Obligations.MatrixOpsEnter : Prop :=
  ∀ (asl : BitVec 3) (h : BitVec 1) (rs1 rs2 rs3 : Reg) (s : State),
    let a := descOf (s.x rs1)
    let b := descOf (s.x rs2)
    let r := rowsB ((s.cluster (slotCluster s.cur)).table asl.toNat)
    let traps (i : Instr) (cause : Nat) (val : Word) : Prop := ∃ t, exec i s = .next t ∧ s.Traps t s.cur false cause val s.me.pc
    let illegal (i : Instr) : Prop := traps i 0x01 (s.me.word.setWidth 64)
    (∀ p ∈ mmaOps, let i := p.1 asl h rs1 rs2 rs3
      (a.illegal = true ∨ b.illegal = true ∨ a.n ≠ b.n → illegal i) ∧
      (a.illegal = false → b.illegal = false → a.n = b.n →
        (s.me.accHeld = true → ∀ x, firstTrap (s.descTrap a 16) (s.descTrap b r) = some x → traps i x.2.1 x.2.2) ∧
        (s.descTrap a 16 = none → s.descTrap b r = none → tileIssues s i {
          kind := .mma, half := h.toNat, asl := asl.toNat, ovw := p.2.1, rev := p.2.2, da := s.x rs1, db := s.x rs2, scale := s.fp rs3 }))) ∧
    (∀ p ∈ mmalOps, let i := p.1 asl h rs2 rs3
      (s.latch s.cur = none → illegal i) ∧
      (∀ l, s.latch s.cur = some l → (b.illegal = true ∨ l.n ≠ b.n → illegal i) ∧
        (b.illegal = false → l.n = b.n →
          (s.me.accHeld = true → ∀ x, s.descTrap b r = some x → traps i x.2.1 x.2.2) ∧
          (s.descTrap b r = none → tileIssues s i {
            kind := .mmal, half := h.toNat, asl := asl.toNat, ovw := p.2.1, rev := p.2.2, db := s.x rs2, scale := s.fp rs3,
            opA := { m := l.m, n := l.n } })))) ∧
    (let bad := a.zero = false ∨ a.m = 1 ∨ a.dir = true
     let cl := slotCluster s.cur
     let foreign := (List.range 8).any fun c => s.module.boot.enabled (8 * cl + c) && (s.core (8 * cl + c)).sliceOwner != s.me.owner
     let placed := a.gather = true ∨ (a.a % 4 = 0 ∧ a.a / 2 ^ 22 = 0 ∧ s.module.boot.enabled (planeCore cl a.a) = true)
     (bad → illegal (.mgth rs1 rs2)) ∧
     (¬ bad → s.me.accHeld = true → placed → foreign = true →
      traps (.mgth rs1 rs2) 0x10 (storeAddrAt (planeCore cl a.a) (a.a % 2 ^ 19))) ∧
     (¬ bad → canEnter s.me → s.me.tiles < 63 → placed → foreign = false → ∃ t l, exec (.mgth rs1 rs2) s = .next t ∧
      tileEntered s t { kind := .gth, da := s.x rs1, vs := rs2.toNat } ∧ t.latch t.cur = some l ∧ l.m = a.m ∧ l.n = a.n)) ∧
    (∀ ws, s.me.rowsQueued = false → (s.x rs1).toNat % 128 = 0 → hasWords s (s.x rs1) 16 ws →
      let image : Row := BitVec.ofNat 1024 (ws.foldr (fun w n => w.toNat + 2 ^ 64 * n) 0)
      (tableOk image = false → illegal (.msct asl rs1)) ∧
      (tableOk image = true → s.me.vbuf.length < 16 → s.me.tiles < 63 → s.me.inBody = false → ∃ t, exec (.msct asl rs1) s = .next t ∧
        tileEntered s t { kind := .sct, asl := asl.toNat, image := image })) ∧
    tileIssues s (.mclr h) { kind := .clr, half := h.toNat, ovw := true }

/-- R257 to R259, R261, R265, R266, R270, R271: the way of an operation through the unit: from the head of its slot's buffer to its core's
queue; its operands are read, all their words at once or some of them later in the clk (R245, log 57); the idle unit grants the head of a
queue, forms the tile from the table, the operands (or the gather latch) and the half's value, and is occupied; an operation whose operands
are late goes back to its queue; completion writes the sixteen rows, accrues the flags and lowers the count.
Readings and choices of the model that clauses rest on: logs 5, 33 (the zero sign of a product in `tileRows`), 35, 57. -/
def Obligations.MatrixEvents : Prop :=
  ∀ s : State,
    (∀ (k : Nat) (e : VEntry) (rest : List VEntry), k < nSlots → (s.slot k).vbuf = e :: rest → e.op = .tile → s.entryClk k e ≤ s.now →
      (s.core (slotCore k)).mq.length < 8 → s.rowsWait k e = false → (s.slot k).outs = [] → ∃ t x, exec (.matrixEnqueue k) s = .next t ∧
        (t.slot k).vbuf = rest ∧ (t.slot k).arch = (s.slot k).arch ∧ t.mem = s.mem ∧
        (t.core (slotCore k)).mq.length = (s.core (slotCore k)).mq.length + 1 ∧ (t.core (slotCore k)).mq.getLast? = some x ∧
        x.kind = e.tile.kind ∧ x.slot = e.tile.slot ∧ x.da = e.tile.da ∧ x.db = e.tile.db ∧ x.scale = e.tile.scale ∧
        x.idx = if e.tile.kind = .gth then (lanes (s.row k e.tile.vs) 4).take 16 else []) ∧
    (∀ (c : Nat) (x : Tile) (rest : List Tile), c < nCores → (s.cluster (coreCluster c)).mx.running = none →
      (s.core c).mq = x :: rest → x.reading = true → x.readEnd ≤ s.now → ∃ t y, exec (.matrixOperandArrival c) s = .next t ∧ (t.core c).mq.head? = some y ∧
        t.mem = s.mem ∧ (x.snap ≠ [] → y.arrived = true) ∧
        let table := (s.cluster (coreCluster c)).table x.asl
        let seen := s.overlay x.snap
        ((y.arrived = true ∧ y.kind = x.kind ∧
          (x.kind = .mma → y.opA = seen.readOperand (coreCluster c) (descOf x.da) 16 ∧
            y.opB = seen.readOperand (coreCluster c) (descOf x.db) (rowsB table)) ∧
          (x.kind = .mmal → y.opB = seen.readOperand (coreCluster c) (descOf x.db) (rowsB table))) ∨
         ((8 * s.now + 4, .matrixOperandArrival c) ∈ t.agenda ∧ ∃ n, 0 < n ∧ y = { x with
          snap := ((s.tileWords (coreCluster c) x table).take n).map fun a => (a, memRead s.mem a 8) }))) ∧
    (∀ (cl c : Nat) (x : Tile) (rest : List Tile), cl < nClusters → coreCluster c = cl → (s.cluster cl).mx.running = none →
      (s.cluster cl).mx.given = 0 → (s.core c).mq = x :: rest → (s.core c).throttle = 0 →
      (∀ d, coreCluster d = cl → d ≠ c → (s.core d).mq = []) →
      ∃ t y, exec (.matrixGrant cl) s = .next t ∧ (t.core c).mq = rest ∧ (t.cluster cl).mx.running = some (c, y) ∧ y.kind = x.kind ∧
        (t.cluster cl).mx.turn = c % 8 ∧ t.mem = s.mem ∧
        let table := (s.cluster cl).table x.asl
        let half := if x.ovw then List.replicate 16 0 else s.halfValue cl x
        (x.kind = .sct → x.asl ≠ 0 → (t.cluster cl).table x.asl = x.image) ∧
        (x.arrived = true → (t.cluster cl).mx.busyTo = s.now + s.clk (clusterField cl) y.occupancy ∧
          (x.kind = .clr → y.start = List.replicate 16 0) ∧
          (x.kind = .mma ∨ x.kind = .mmal → x.bad = none → x.opB.rows.length = rowsB table →
            let a : Rows := if x.kind = .mma then x.opA else { ((s.latch x.slot).getD {}) with m := x.opA.m, n := x.opA.n }
            (y.start, y.flags) = tileRows table x.rev a x.opB (unpack fp32 x.scale.toNat) half) ∧
          (∀ l, x.kind = .gth → (s.slot x.slot).ember = x.ember → s.latch x.slot = some l →
            t.latch x.slot = some { l with conj := x.opA.conj, rows := x.opA.rows })) ∧
        (x.arrived = false → (8 * (s.now + s.clk (clusterField cl) 64) + 2, .matrixSetback cl) ∈ t.agenda)) ∧
    (∀ (cl c : Nat) (x : Tile), cl < nClusters → (s.cluster cl).mx.running = some (c, x) → (s.cluster cl).mx.busyTo = 0 → x.snap = [] →
      (s.cluster cl).mx.grantAt + s.clk (clusterField cl) 64 ≤ s.now → ∃ t, exec (.matrixSetback cl) s = .next t ∧
        (t.cluster cl).mx.running = none ∧ t.mem = s.mem ∧
        let unread (y : Tile) : Tile := { y with reading := false, readEnd := 0 }
        (t.core c).mq.map unread = (x :: (s.core c).mq).map unread) ∧
    (∀ (cl : Nat) (x : Tile) (rest : List Tile), cl < nClusters → (s.cluster cl).mx.pending = x :: rest →
      (s.slot x.slot).ember = x.ember → x.half < 2 → x.start.length = 16 → ∃ t, exec (.matrixComplete cl) s = .next t ∧
        (t.cluster cl).mx.pending = rest ∧ (t.slot x.slot).tiles = (s.slot x.slot).tiles - 1 ∧ t.mem = s.mem ∧
        (t.slot x.slot).fflags = (s.slot x.slot).fflags ||| x.flags ∧ (t.slot x.slot).x = (s.slot x.slot).x ∧
        (x.kind = .mma ∨ x.kind = .mmal ∨ x.kind = .clr → ∀ r < 32, t.row x.slot r =
          if r / 16 = x.half then x.start.getD (r % 16) 0 else s.row x.slot r))

/-- R274 to R276, R282 to R284: a copy instruction refuses a count above 16, a malformed block or one that is not 8-aligned; with no room it
waits; else its commands enter the queue with the next numbers and rd receives the last one. `cseq` reads that number. `cfnc` takes one
number for its fence entry, which ends at once in empty queues.
Readings and choices of the model that clauses rest on: logs 9, 36. -/
def Obligations.CopyOpsComplete : Prop :=
  ∀ (rd rs1 rs2 : Reg) (q : BitVec 1) (s : State),
    let c := slotCore s.cur
    let qu := (s.core c).cq q.toNat
    let traps (i : Instr) (cause : Nat) (val : Word) : Prop := ∃ t, exec i s = .next t ∧ s.Traps t s.cur false cause val s.me.pc
    (∀ p ∈ copyOps, ∀ ws : List Word, let i := p.1 rd rs1 rs2 q
      let n := (s.x rs2).toNat
      let blocks := (List.range n).map fun j => (ws.drop (8 * j)).take 8
      (16 < n → traps i 0x01 (s.me.word.setWidth 64)) ∧
      (n ≤ 16 → 3 ≤ p.2 → s.module.peer = false → traps i 0x0E (s.me.word.setWidth 64)) ∧
      (p.2 < 3 ∨ s.module.peer = true → n = 0 → ∃ t, exec i s = .next t ∧
        s.Completes t (s.me.setX rd.toNat (BitVec.ofNat 64 qu.issued)) (s.me.pc + 4)) ∧
      (p.2 < 3 ∨ s.module.peer = true → 0 < n → n ≤ 16 → (s.x rs1).toNat % 64 = 0 → s.me.rowsQueued = false →
        hasWords s (s.x rs1) (8 * n) ws →
        (blocks.any (blockIllegal p.2) = true → traps i 0x01 (s.me.word.setWidth 64)) ∧
        (blocks.any (blockIllegal p.2) = false → ∀ j, (∀ l < j, blockMisaligned (blocks.getD l []) = none) →
          (∀ w, j < n → blockMisaligned (blocks.getD j []) = some w → traps i 0x03 (s.x rs1 + BitVec.ofNat 64 (8 * (8 * j + w)))) ∧
          (j = n → 16 < qu.entries.length + n ∨ 63 < s.me.copies + n → ∃ t, exec i s = .next t ∧ s.NotReady t) ∧
          (j = n → qu.entries.length + n ≤ 16 → s.me.copies + n ≤ 63 → ∃ t, exec i s = .next t ∧
            t.me.arch = (s.me.setX rd.toNat (BitVec.ofNat 64 (qu.issued + n))).arch ∧ t.me.pc = s.me.pc + 4 ∧ t.mem = s.mem ∧
            t.me.copies = s.me.copies + n ∧ ((t.core c).cq q.toNat).issued = qu.issued + n ∧
            ((t.core c).cq q.toNat).entries.map (fun e => (e.kind, e.num)) = qu.entries.map (fun e => (e.kind, e.num)) ++
              ((List.range n).zip blocks).map fun b => (.command (copyCmd p.2 b.2), qu.issued + 1 + b.1))))) ∧
    (∃ t, exec (.cseq rd q) s = .next t ∧ s.Completes t (s.me.setX rd.toNat (BitVec.ofNat 64 qu.issued)) (s.me.pc + 4)) ∧
    (let m := (s.x rs1).toNat
     (m / 2 ^ 16 ≠ 0 → traps (.cfnc q rs1) 0x01 (s.me.word.setWidth 64)) ∧
     (m / 2 ^ 16 = 0 → s.me.copies < 63 → queuesEmpty s (coreCluster c) → s.me.park = none → ∃ t, exec (.cfnc q rs1) s = .next t ∧
      t.me.arch = s.me.arch ∧ t.me.pc = s.me.pc + 4 ∧ t.me.copies = s.me.copies ∧ ((t.core c).cq q.toNat).issued = qu.issued + 1 ∧
      queuesEmpty t (coreCluster c) ∧ (quiet s c → t.read64 (completionKey c q.toNat) = BitVec.ofNat 64 (qu.issued + 1) ∧
        t.tag (completionKey c q.toNat) = 9)))

/-- R245, R275, R277, R280, R345, R347, R348: an engine's turn reads and writes a chunk, or a part of it and then the rest (log 57); a reset
clears the queue and leaves 0 with generation 1, after a chunk under way; a peer port writes or reads an admitted chunk, word by word, and
answers, and refuses any other; an acknowledgement lets the command go on (with a second frame of the chunk still out it only counts,
log 63), and a refused or missing one ends it with an imprecise trap.
Readings and choices of the model that clauses rest on: logs 5, 21, 24, 36, 57, 63. -/
def Obligations.CopyEvents : Prop :=
  ∀ s : State,
    (∀ (c q : Nat) (e : CopyEntry) (rest : List CopyEntry), inChunk s c q e rest →
      (∀ kd ks, e.waiting = false → e.todo = [] → e.have_ = [] → (s.cluster (coreCluster c)).engMeter.rate = 0 →
        (s.cluster (coreCluster c)).engAt ≤ s.now → engineLine s e.owner e.chunk.2.1 kd →
        (e.cmd.kind ≤ 1 → engineLine s e.owner e.chunk.1 ks → ∃ t, exec (.copyChunk (coreCluster c)) s = .next t ∧
          (∀ k, (t.slot k).arch = (s.slot k).arch) ∧
          (chunkWritten s t c q e rest kd (fun i => memGet s.mem (ks + i)) ∨
            ((8 * s.now + 4, .copyChunk (coreCluster c)) ∈ t.agenda ∧ t.mem = s.mem ∧ ∃ n, 0 < n ∧ n < 16 ∧
              ((t.core c).cq q).entries = { e with have_ := (List.range n).map fun i => s.read64 (ks + 8 * i) } :: rest))) ∧
        (e.cmd.kind = 2 → ∃ t, exec (.copyChunk (coreCluster c)) s = .next t ∧ chunkWritten s t c q e rest kd (fun _ => 0) ∧
          ∀ k, (t.slot k).arch = (s.slot k).arch)) ∧
      (∀ kd ks, e.todo = [] → e.again ≤ s.now → engineLine s e.owner e.chunk.2.1 kd →
        let had (b : Nat) : BitVec 8 := byteOf (e.have_.getD (b / 8) 0).toNat (b % 8)
        (e.cmd.kind ≤ 1 → 0 < e.have_.length → e.have_.length < 16 → engineLine s e.owner e.chunk.1 ks →
          ∃ t, exec (.copyChunk (coreCluster c)) s = .next t ∧
            chunkWritten s t c q e rest kd fun b => if b < 8 * e.have_.length then had b else memGet s.mem (ks + b)) ∧
        (e.cmd.kind = 4 → e.have_.length = 16 → ∃ t, exec (.copyChunk (coreCluster c)) s = .next t ∧
          chunkWritten s t c q e rest kd had)) ∧
      (∀ kd n, ∀ v : Nat → Word, 0 < n → e.todo = (List.range n).map (fun i => (kd + 8 * i, v i)) →
        ∃ t, exec (.copyChunk (coreCluster c)) s = .next t ∧ ((t.core c).cq q).entries = chunkDone e :: rest ∧
          (∀ b, memGet t.mem b = if kd ≤ b ∧ b < kd + 8 * n then byteOf (v ((b - kd) / 8)).toNat ((b - kd) % 8) else memGet s.mem b) ∧
          ∀ k, (t.slot k).arch = (s.slot k).arch)) ∧
    (∀ (c q : Nat), c < nCores → q < 2 →
      ((∀ e ∈ ((s.core c).cq q).entries, e.busy = false) → ∃ t, exec (.copyQueueReset c q) s = .next t ∧
        (t.core c).cq q = {} ∧ (queuesEmpty s (coreCluster c) → quiet s c →
          t.read64 (completionKey c q) = 0 ∧ t.tag (completionKey c q) = 9)) ∧
      ((∃ e ∈ ((s.core c).cq q).entries, e.busy = true) → ∃ t n, exec (.copyQueueReset c q) s = .next t ∧ t.mem = s.mem ∧
        ((t.core c).cq q).entries = cutEntries ((s.core c).cq q).entries ∧ s.now < n ∧ n ≤ s.now + 65536 ∧
        (8 * n + 1, .copyQueueReset c q) ∈ t.agenda)) ∧
    (∀ (dev : Nat) (sown rown : BitVec 8) (a len : Nat) (put : BitVec 1) (data : Row), s.module.peer = true → s.anyStarted = true →
      (∀ n < len / 8, s.fencedKey (a + 8 * n) = false) →
      let i := Instr.peerFrame dev sown rown a len put data
      let admitted := (∃ p ∈ s.module.pimp, p.2.toNat / 2 ^ 63 = 1 ∧ bits p.2.toNat 32 16 = dev ∧ bits p.2.toNat 8 8 = sown.toNat ∧
          bits p.2.toNat 0 8 = rown.toNat) ∧
        s.hasStorage a = true ∧ s.hasStorage (a + len - 1) = true ∧ (∀ n < len / 8, s.ownerOk (a + 8 * n) rown false = true) ∧
        len ≤ 128 ∧ a % 8 = 0 ∧ len % 8 = 0
      let replies (t : State) (refused : Word) (d : Row) : Prop := t.module.peerOut =
        s.module.peerOut ++ [(dev, none, [2, refused, s.module.devnum.setWidth 64, BitVec.ofNat 64 a], d)]
      (¬ admitted → ∃ t, exec i s = .next t ∧ t.mem = s.mem ∧ t.tags = s.tags ∧ replies t 1 0) ∧
      (admitted → 0 < len → (∀ n < len / 8, s.zeroing (a + 8 * n) = false ∧ s.badWord (a + 8 * n) 8 = none) →
        (∀ p ∈ s.flights, p.2.slot ≠ 0 ∨ p.2.ember ≠ 0) →
        (put = 1 → ∃ t n, exec i s = .next t ∧ 0 < n ∧ n ≤ len ∧ stored s.mem t.mem a n data.toNat ∧ (n = len → replies t 0 0) ∧
          (n < len → t.module.peerOut = s.module.peerOut ∧ ∃ g r, t.flight? s.nextId = some g ∧ g.op = opPeer ∧ g.aux = dev ∧ g.key = a ∧
            g.size = len ∧ g.part = n ∧ g.data = data ∧ (8 * s.now + r, .farStoreAtHome s.nextId) ∈ t.agenda)) ∧
        (put = 0 → s.badWord a len = none → ∃ t g r j, exec i s = .next t ∧ t.mem = s.mem ∧ t.tags = s.tags ∧
          t.module.peerOut = s.module.peerOut ∧ t.flight? s.nextId = some g ∧ g.op = opPeer ∧ g.aux = dev ∧ g.key = a ∧
          g.words.2 = (List.range (len / 8)).map (fun n => a + 8 * n) ∧ (8 * s.now + r, j) ∈ t.agenda ∧
          (j = .farLoadAtHome s.nextId ∨ j = .loadReply s.nextId)))) ∧
    (∀ (id : Nat) (f : Flight), s.flight? id = some f → f.op = opPeer → f.cause = 0 → ∃ t, exec (.loadReply id) s = .next t ∧
      t.flight? id = none ∧ t.mem = s.mem ∧ t.module.peerOut =
        s.module.peerOut ++ [(f.aux, none, [2, 0, s.module.devnum.setWidth 64, BitVec.ofNat 64 f.key], f.data)]) ∧
    (∀ (id : Nat) (f : Flight) (e : CopyEntry) (rest : List CopyEntry) (refused : BitVec 1) (data : Row), f.op < 2 → awaits s id f e →
      ((s.core f.src).cq f.op).entries = e :: rest →
      (refused = 1 → ∃ t, exec (.peerChunkAck id refused data) s = .next t ∧ t.flight? id = none ∧
        (8 * s.now + 1, .impreciseReport e.slot e.ember 0x10 f.va) ∈ t.agenda) ∧
      (refused = 0 → 1 < e.frames → ∃ t, exec (.peerChunkAck id refused data) s = .next t ∧ t.flight? id = none ∧ t.mem = s.mem ∧
        ((t.core f.src).cq f.op).entries =
          { e with frames := e.frames - 1, parts := e.parts ++ [(f.va, unpackWords (f.size / 8) data)] } :: rest) ∧
      (refused = 0 → e.frames ≤ 1 → e.todo = [] → inChunk s f.src f.op e rest →
        (f.isF = true → ∃ t, exec (.peerChunkAck id refused data) s = .next t ∧ t.flight? id = none ∧ t.mem = s.mem ∧
          ((t.core f.src).cq f.op).entries = chunkDone e :: rest) ∧
        (f.isF = false → f.va = e.chunk.2.1 → f.size = 128 → e.parts = [] →
          ∃ t, exec (.peerChunkAck id refused data) s = .next t ∧ t.flight? id = none ∧ t.mem = s.mem ∧
            ((t.core f.src).cq f.op).entries = { e with frames := 0, have_ := unpackWords 16 data } :: rest ∧
            (8 * s.now + 3, .copyChunk (coreCluster f.src)) ∈ t.agenda)) ∧
      (∃ t, exec (.peerAckTimeout id) s = .next t ∧ t.flight? id = none ∧ recorded s t (coreField f.src) 2 ∧
        (8 * s.now + 1, .impreciseReport e.slot e.ember 0x0F f.va) ∈ t.agenda))

/-- R330, R334, R336, R357: `bar.a` records its core's arrival at the round that its descriptor names, once (the field's gateway learns of
it; a masked core adds nothing), and completes; `bar.w` completes when that round is passed and else waits; `bar.aw` does the one and then the other. Both forms that arrive are
releases. A malformed descriptor is illegal. -/
def Sys2Proof.Claims.barriersComplete : Prop :=
  ∀ (rs1 : Reg) (s : State), s.me.level = .user →
    let d := s.x rs1
    let k := d.toNat % 8
    let c := slotCore s.cur
    let illegal := bits d.toNat 48 16 ≠ 0 ∨ bits d.toNat 3 29 ≠ 0
    let past := passed (Tab.get (s.core c).bround k 0) d = true
    let arrives (t : State) : Prop :=
      if (Tab.get (s.core c).bround k 0).toNat = bits d.toNat 32 16 ∧ Tab.find? (s.core c).arr k = none ∧ (s.core c).masked k = false then
        (t.core c).arr = Tab.set (s.core c).arr k s.now ∧ ∀ r g, s.regionOf c = some (r, g) →
          (8 * (s.now + s.clk (coreField c) 8) + 1, .barrierAndUpdate r k (coreField c)) ∈ t.agenda
      else (t.core c).arr = (s.core c).arr
    let on (t : State) : Prop := t.me.arch = s.me.arch ∧ t.me.pc = s.me.pc + 4 ∧ t.mem = s.mem
    let waits (t : State) : Prop := t.me.arch = s.me.arch ∧ t.me.pc = s.me.pc ∧ t.mem = s.mem ∧ t.me.due = none ∧
      t.me.park.map (·.kind) = some (.round d)
    (∀ i ∈ [Instr.barA rs1, .barW rs1, .barAw rs1],
      (illegal → ∃ t, exec i s = .next t ∧ s.Traps t s.cur false 0x01 (s.me.word.setWidth 64) s.me.pc)) ∧
    (¬ illegal →
      (released s.me → ∃ t, exec (.barA rs1) s = .next t ∧ on t ∧ arrives t) ∧
      (¬ released s.me → (∃ t, exec (.barA rs1) s = .next t ∧ s.NotReady t) ∧ ∃ t, exec (.barAw rs1) s = .next t ∧ s.NotReady t) ∧
      (past → ∃ t, exec (.barW rs1) s = .next t ∧ s.Completes t s.me (s.me.pc + 4)) ∧
      (¬ past → ∃ t, exec (.barW rs1) s = .next t ∧ waits t ∧ (t.core c).arr = (s.core c).arr) ∧
      (released s.me → past → ∃ t, exec (.barAw rs1) s = .next t ∧ on t ∧ arrives t) ∧
      (released s.me → ¬ past → ∃ t, exec (.barAw rs1) s = .next t ∧ waits t ∧ arrives t))

/-- R331 to R334, R337: a collective whose descriptor is malformed, or that names more ranks than the region has live cores, is illegal. One
whose round is passed completes with the kept result in rd and the round's flags (those of rank 0's operation); any other waits, and the
first of a ranked core in the current round sends the core's contribution to its field's gateway. -/
def Sys2Proof.Claims.collectivesComplete : Prop :=
  ∀ p ∈ [(Instr.collRed, true), (Instr.collBc, false)], ∀ (rd rs1 rs2 : Reg) (s : State), s.me.level = .user →
    let d := s.x rs1
    let i := p.1 rd rs1 rs2
    let k := d.toNat % 8
    let c := slotCore s.cur
    let n := bits d.toNat 48 16
    let src := bits d.toNat 16 16
    let op := bits d.toNat 12 4
    let illegal := bits d.toNat 3 9 ≠ 0 ∨ n = 0 ∨ s.liveCount c k (bits d.toNat 32 16) < n ∨ if p.2 then src ≠ 0 ∨ 9 ≤ op else op ≠ 0 ∨ n ≤ src
    let past := passed (Tab.get (s.core c).cround k 0) d = true
    let value := Tab.get (s.core c).kept k 0
    (illegal → ∃ t, exec i s = .next t ∧ s.Traps t s.cur false 0x01 (s.me.word.setWidth 64) s.me.pc) ∧
    (¬ illegal → released s.me →
      (past → ∃ t, exec i s = .next t ∧ t.me.pc = s.me.pc + 4 ∧ t.mem = s.mem ∧ t.me.arch = ({ s.me.setX rd.toNat value with
        fflags := s.me.fflags ||| Tab.get (s.core c).keptFlags k 0 } : Slot).arch) ∧
      (¬ past → ∃ t, exec i s = .next t ∧ t.me.arch = s.me.arch ∧ t.me.pc = s.me.pc ∧ t.mem = s.mem ∧ t.me.due = none ∧
        t.me.park.map (·.kind) = some (.round d) ∧
        ∀ r g, s.regionOf c = some (r, g) → (Tab.get (s.core c).cround k 0).toNat = bits d.toNat 32 16 →
          Tab.find? (s.core c).contrib k ≠ some (bits d.toNat 32 16) →
          (c ∉ s.roundRanks g k (bits d.toNat 32 16) → t.flights = s.flights) ∧
          (c ∈ s.roundRanks g k (bits d.toNat 32 16) → ∃ f, t.flight? s.nextId = some f ∧
            f.next = .collContribution s.nextId ∧ f.src = c ∧ f.aux = r ∧ f.op = k ∧ f.data = (s.x rs2).setWidth 1024 ∧
            f.dst = s.module.boot.gateway (coreField c))))

/-- R328 to R337: barriers and collectives at issue.
Readings and choices of the model that clauses rest on: logs 9, 38. -/
def Obligations.RoundOpsComplete : Prop := barriersComplete ∧ collectivesComplete

/-- R329, R330: a field whose unmasked cores have all arrived 8 clk ago tells the root, once; the root has the round when every field has
told it, releases it, and the next one starts; the cores of a field see the release: the round advances, the arrival is clear, and a slot
that waits for the round goes on. A mask bit that the kernel sets takes effect at once in a context in which its core has not arrived. -/
def Sys2Proof.Claims.barrierEvents : Prop :=
  ∀ (s : State) (r k f : Nat) (g : Region), Tab.find? s.regions r = some g →
    let b := Tab.get g.bar k {}
    let bar (t : State) : Option BarCtx := (Tab.find? t.regions r).map fun g => Tab.get g.bar k {}
    (Tab.find? b.sent f = none → s.fieldArrived g b k f = true → ∃ t, exec (.barrierAndUpdate r k f) s = .next t ∧
      bar t = some { b with sent := Tab.set b.sent f (s.now + s.treeClk g f) } ∧
      (8 * (s.now + s.treeClk g f) + 1, .barrierAndUpdate r k f) ∈ t.agenda) ∧
    (∀ n, Tab.find? b.sent f = some n → n ≤ s.now → f ∉ b.fields → ∃ t, exec (.barrierAndUpdate r k f) s = .next t ∧
      bar t = some { b with fields := b.fields ++ [f] } ∧
      ((∀ x ∈ g.fields, x ∈ b.fields ++ [f]) → (8 * s.now + 1, .barrierRelease r k) ∈ t.agenda)) ∧
    ((∀ x ∈ g.fields, x ∈ b.fields) → ∃ t, exec (.barrierRelease r k) s = .next t ∧
      bar t = some { b with round := b.round + 1, since := s.now, sent := [], fields := [] } ∧
      ∀ x ∈ g.fields, ∃ n, s.now ≤ n ∧ (8 * n + 1, .barrierReleaseSeen r k x) ∈ t.agenda) ∧
    (g.cores.Nodup → ∃ t, exec (.barrierReleaseSeen r k f) s = .next t ∧ t.mem = s.mem ∧ ∀ c ∈ g.cores, coreField c = f →
      let n := Tab.get (s.core c).bround k 0 + 1
      Tab.get (t.core c).bround k 0 = n ∧ Tab.find? (t.core c).arr k = none ∧
      ∀ j d, slotCore j = c → s.roundWait j true = some d → d.toNat % 8 = k → passed n d = true →
        (t.slot j).pc = (s.slot j).pc + 4 ∧ (t.slot j).arch = (s.slot j).arch ∧ (t.slot j).due = some (s.nextIssue j (s.now + 1))) ∧
    (∀ c < nCores, (s.core c).mask = none → (s.core c).region = some r → ∃ t, exec (.barrierMaskSet c) s = .next t ∧
      (t.core c).mask = some s.now ∧ (k < 8 → ((t.core c).masked k = true ↔
        Tab.get (s.core c).bround k 0 ≠ b.round ∨ Tab.find? (s.core c).arr k = none)))

/-- R332, R333, R337, R361: a contribution of the current round joins the others; the last partial lets the root combine the contributions
in the order of R332 and start the next round, and the result travels to every core; there it is kept, the round advances, and a slot that
waits for it goes on with the value in rd. -/
def Sys2Proof.Claims.collectiveEvents : Prop :=
  ∀ (s : State) (id : Nat) (f : Flight), s.flight? id = some f → id < s.nextId →
    (∀ g, Tab.find? s.regions f.aux = some g →
      let x := Tab.get g.coll f.op {}
      let coll (t : State) : Option CollCtx := (Tab.find? t.regions f.aux).map fun g => Tab.get g.coll f.op {}
      (x.round.toNat = bits f.va.toNat 32 16 → ∃ t y, exec (.collContribution id) s = .next t ∧ t.flight? id = none ∧ t.mem = s.mem ∧
        coll t = some y ∧ y.round = x.round ∧ y.contribs = x.contribs ++ [(f.src, f.data.setWidth 64, f.va)]) ∧
      (let ranks := x.ranks.getD (s.ranks g)
       ∀ d, unfenced s → x.round.setWidth 64 = f.va → x.desc (ranks.headD 0) = some d →
        (∀ c ∈ ranks.take (bits d.toNat 48 16), (x.value c).isSome = true ∧ (coreField c ∈ x.parts ∨ coreField c = f.rd)) →
        ∃ t, exec (.collPartialAtRoot id) s = .next t ∧ t.flight? id = none ∧ t.mem = s.mem ∧
          coll t = some { round := x.round + 1, lives := Tab.set x.lives x.round.toNat ranks.length } ∧
          ∀ c ∈ g.cores, c < nCores → ∃ n h, t.flight? n = some h ∧ h.next = .collResultDelivery n ∧ h.dst = c ∧ h.op = f.op ∧
            (h.data.setWidth 64, BitVec.ofNat 5 h.rd) =
              collValue (decide (d.toNat % 2 ^ 12 / 8 = 1)) ranks (d &&& ~~~ (0xFF8 : Word)) x.value)) ∧
    (let c := f.dst
     let n := Tab.get (s.core c).cround f.op 0 + 1
     ∃ t, exec (.collResultDelivery id) s = .next t ∧ t.flight? id = none ∧ t.mem = s.mem ∧
      Tab.get (t.core c).kept f.op 0 = f.data.setWidth 64 ∧ Tab.get (t.core c).cround f.op 0 = n ∧
      Tab.find? (t.core c).contrib f.op = none ∧
      ∀ j d, slotCore j = c → s.roundWait j false = some d → d.toNat % 8 = f.op → passed n d = true →
        (t.slot j).pc = (s.slot j).pc + 4 ∧ (t.slot j).due = some (s.nextIssue j (s.now + 1)) ∧
        (t.slot j).fflags = (s.slot j).fflags ||| BitVec.ofNat 5 f.rd ∧
        (t.slot j).xr (bits (s.slot j).word.toNat 7 5) = if bits (s.slot j).word.toNat 7 5 = 0 then 0 else f.data.setWidth 64)

/-- R329 to R333, R337, R361: the tree of barriers and collectives.
Readings and choices of the model that clauses rest on: log 38. -/
def Obligations.RoundEvents : Prop := barrierEvents ∧ collectiveEvents

/-- R293, R297, R301, R294: the commands of a slot's SCMD, which a command in progress lets pass without effect: a stop before the next
user-level instruction (at once for an ember that waits), a restart, a step, a kill at the next issue cycle, and a restore of a slot that is
out of service or in a double fault; a killed slot is cleared and out of service; the slots of a region are pre-empted in their order, and
one whose turn it is has been saved and is vacant, or stays stopped in place, with a record, where no area is left.
Readings and choices of the model that clauses rest on: log 28 (the restore of a double-faulted slot, R291, writes the record of R359's
kill: class 2 for cause 0x0F, 5 for 0x0D, and else 15), and logs 37, 41, 45, 50. -/
def Obligations.SlotCommands : Prop :=
  ∀ (s : State) (k : Nat), k < nSlots →
    let v := s.slot k
    (v.cmdBusy = true → ∀ i ∈ [Instr.scmdStop k, .scmdRestart k, .scmdStep k, .scmdKill k, .scmdRestore k], exec i s = .next s) ∧
    (v.cmdBusy = false →
      (v.mode = .active → v.level = .supervisor ∨ (v.leaving = false ∧ v.due ≠ none) → ∃ t, exec (.scmdStop k) s = .next t ∧
        t = s.modSlot k fun v => { v with stopReq := true, cmdBusy := true }) ∧
      (∀ p, v.mode = .active → v.level = .user → v.due = none → v.park = some p → p.met = false → ∃ t, exec (.scmdStop k) s = .next t ∧
        (t.slot k).mode = .stopped ∧ (t.slot k).due = none ∧ (t.slot k).arch = v.arch ∧ (t.slot k).pc = v.pc) ∧
      (v.mode = .stopped → ∃ t, exec (.scmdRestart k) s = .next t ∧ (t.slot k).mode = .active ∧
        (t.slot k).due = some (s.nextIssue k s.now) ∧ (t.slot k).arch = v.arch ∧ (t.slot k).pc = v.pc) ∧
      (v.mode = .stopped → ∃ t, exec (.scmdStep k) s = .next t ∧ (t.slot k).mode = .active ∧ (t.slot k).stepping = true ∧
        (t.slot k).due = some (s.nextIssue k s.now) ∧ (t.slot k).arch = v.arch ∧ (t.slot k).pc = v.pc) ∧
      (v.mode ≠ .vacant → v.mode ≠ .outOfService → ∃ t, exec (.scmdKill k) s = .next t ∧
        t.slot k = { v with killReq := some 4, cmdBusy := true } ∧ (8 * s.nextIssue k s.now + 1, .slotKill k) ∈ t.agenda) ∧
      (v.mode = .outOfService → v.barred = false → ∃ t, exec (.scmdRestore k) s = .next t ∧ (t.slot k).mode = .vacant ∧
        (t.slot k).owner = (s.core (slotCore k)).owned.getD 0) ∧
      (v.mode = .doubleFault → ∃ t, exec (.scmdRestore k) s = .next t ∧ (t.slot k).mode = .vacant ∧ (t.slot k).ember = 0 ∧
        records s t (slotField k) (killClass v))) ∧
    (v.mode ≠ .outOfService → s.nextIssue k s.now = s.now → ∃ t, exec (.slotKill k) s = .next t ∧ (t.slot k).mode = .outOfService ∧
      (t.slot k).ember = 0 ∧ (t.slot k).x = [] ∧ (t.slot k).f = [] ∧ (t.slot k).due = none ∧ (t.slot k).accHeld = false ∧
      records s t (slotField k) (if v.killReq = some 5 then 5 else 4)) ∧
    (∀ r g, s.regionOf (slotCore k) = some (r, g) → s.beforeSlot g k ≠ [] → ∃ t, exec (.preemptSlot k) s = .next t ∧
      (t.slot k).arch = v.arch ∧ ∃ n, s.now ≤ n ∧ (8 * n + 1, .preemptSlot k) ∈ t.agenda) ∧
    (∀ r g h, s.regionOf (slotCore k) = some (r, g) → s.beforeSlot g k = [] → v.mode = .stopped → v.level = .user →
      v.ember ≠ 0 → v.outs = [] → v.vbuf = [] → v.rowPend = [] → v.tiles = 0 → v.copies = 0 → s.reportComing k v.ember = false →
      Tab.find? s.regions (s.info v.ember).region = some h → (∀ j, slotCore j = slotCore k → (s.slot j).mode ≠ .active) →
      (h.saves ≠ [] → v.accHeld = false ∨ h.spills ≠ [] → ∃ t, exec (.preemptSlot k) s = .next t ∧ (t.slot k).mode = .vacant ∧
        (t.slot k).ember = 0) ∧
      (h.saves = [] → v.told = false → (∀ p ∈ s.embers, p.2.region = r → s.slotOf p.1 ≠ none) → ∃ t,
        exec (.preemptSlot k) s = .next t ∧ (t.slot k).mode = .stopped ∧ (t.slot k).arch = v.arch ∧ recorded s t (slotField k) 8))

/-- R359, R311, R312, R323, R343, R349, R357: what the resident kernel does about the trap that a slot has taken, by the first row of R359's
table that applies: a kill, with one record; a forward, with the forward block written behind the ember's own stores; a page mapped, or
migrated from its peer chunk by chunk, with a wait until no unit in the wafer uses the old translation; a return to the parking instruction; a stop behind an EBREAK; and the services of an ECALL, which answer in x10 and return behind it.
Readings and choices of the model that clauses rest on: logs 5, 7, 19, 42, 43, 72. -/
def Obligations.KernelHandles : Prop :=
  ∀ (s : State) (k : Nat), k < nSlots →
    let v := s.slot k
    let at_ : Word := v.trappc.signExtend 64
    let back (t : State) (pc : Word) : Prop := (t.slot k).level = v.pp ∧ (t.slot k).busy = false ∧ (t.slot k).pc = pc ∧
      ∃ n, s.now ≤ n ∧ (t.slot k).due = some n
    let answers (t : State) (a0 : Int) : Prop := back t (at_ + 4) ∧ (t.slot k).x = (v.setX 10 (BitVec.ofInt 64 a0)).x
    let killed (t : State) : Prop := (t.slot k).mode = .vacant ∧ (t.slot k).ember = 0 ∧ records s t (slotField k) (killClass v)
    let r := (s.info v.ember).region
    let noWaiters : Prop := ∀ h, (s.home h).watch = [] ∧ (s.home h).requests = []
    let late : Prop := v.lastIssue.getD s.now + 65536 ≤ s.now
    let inUse : Bool := s.cutsLeft (slotCore k) 3 || s.usersLeft (slotCore k) 3 (v.asid.setWidth 64) v.trapval
    let removing (t : State) (frame : Nat) : Prop := (t.slot k).level = .supervisor ∧ (t.slot k).got = some (BitVec.allOnes 64 - 1) ∧
      ∃ n, s.now < n ∧ (8 * n + 1, .pageMigration k frame) ∈ t.agenda
    (s.handles k (.kernelKill k) = true → ∃ t, exec (.kernelKill k) s = .next t ∧ killed t) ∧
    (s.handles k (.trapForward k) = true → v.storing = true → ∃ t, exec (.trapForward k) s = .next t ∧
      t = s.post (s.nextIssue k (s.now + 1)) (.trapForward k)) ∧
    (∀ h b m, s.handles k (.trapForward k) = true → v.storing = false → (s.info v.ember).forward = some (h, b, m) →
      s.userKeys k .store false false b 4 = none → ∃ t, exec (.trapForward k) s = .next t ∧ killed t) ∧
    (∀ h b m keys, s.handles k (.trapForward k) = true → v.storing = false → (s.info v.ember).forward = some (h, b, m) →
      s.userKeys k .store false false b 4 = some keys →
      ((∃ a ∈ keys, s.partBad a 8 = true) → ∃ t, exec (.trapForward k) s = .next t ∧ killed t) ∧
      (keys.Nodup → (∀ a ∈ keys, a % 8 = 0 ∧ s.partBad a 8 = false) → ∃ t, exec (.trapForward k) s = .next t ∧ back t h ∧
        t.read64 (keys.getD 0 0) = v.trappc.setWidth 64 ∧ t.read64 (keys.getD 1 0) = v.trapcause.setWidth 64 ∧
        t.read64 (keys.getD 2 0) = v.trapval ∧ t.read64 (keys.getD 3 0) = s.read64 (keys.getD 3 0) + 1)) ∧
    (∀ frame, s.handles k (.demandPageMap k 0) = true →
      (∀ tl, s.faultWalk k = .leaf tl → ∃ t, exec (.demandPageMap k frame) s = .next t ∧ back t at_ ∧ t.mem = s.mem) ∧
      ((∀ tl, s.faultWalk k ≠ .leaf tl) → s.takeFrame k frame false = none → ∃ t, exec (.demandPageMap k frame) s = .next t ∧ killed t) ∧
      (∀ g u a free w, (∀ tl, s.faultWalk k ≠ .leaf tl) → Tab.find? s.regions r = some g → s.takeFrame k frame false = some u →
        u.nodeFor v.trapval 3 (s.slotRoot k) g.nodes = some (a, free, w) → a + 8 ≤ frame ∨ frame + 2 ^ 16 ≤ a →
        ∃ t, exec (.demandPageMap k frame) s = .next t ∧ back t at_ ∧ t.read64 a = BitVec.ofNat 64 (frame + 0x17) ∧
          (∀ b, frame ≤ b → b < frame + 2 ^ 16 → memGet t.mem b = 0) ∧
          (Tab.find? t.regions r).map (fun g => (g.frames, g.nodes)) = some (g.frames.erase (false, frame), free))) ∧
    (∀ tl frame, s.handles k (.pageMigration k 0) = true → s.faultWalk k = .leaf tl →
      let size := if tl.big then 2 ^ 26 else 2 ^ 16
      let i := Instr.pageMigration k frame
      (leafClass tl.leaf ≠ 3 → ∃ t, exec i s = .next t ∧ back t at_ ∧ t.mem = s.mem) ∧
      (leafClass tl.leaf = 3 →
        (v.got = none → s.takeFrame k frame tl.big = none → ∃ t, exec i s = .next t ∧ killed t) ∧
        (∀ dev rown addr u, v.got = none → s.takeFrame k frame tl.big = some u →
          (u.zeroRange frame size).peerAddr tl (BitVec.ofNat 64 tl.page) = some (dev, rown, addr) → Tab.get s.module.proute dev 0 ≠ 0 →
          ∃ t f, exec i s = .next t ∧ (t.slot k).got = some 0 ∧ (∀ b, frame ≤ b → b < frame + size → memGet t.mem b = 0) ∧
            t.flight? s.nextId = some f ∧ f.slot = k ∧ f.aux = frame ∧ f.part = 0 ∧
            (8 * (s.now + s.clk (slotField k) 1048576) + 1, .peerAckTimeout s.nextId) ∈ t.agenda ∧
            t.module.peerOut.length = s.module.peerOut.length + 1) ∧
        (v.got = some (BitVec.allOnes 64) → ∃ t, exec i s = .next t ∧ killed t) ∧
        (∀ n, v.got = some n → n ≠ BitVec.allOnes 64 → n ≠ BitVec.allOnes 64 - 1 → size ≤ n.toNat → frame % size = 0 → frame < 2 ^ 44 →
          noWaiters → (∀ c, (s.cluster c).engTlb = []) → ∃ t, exec i s = .next t ∧ (late → killed t) ∧
          (¬ late → (back t at_ ∨ removing t frame) ∧ leafFrame (t.read64 tl.at_) = frame ∧ leafClass (t.read64 tl.at_) = 0 ∧
            leafR (t.read64 tl.at_) = leafR tl.leaf ∧ leafW (t.read64 tl.at_) = leafW tl.leaf)))) ∧
    (∀ frame, s.handles k (.pageMigration k 0) = true → v.got = some (BitVec.allOnes 64 - 1) → noWaiters →
      ∃ t, exec (.pageMigration k frame) s = .next t ∧ (late → killed t) ∧
        (¬ late → t.mem = s.mem ∧ (inUse = true → removing t frame) ∧ (inUse = false → back t at_))) ∧
    (s.handles k (.timeoutResume k) = true → ∃ t, exec (.timeoutResume k) s = .next t ∧ back t at_ ∧ t.mem = s.mem) ∧
    (s.handles k (.ebreakStop k) = true → ∃ t, exec (.ebreakStop k) s = .next t ∧ (t.slot k).trappc = v.trappc + 4 ∧
      back t ((v.trappc + 4).signExtend 64) ∧ (t.slot k).stopReq = true ∧
      (t.slot k).cmdBusy = true) ∧
    (s.handles k (.ecallForwardRegister k) = true →
      let h := v.xr 10
      let b := v.xr 11
      let m := v.xr 12
      let bad := h.toNat % 4 ≠ 0 ∨ b.toNat % 8 ≠ 0 ∨ m &&& ~~~ 0x81FF8 ≠ 0 ∨ s.forwardBlock k b = false
      (v.xr 17 ≠ 0x21 ∨ bad → ∃ t, exec (.ecallForwardRegister k) s = .next t ∧ answers t (-1) ∧ t.embers = s.embers) ∧
      (v.xr 17 = 0x21 → ¬ bad → ∃ t, exec (.ecallForwardRegister k) s = .next t ∧ answers t 0 ∧
        (t.info v.ember).forward = if m = 0 then none else some (h, b, m))) ∧
    (s.handles k (.ecallRouteWrite k) = true →
      let n := (v.xr 10).toNat
      let e := v.xr 11
      let c := slotCore k
      let path := entryPath s.module.boot (routeLegs e) (coreX c) (coreY c)
      let kept (a0 : Int) : Prop := ∃ t, exec (.ecallRouteWrite k) s = .next t ∧ answers t a0 ∧ (t.core c).routes = (s.core c).routes
      (63 < n → kept (-3)) ∧
      (n ≤ 63 → e.getLsbD 63 = false → ∃ t, exec (.ecallRouteWrite k) s = .next t ∧ answers t 0 ∧ Tab.find? (t.core c).routes n = none) ∧
      (n ≤ 63 → e.getLsbD 63 = true → (routeMalformed e = true → kept (-1)) ∧ (routeMalformed e = false → path = none → kept (-2)) ∧
        (routeMalformed e = false → path ≠ none → ∃ t, exec (.ecallRouteWrite k) s = .next t ∧ answers t 0 ∧
          Tab.find? (t.core c).routes n = some e))) ∧
    (s.handles k (.ecallLaunch k) = true → released v →
      let keys := if (v.xr 10).toNat % 64 = 0 then s.userKeys k .load true false (v.xr 10) 8 else none
      (keys = none ∨ (∃ l, keys = some l ∧ ∃ w ∈ l, s.badWord w 8 ≠ none) → ∃ t, exec (.ecallLaunch k) s = .next t ∧ answers t (-2) ∧ t.launches = s.launches) ∧
      (∀ l, keys = some l → (∀ w ∈ l, s.badWord w 8 = none) → (s.launchRejected (l.map s.read64) (some v.owner) = true → ∃ t, exec (.ecallLaunch k) s = .next t ∧
          answers t (-1) ∧ t.launches = s.launches) ∧
        (s.launchRejected (l.map s.read64) (some v.owner) = false → ∃ t x, exec (.ecallLaunch k) s = .next t ∧ answers t 0 ∧
          Tab.find? t.launches s.nextId = some x ∧ x.words = l.map s.read64 ∧ x.owner = v.owner ∧ x.port = none))) ∧
    (s.handles k (.ecallRetire k) = true → ∃ t, exec (.ecallRetire k) s = .next t ∧
      answers t (if (s.core (slotCore k)).mask.isSome then 1 else 0) ∧
      (t.core (slotCore k)).mask = some ((s.core (slotCore k)).mask.getD s.now))

/-- R117 to R119, R342: a launch is rejected, or its chunks are dealt by the region's lowest live field with the next one as deputy; a chunk
counts once its items have finished and master and deputy have acknowledged it; with the last chunk the count and the generation go to the
posting port, if the launch is its latest; the survivors of a fenced
field take a launch over, and its chunks there are lost unless they are to be reissued.
Readings and choices of the model that clauses rest on: logs 5, 44. -/
def Obligations.LaunchEvents : Prop :=
  ∀ (s : State) (i : Nat) (l : Launch), Tab.find? s.launches i = some l →
    let owner := if l.port.isSome then none else some l.owner
    (l.chunks = [] → l.ended = false →
      (s.launchRejected l.words owner = true → ∃ t, exec (.launchDescriptor i) s = .next t ∧ Tab.find? t.launches i = none ∧
        (l.port ≠ none → t.module.lstat = 1)) ∧
      (∀ g m rest, s.launchRejected l.words owner = false → Tab.find? s.regions (ldRegion l.words) = some g → s.liveFields g = m :: rest →
        (s.field m).frozen = false → ∃ t x, exec (.launchDescriptor i) s = .next t ∧ Tab.find? t.launches i = some x ∧ x.master = m ∧
          x.deputy = rest.head? ∧ x.asid = g.asid ∧ x.owner = g.owner ∧ x.words = l.words ∧
          x.chunks.map (fun c => (c.2.first, c.2.items, c.2.acked, c.2.lost)) =
            (launchChunks g l.words).map (fun c => (c.1, c.2.1, false, false)) ∧ (l.port ≠ none → t.module.lstat = 0))) ∧
    (∀ j c, Tab.find? l.chunks j = some c → c.acked = false → c.lost = false → c.finished = c.items →
      (∀ f ∈ l.master :: l.deputy.toList, (s.field f).fenced = false ∧ (s.field f).frozen = false) → ∃ t x, exec (.chunkFinished i j) s = .next t ∧ Tab.find? t.launches i = some x ∧
        Tab.find? x.chunks j = some { c with acked := true } ∧ (x.over = true → (8 * s.now + 1, .launchCompletion i) ∈ t.agenda)) ∧
    (∀ p, l.ended = false → l.over = true → (s.field l.master).fenced = false → l.port = some p → ∃ t, exec (.launchCompletion i) s = .next t ∧
      let n := ((l.chunks.filter fun c => c.2.acked).map (·.2.items)).sum
      (Tab.find? t.launches i).map (·.ended) = some true ∧ (p, 1) ∈ t.module.msix ∧
      (Tab.find? s.module.posted p = some i → Tab.get t.module.lcw p 0 = BitVec.ofNat 64 n ∧
        Tab.get t.module.lcwt p 0 = (if l.lost then 10 else 9)) ∧
      (Tab.find? s.module.posted p ≠ some i → t.module.lcw = s.module.lcw ∧ t.module.lcwt = s.module.lcwt)) ∧
    (∀ f g m rest, f < nFields → (s.field f).fenced = true → s.launches = [(i, l)] → l.ended = false →
      Tab.find? s.regions (ldRegion l.words) = some g → s.liveFields g = m :: rest → ldReissue l.words = false →
      ∃ t x, exec (.masterReelection f) s = .next t ∧ Tab.find? t.launches i = some x ∧ x.master = m ∧ x.deputy = rest.head? ∧
        x.chunks = l.chunks.map fun c => (c.1, if f ∈ c.2.fields ∧ c.2.acked = false ∧ c.2.lost = false then { c.2 with lost := true } else c.2))

/-- R99, R118, R219, R220, R242, R263, R274, R280, R295, R328: the start of a region gives it the enabled cores of its rectangle, clears their
barrier contexts and copy queues once no queue is inside a chunk, and the tables of a cluster that changes owner, sets the mask bits of its
harvested positions, and puts its idle embers into their slots; its stop
empties the matrix queues and ends every slot's run; a pre-emption that has used up its budget is reported; a storage unit changes owner
in one step and is zero, and is in use again when the zeroing is over; a frame that is freed is zero and leaves the append table.
Readings and choices of the model that clauses rest on: logs 5, 7, 26, 36, 45. -/
def Obligations.RegionEvents : Prop :=
  ∀ (s : State) (r : Nat),
    (∀ p, Tab.find? s.plans r = some p → (∀ g, Tab.find? s.regions r = some g → g.running = false) →
      (∀ c ∈ s.planCores p, ∀ x g, s.regionOf c = some (x, g) → g.running = false) →
      (∀ f < nFields, (s.field f).segments < 32 ∧ (s.field f).started = true) →
      (s.queuesBusy (s.planCores p) = true → ∃ t, exec (.regionStart r) s = .next t ∧ t.mem = s.mem ∧ t.regions = s.regions ∧
        ∃ n, s.now < n ∧ (8 * n + 1, .regionStart r) ∈ t.agenda) ∧
      (s.queuesBusy (s.planCores p) = false → ∃ t, exec (.regionStart r) s = .next t ∧
        (∀ c ∈ p.positions, s.module.boot.enabled c = false → (t.core c).mask ≠ none) ∧
        (Tab.find? t.regions r).map (fun g => (g.running, g.owner, g.asid, g.cores)) = some (true, p.owner, p.asid, s.planCores p) ∧
        (∀ c ∈ s.planCores p, (t.core c).region = some r ∧ (t.core c).owned = some p.owner ∧ (t.core c).mask = none ∧ (t.core c).arr = [] ∧
          (t.core c).bround = [] ∧ (t.core c).cround = [] ∧ (t.core c).routes = [] ∧ (t.core c).cq 0 = {} ∧ (t.core c).cq 1 = {}) ∧
        (∀ c ∈ s.planCores p, (∃ i < 8, ∃ o, (s.core (8 * coreCluster c + i)).owned = some o ∧ o ≠ p.owner) →
          (t.cluster (coreCluster c)).tables = []) ∧
        ∀ c cs rec recs, s.planCores p = c :: cs → p.idle = rec :: recs → (s.slot (8 * c)).mode = .vacant →
          (t.slot (8 * c)).mode = .active ∧ (t.slot (8 * c)).ember = rec.toNat / 64 ∧ (t.slot (8 * c)).owner = p.owner ∧
          (t.slot (8 * c)).asid = p.asid ∧ (t.slot (8 * c)).pc = p.idlePc.setWidth 64 ∧ (t.slot (8 * c)).level = .user)) ∧
    (∀ g, Tab.find? s.regions r = some g →
      (g.running = true → ∃ t, exec (.regionStop r) s = .next t ∧ (Tab.find? t.regions r).map (·.running) = some false ∧
        ∀ c ∈ g.cores, (t.core c).mq = [] ∧ (t.core c).mask = none ∧
          ∀ k, slotCore k = c → (t.slot k).mode ≠ .doubleFault ∧ ((t.slot k).mode = .active → (t.slot k).stopReq = true)) ∧
      (g.spent < g.budget → exec (.preemptBudgetExhausted r) s = .next s) ∧
      (g.budget ≤ g.spent → ∃ t, exec (.preemptBudgetExhausted r) s = .next t ∧ t.mem = s.mem ∧
        recorded s t (coreField (g.cores.headD 0)) 9)) ∧
    (∀ (unit : Nat) (o : BitVec 8),
      (unit < nCores → ∃ t, exec (.ownerChange 1 unit o) s = .next t ∧ (t.core unit).sliceOwner = o ∧ (t.core unit).sliceZero = true ∧
        (8 * (s.now + s.clk (coreField unit) 4096) + 1, .zeroingDone 1 unit) ∈ t.agenda ∧
        (∀ b, memGet t.mem b = if sliceKey unit ≤ b ∧ b < sliceKey unit + 2 ^ 19 then 0 else memGet s.mem b) ∧
        ((s.core unit).sliceOwner ≠ o → (t.cluster (coreCluster unit)).tables = []) ∧
        ∀ a, t.tag a = if sliceKey unit ≤ a ∧ a < sliceKey unit + 2 ^ 19 then 0 else s.tag a) ∧
      (unit < 16 * nCores → ∃ t, exec (.ownerChange 0 unit o) s = .next t ∧
        let base := flueBase (unit / 16) + unit % 16 * 2 ^ 24
        Tab.get (t.home (2 * (unit / 16) + 1)).bankOwner (unit % 16) 0 = o ∧ unit % 16 ∈ (t.home (2 * (unit / 16) + 1)).zeroing ∧
        ∀ b, memGet t.mem b = if base ≤ b ∧ b < base + 2 ^ 24 then 0 else memGet s.mem b) ∧
      (unit < nClusters → ∃ t, exec (.ownerChange 2 unit o) s = .next t ∧ (t.cluster unit).answers.owner = o ∧
        (t.cluster unit).answers.zero = true ∧ (t.cluster unit).answers.entries = [] ∧ t.mem = s.mem ∧
        ((s.cluster unit).answers.owner ≠ o → (t.cluster unit).tables = [])) ∧
      (s.hasStorage unit = true → ∃ t, exec (.ownerChange 3 unit o) s = .next t ∧
        let size := if unit % 2 = 1 then 2 ^ 26 else 2 ^ 16
        let frame := unit / size * size
        Tab.find? (t.home (keyHome frame)).appends frame = none ∧
        ∀ b, memGet t.mem b = if frame ≤ b ∧ b < frame + size then 0 else memGet s.mem b) ∧
      (∃ t, exec (.zeroingDone 0 unit) s = .next t ∧ unit % 16 ∉ (t.home (2 * (unit / 16) + 1)).zeroing ∧
        Tab.find? (t.home (2 * (unit / 16) + 1)).openRow (unit % 16) = none ∧ t.mem = s.mem) ∧
      (∃ t, exec (.zeroingDone 1 unit) s = .next t ∧ (t.core unit).sliceZero = false ∧ t.mem = s.mem ∧
        ∀ i ∈ (s.core unit).sliceHeld, (8 * s.now + s.waitedRank i, i) ∈ t.agenda) ∧
      (∃ t, exec (.zeroingDone 2 unit) s = .next t ∧ (t.cluster unit).answers.zero = false ∧ t.mem = s.mem))

/-- R222, R223, R299, R302, R303, R319, R324, R353: a hot reading of a bank of another owner raises the throttle level of the core below it and a
cool one lowers it; a request with a token leaves; a relay passes packets on in order of arrival; a quarantine is lifted; a controller whose
two cores differ freezes its dispatch until its firmware has restarted, and a second time within 2^32 clk fences its field; a fatal error
fences the field, stops its slots and invalidates the routes through it; a field changes speed at a multiple of 16 of its counter.
Readings and choices of the model that clauses rest on: logs 5, 7, 17, 46, 48, 65. -/
def Obligations.FieldEvents : Prop :=
  ∀ (s : State) (f : Nat), f < nFields →
    (∀ (c : Nat) (temps : BitVec 128), c < nCores → ∃ t, exec (.thermalReading c temps) s = .next t ∧
      let above (n : Nat) : Prop := ∃ b < 16, some (Tab.get (s.home (2 * c + 1)).bankOwner b 0) ≠ (s.regionOf c).map (·.2.owner) ∧
        n < bits temps.toNat (8 * b) 8
      (t.core c).temps = temps ∧ (above 95 → (t.core c).throttle = min 3 ((s.core c).throttle + 1)) ∧
      (¬ above 95 → above 90 → (t.core c).throttle = (s.core c).throttle) ∧ (¬ above 90 → (t.core c).throttle = (s.core c).throttle - 1)) ∧
    (∀ (c id d : Nat) (rest : List Nat) (x : Flight), c < nCores → (s.core c).meter.waiting = id :: rest → id ∉ rest →
      s.flight? id = some x → x.via = some d → s.refused x.src x.dst x.next = false →
      (s.core c).meter.rate = 0 ∨ 512 ≤ (s.meterNow c).credit →
      ∃ t, exec (.meterAdmit c) s = .next t ∧ (t.core c).meter.waiting = rest ∧
        (8 * (max s.now (s.slot x.slot).inject + s.clk (coreField x.src) x.flits + d) + s.arrivalRank x.next, x.next) ∈ t.agenda) ∧
    (∀ (id : Nat) (x : Flight), s.flight? id = some x → ∃ t g, exec (.relayAccept id) s = .next t ∧
      (t.field g).relay = (s.field g).relay ++ [id] ∧ (8 * (s.now + s.clk g 20) + 1, .relayReinject g) ∈ t.agenda) ∧
    (∀ id rest x d, (s.field f).relay = id :: rest → s.flight? id = some x → s.refused (s.module.boot.gateway f) x.relayTo x.next = false →
      s.travel (s.module.boot.gateway f) x.relayTo = some d → ∃ t, exec (.relayReinject f) s = .next t ∧ (t.field f).relay = rest ∧
        (8 * (max s.now (s.field f).relayAt + s.clk f x.relayFlits + d) + s.arrivalRank x.next, x.next) ∈ t.agenda) ∧
    (∀ n, ∃ t, exec (.quarantineLift f n) s = .next t ∧ n ∉ (t.field f).quarantine ∧
      ∀ m, m ≠ n → (m ∈ (t.field f).quarantine ↔ m ∈ (s.field f).quarantine)) ∧
    ((∀ n, (s.field f).lastMismatch = some n → 2 ^ 32 < s.now - n) → ∃ t, exec (.lockstepMismatch f) s = .next t ∧
      (t.field f).frozen = true ∧ (t.field f).fenced = (s.field f).fenced ∧ recorded s t f 10 ∧ ∃ n, s.now < n ∧ (8 * n + 1, .firmwareRestart f) ∈ t.agenda) ∧
    (∀ n, (s.field f).lastMismatch = some n → s.now - n ≤ 2 ^ 32 → ∃ t, exec (.lockstepMismatch f) s = .next t ∧ (t.field f).fenced = true) ∧
    ((s.field f).frozen = true → ∃ t, exec (.firmwareRestart f) s = .next t ∧ (t.field f).frozen = false ∧
      (t.field f).faults = [] ∧ (t.field f).expired = []) ∧
    ((s.field f).fenced = false → ∃ t, exec (.fatalError f) s = .next t ∧ (t.field f).fenced = true ∧
      (∀ k, slotField k = f → (t.slot k).mode ≠ .active) ∧ (∃ g, recorded s t g 11) ∧
      (∀ c, ∀ e ∈ (t.core c).routes, s.module.boot.routeMeets c f e.2 = false) ∧
      (∀ b, offFabric s.module.boot b → memGet t.mem b = memGet s.mem b) ∧ (∀ k, slotField k ≠ f → t.slot k = s.slot k) ∧
      ∃ n, s.now ≤ n ∧ (8 * n + 1, .masterReelection f) ∈ t.agenda) ∧
    (∀ h, (s.field f).speedTo = some h → (s.field f).half ≠ h → (s.now - (s.field f).zero) % 16 = 0 → ∃ t, exec (.speedChange f) s = .next t ∧
      (t.field f).half = h ∧ (t.field f).speedTo = none ∧ t.mem = s.mem ∧ ∀ k, slotField k ≠ f → t.slot k = s.slot k)

/-- R292, R305, R308, R338, R339: the registers that a write to the control BAR stores, with the bits that it keeps: an offset in the module
block, or in a core block, with the number of registers 8 bytes apart. -/
def Sys2Proof.Claims.registerWrites : Prop :=
  ∀ (s : State) (w : Word),
    (∀ p ∈ moduleRegs, ∀ i < p.2.1, p.1 ≠ 0 ∨ s.module.lstat ≠ 2 → ∃ t, exec (.registerWrite (0x38000000 + p.1 + 8 * i) w) s = .next t ∧
      t.controlRead (0x38000000 + p.1 + 8 * i) = w &&& p.2.2 ∧ t.mem = s.mem ∧ ∀ k, t.slot k = s.slot k) ∧
    (∀ p ∈ coreRegs, ∀ i < p.2.1, ∀ f < nFields, ∀ n < 1024, (s.field f).fenced = false → (s.field f).started = true →
      let o := f * 2 ^ 24 + 0x400000 + 0x1000 * n + p.1 + 8 * i
      ∃ t, exec (.registerWrite o w) s = .next t ∧ t.controlRead o = w &&& p.2.2 ∧ t.mem = s.mem ∧ ∀ k, (t.slot k).arch = (s.slot k).arch) ∧
    (∃ t, exec (.plimWrite w) s = .next t ∧ t.controlRead 0x38000140 = BitVec.ofNat 64 (min 6000 (max 1500 (w.toNat % 2 ^ 16))) ∧ t.mem = s.mem)

/-- R340 to R342: a host read through the window answers the word, or Unsupported Request with a record where it is refused; a posted write is
performed or dropped; a write to LDOOR posts the descriptor of LDESC as a launch. An access waits behind a posted write of its port that
waits for the zeroing of its storage. A fenced field refuses both without a record. -/
def Sys2Proof.Claims.hostAccesses : Prop :=
  ∀ (s : State) (port offset : Nat) (v : Word), port < 2 → offset < 2 ^ 36 →
    let read := Instr.hostWindowRead port offset
    let write := Instr.hostWindowWrite port offset v
    ((∃ p ∈ s.module.writes, p.1 = port) → ∀ i ∈ [read, write, .ldoor port, .adoor port], ∃ t, exec i s = .next t ∧
      t = s.modModule fun m => { m with writes := s.module.writes ++ [(port, i)] }) ∧
    ((∀ p ∈ s.module.writes, p.1 ≠ port) →
      (∀ va asid owner, s.hostAccess port offset false = (va, asid, owner, .error none) → ∃ t, exec read s = .next t ∧
        t.module.hostOut = s.module.hostOut ++ [none] ∧ t.mem = s.mem ∧ (s.anyStarted = true → records s t 0 13)) ∧
      (∀ va asid owner a, s.hostAccess port offset false = (va, asid, owner, .error (some a)) → ∃ t, exec read s = .next t ∧
        t.module.hostOut = s.module.hostOut ++ (if s.fencedKey a then [none] else []) ∧ t.mem = s.mem) ∧
      (∀ va asid owner key tl, s.hostAccess port offset false = (va, asid, owner, .ok (key, tl)) → ∃ t, exec read s = .next t ∧
        t.module.hostOut = s.module.hostOut ++ [if s.fencedKey key ∨ s.badWord key 8 ≠ none then none else some (s.read64 key)] ∧
        t.mem = s.mem ∧ (s.fencedKey key = false → s.badWord key 8 ≠ none → recorded s t (coreField (keyCore key)) 2)) ∧
      (∀ va asid owner, s.hostAccess port offset true = (va, asid, owner, .error none) → ∃ t, exec write s = .next t ∧
        t.mem = s.mem ∧ t.tags = s.tags ∧ (s.anyStarted = true → records s t 0 13)) ∧
      (∀ va asid owner a, s.hostAccess port offset true = (va, asid, owner, .error (some a)) → ∃ t, exec write s = .next t ∧
        t.mem = s.mem ∧ t.module.writes = s.module.writes ++ (if s.fencedKey a then [] else [(port, write)])) ∧
      (∀ va asid owner key tl, s.hostAccess port offset true = (va, asid, owner, .ok (key, tl)) → ∃ t, exec write s = .next t ∧
        (s.fencedKey key = true → t = s) ∧
        (s.fencedKey key = false → s.partBad key 8 = true → t.mem = s.mem ∧ recorded s t (coreField (keyCore key)) 2) ∧
        (s.fencedKey key = false → s.partBad key 8 = false → stored s.mem t.mem key 8 v.toNat)) ∧
      (s.module.lstat ≠ 2 → ∃ t x, exec (.ldoor port) s = .next t ∧ t.module.lstat = 2 ∧ Tab.find? t.launches s.nextId = some x ∧
        x.words = ((List.range 8).map fun i => Tab.get s.module.ldesc i 0) ∧ x.port = some port ∧
        Tab.find? t.module.posted port = some s.nextId ∧ ∃ n, s.now ≤ n ∧ (8 * n + 1, .launchDescriptor s.nextId) ∈ t.agenda))

/-- R292, R305, R308, R338 to R342: what the host writes and reads.
Readings and choices of the model that clauses rest on: logs 7, 11, 47, 65. -/
def Obligations.HostAndControl : Prop := registerWrites ∧ hostAccesses

/-- R304, R350, R352, R353: attestation is refused under an alarm or with no field started, and else busy until its report stands with the
serial number, the nonce and the alarm state in their words; an alarm is recorded, and ends an attestation in progress; the power manager,
every 2^16 clk of field 0's counter, samples the readings, halves a field with a hot bank and, above the limit, the field of full speed that
draws most.
Readings and choices of the model that clauses rest on: logs 5, 7, 16, 48, and log 66 (the alarm state of report word 16 is a register
that outlasts a reset). -/
def Obligations.ModuleEvents : Prop :=
  ∀ s : State,
    (∀ port < 2, (∀ p ∈ s.module.writes, p.1 ≠ port) → s.module.astat ≠ 1 →
      (s.module.alarm ≠ 0 ∨ (∀ p ∈ s.fields, p.2.started = false) → ∃ t, exec (.adoor port) s = .next t ∧ t.module.astat = 3) ∧
      (s.module.alarm = 0 → (∃ p ∈ s.fields, p.2.started = true) → ∃ t, exec (.adoor port) s = .next t ∧ t.module.astat = 1 ∧
        ∃ sig n, s.now < n ∧ (8 * n + 1, .attestReportReady sig) ∈ t.agenda)) ∧
    (∀ sig, s.module.astat = 1 → ∃ t, exec (.attestReportReady sig) s = .next t ∧ t.module.astat = 2 ∧
      Tab.get t.module.areport 0 0 = s.module.serial ∧ Tab.get t.module.areport 1 0 = s.module.devcap ∧
      (∀ i < 6, Tab.get t.module.areport (2 + i) 0 = Tab.get s.module.anonce i 0) ∧
      Tab.get t.module.areport 15 0 = s.module.resets ∧ Tab.get t.module.areport 16 0 = BitVec.ofNat 64 s.module.alarms ∧
      ∀ i < 12, Tab.get t.module.areport (17 + i) 0 = sig.extractLsb' (64 * i) 64) ∧
    (∃ t, exec .securityAlarm s = .next t ∧ t.mem = s.mem ∧ t.module.alarm = (if s.module.boot.erase then 2 else max 1 s.module.alarm) ∧
      t.module.astat = (if s.module.astat = 1 then 3 else s.module.astat) ∧
      t.module.alarms = (if s.module.boot.erase then 2 else max 1 s.module.alarms) ∧ recorded s t 0 12) ∧
    (s.counter 0 % 2 ^ 16 ≠ 0 → exec (.powerCheck 95 90) s = .next s) ∧
    (s.counter 0 % 2 ^ 16 = 0 → ∃ t, exec (.powerCheck 95 90) s = .next t ∧ t.mem = s.mem ∧
      (∀ i < 4, (Tab.get t.module.pwr i 0).toNat % 2 ^ 32 = (Tab.get s.module.rails i 0).toNat % 2 ^ 32) ∧
      (8 * (s.now + 65536) + 1, .powerCheck 95 90) ∈ t.agenda ∧
      (∀ f < nFields, s.ownHeat f 95 = true → (s.field f).heat = false → (t.field f).speedTo = some true ∧ (t.field f).heat = true) ∧
      let draws (f : Nat) : Nat := (Tab.get s.module.rails (16 + f) 0).toNat % 2 ^ 32
      let full (f : Nat) : Prop := ((s.field f).speedTo.getD (s.field f).half) = false
      (1000 * s.module.plim.toNat < (Tab.get s.module.rails 3 0).toNat % 2 ^ 32 → (∃ f < nFields, full f) →
        (∀ f, (s.field f).heat = false ∧ s.ownHeat f 95 = false) →
        ∃ f < nFields, full f ∧ (∀ g < nFields, full g → draws g ≤ draws f) ∧ (t.field f).speedTo = some true))

/-- R204, R221, R320, R350, R351: a module reset keeps what owner 0 has in DRAM (what was written under another key, or one that is gone,
cannot be read back) and clears the slices; the fabric table is written anew; every slot is vacant, or out of service where the exclusion list
names it; the resets are counted; the fields start where the boot image verifies, and else the status is 3.
Readings and choices of the model that clauses rest on: logs 11, 48, 49, 54. -/
def Obligations.ModuleReset : Prop :=
  ∀ s : State, ∃ t, exec .moduleReset s = .next t ∧
    let image := if Config.verifyBoot s.module.boot.digest s.module.boot.signature then s.module.boot.check else none
    (∀ a, (∀ b, image = some b → offFabric b a) →
      (a < 2 ^ 44 → s.module.alarm ≠ 2 → Tab.get (s.home (keyHome a)).bankOwner (keyBank a) 0 = 0 → memGet t.mem a = memGet s.mem a) ∧
      (2 ^ 44 ≤ a → memGet t.mem a = 0)) ∧ t.module.resets = s.module.resets + 1 ∧
    t.module.excl = s.module.excl ∧ (∀ k, (t.slot k).mode = .vacant ∨ (t.slot k).mode = .outOfService) ∧
    (image = none → t.module.astat = 3 ∧ ∀ f, (t.field f).started = false) ∧
    (∀ b, image = some b → t.module.boot = b ∧ t.module.astat = 0 ∧ (∀ f < nFields, (t.field f).started = true ∧ t.counter f = 0) ∧
      ∀ e < 1024, ∀ c, let w := Tab.get s.module.excl e 0
        w.getLsbD 63 = true → coreAt (bits w.toNat 32 9) (bits w.toNat 24 8) = some c → (t.slot (8 * c + bits w.toNat 0 3)).mode = .outOfService)

/-- The reset values that the register tables state (R14, R17, R19 to R22, R24, R292, R293, R305, R308, R309, R322, R339): of every slot, every
core, every cluster and the module. Values that only log 2 names are not among them. -/
def Obligations.ResetState : Prop :=
  let s := State.reset
  (∀ k, let v := s.slot k
    v.mode = .vacant ∧ v.cmdBusy = false ∧ v.level = .user ∧ v.bound = false ∧ v.fflags = 0 ∧ v.frm = 0 ∧ v.livemap = 0 ∧ v.vtype = 0 ∧
    v.vmk = BitVec.allOnes 64 ∧ v.vmkh = BitVec.allOnes 64 ∧ v.tgroup = 0 ∧ v.tstatus = 0 ∧ v.parklimit = 0x1000000 ∧ v.trapvec = 0 ∧
    v.trappc = 0 ∧ v.trapcause = 0 ∧ v.trapval = 0 ∧ v.tscratch = 0 ∧ v.busy = false ∧ v.pp = .user ∧ v.accHeld = false ∧
    v.accWin = BitVec.ofNat 3 k) ∧
  (∀ e, s.deadlineOf e = none) ∧
  (∀ c, let v := s.core c
    v.mweight = 1 ∧ v.sigKill = true ∧ v.sigEn = false ∧ (∀ i, Tab.get v.bpc i 0 = 0) ∧ v.pcrotEn = false ∧ v.pcrotPer = 16 ∧
    v.pcrotSets = 0 ∧ ∀ i, Tab.get v.routes i 0 = 0) ∧
  (∀ c, (s.cluster c).flagUnion = 0) ∧
  s.module.lstat = 0 ∧ s.module.plim = 6000 ∧ s.module.astat = 0 ∧ (∀ i, Tab.get s.module.pwr i 0 = 0) ∧ (∀ i, Tab.get s.module.lcw i 0 = 0) ∧
  (∀ i, Tab.get s.module.lcwt i 0 = 0) ∧ (∀ i, Tab.get s.module.hq i 0 = 0)

/-- R34 to R47: words written out from the tables of encodings, one or two of each major group, and the instructions they stand for. -/
def Obligations.DecodedWords : Prop := ∀ p ∈ words, decode p.1 = some p.2

/-- Every step keeps the canonical form of memory: keys rising, and no entry that an unlisted byte already reads as. -/
def Obligations.MemoryWfKept : Prop := ∀ s t : State, Memory.wf s.mem = true → step s = .next t → Memory.wf t.mem = true

/-- The memory of the reset state has its canonical form. -/
def Obligations.MemoryWfReset : Prop := Memory.wf State.reset.mem = true
end

