-- ==== Sys2Proof/Laws/Tab.lean ====
section
/-! SUPPORT. Sparse tables: a read after a write, and what a write leaves alone. None of it needs the keys to rise. -/

namespace Sys2Proof

theorem Tab.find?_set {α : Type} (t : Tab α) (k j : Nat) (v : α) :
    Tab.find? (Tab.set t k v) j = if j = k then some v else Tab.find? t j := by
  induction t with
  | nil => simp [Tab.set, Tab.find?, eq_comm]
  | cons p t ih =>
    obtain ⟨i, w⟩ := p
    simp only [Tab.set]
    split
    · by_cases h : j = k
      · simp [Tab.find?, h]
      · simp [Tab.find?, h, Ne.symm h, @eq_comm _ i j]
    · split
      · subst_vars; by_cases h : j = i <;> simp [Tab.find?, h, eq_comm]
      · simp only [Tab.find?, ih]
        by_cases h : i = j
        · subst h; simp_all [eq_comm]
        · simp [h]

theorem Tab.get_set {α : Type} (t : Tab α) (k j : Nat) (v d : α) :
    Tab.get (Tab.set t k v) j d = if j = k then v else Tab.get t j d := by
  unfold Tab.get; rw [Tab.find?_set]; split <;> simp

theorem Tab.find?_erase {α : Type} (t : Tab α) (k j : Nat) :
    Tab.find? (Tab.erase t k) j = if j = k then none else Tab.find? t j := by
  induction t with
  | nil => simp [Tab.erase, Tab.find?]
  | cons p t ih =>
    obtain ⟨i, w⟩ := p
    simp only [Tab.erase]
    split
    · next e =>
      subst e; rw [ih]; by_cases h : j = i
      · simp [h]
      · simp [h, Tab.find?, Ne.symm h]
    · simp only [Tab.find?, ih]
      by_cases h : i = j
      · subst h; simp_all
      · simp [h]

theorem Tab.get_erase {α : Type} (t : Tab α) (k j : Nat) (d : α) :
    Tab.get (Tab.erase t k) j d = if j = k then d else Tab.get t j d := by
  unfold Tab.get; rw [Tab.find?_erase]; split <;> simp

end Sys2Proof
end

