-- ==== Sys2Proof/Laws/State.lean ====
section
/-! SUPPORT. One lemma per field per update of the state: what an update leaves as it was, and what it writes. -/

namespace Sys2Proof.Machine

/-! `putSlot` changes `slots` only. -/

@[simp] theorem State.putSlot_now (s : State) (k : Nat) (v : Slot) : (s.putSlot k v).now = s.now := rfl
@[simp] theorem State.putSlot_cur (s : State) (k : Nat) (v : Slot) : (s.putSlot k v).cur = s.cur := rfl
@[simp] theorem State.putSlot_agenda (s : State) (k : Nat) (v : Slot) : (s.putSlot k v).agenda = s.agenda := rfl
@[simp] theorem State.putSlot_free (s : State) (k : Nat) (v : Slot) : (s.putSlot k v).free = s.free := rfl
@[simp] theorem State.putSlot_nextId (s : State) (k : Nat) (v : Slot) : (s.putSlot k v).nextId = s.nextId := rfl
@[simp] theorem State.putSlot_flights (s : State) (k : Nat) (v : Slot) : (s.putSlot k v).flights = s.flights := rfl
@[simp] theorem State.putSlot_mem (s : State) (k : Nat) (v : Slot) : (s.putSlot k v).mem = s.mem := rfl
@[simp] theorem State.putSlot_tags (s : State) (k : Nat) (v : Slot) : (s.putSlot k v).tags = s.tags := rfl
@[simp] theorem State.putSlot_bad (s : State) (k : Nat) (v : Slot) : (s.putSlot k v).bad = s.bad := rfl
@[simp] theorem State.putSlot_soft (s : State) (k : Nat) (v : Slot) : (s.putSlot k v).soft = s.soft := rfl
@[simp] theorem State.putSlot_asids (s : State) (k : Nat) (v : Slot) : (s.putSlot k v).asids = s.asids := rfl
@[simp] theorem State.putSlot_groups (s : State) (k : Nat) (v : Slot) : (s.putSlot k v).groups = s.groups := rfl
@[simp] theorem State.putSlot_launches (s : State) (k : Nat) (v : Slot) : (s.putSlot k v).launches = s.launches := rfl
@[simp] theorem State.putSlot_plans (s : State) (k : Nat) (v : Slot) : (s.putSlot k v).plans = s.plans := rfl
@[simp] theorem State.putSlot_regions (s : State) (k : Nat) (v : Slot) : (s.putSlot k v).regions = s.regions := rfl
@[simp] theorem State.putSlot_embers (s : State) (k : Nat) (v : Slot) : (s.putSlot k v).embers = s.embers := rfl
@[simp] theorem State.putSlot_cores (s : State) (k : Nat) (v : Slot) : (s.putSlot k v).cores = s.cores := rfl
@[simp] theorem State.putSlot_clusters (s : State) (k : Nat) (v : Slot) : (s.putSlot k v).clusters = s.clusters := rfl
@[simp] theorem State.putSlot_homes (s : State) (k : Nat) (v : Slot) : (s.putSlot k v).homes = s.homes := rfl
@[simp] theorem State.putSlot_fields (s : State) (k : Nat) (v : Slot) : (s.putSlot k v).fields = s.fields := rfl
@[simp] theorem State.putSlot_module (s : State) (k : Nat) (v : Slot) : (s.putSlot k v).module = s.module := rfl
@[simp] theorem State.putSlot_core (s : State) (k : Nat) (v : Slot) (j : Nat) : (s.putSlot k v).core j = s.core j := rfl
@[simp] theorem State.putSlot_cluster (s : State) (k : Nat) (v : Slot) (j : Nat) : (s.putSlot k v).cluster j = s.cluster j := rfl
@[simp] theorem State.putSlot_home (s : State) (k : Nat) (v : Slot) (j : Nat) : (s.putSlot k v).home j = s.home j := rfl
@[simp] theorem State.putSlot_field (s : State) (k : Nat) (v : Slot) (j : Nat) : (s.putSlot k v).field j = s.field j := rfl
@[simp] theorem State.putSlot_info (s : State) (k : Nat) (v : Slot) (j : Nat) : (s.putSlot k v).info j = s.info j := rfl

/-! `modSlot` changes `slots` only. -/

@[simp] theorem State.modSlot_now (s : State) (k : Nat) (f : Slot → Slot) : (s.modSlot k f).now = s.now := rfl
@[simp] theorem State.modSlot_cur (s : State) (k : Nat) (f : Slot → Slot) : (s.modSlot k f).cur = s.cur := rfl
@[simp] theorem State.modSlot_agenda (s : State) (k : Nat) (f : Slot → Slot) : (s.modSlot k f).agenda = s.agenda := rfl
@[simp] theorem State.modSlot_free (s : State) (k : Nat) (f : Slot → Slot) : (s.modSlot k f).free = s.free := rfl
@[simp] theorem State.modSlot_nextId (s : State) (k : Nat) (f : Slot → Slot) : (s.modSlot k f).nextId = s.nextId := rfl
@[simp] theorem State.modSlot_flights (s : State) (k : Nat) (f : Slot → Slot) : (s.modSlot k f).flights = s.flights := rfl
@[simp] theorem State.modSlot_mem (s : State) (k : Nat) (f : Slot → Slot) : (s.modSlot k f).mem = s.mem := rfl
@[simp] theorem State.modSlot_tags (s : State) (k : Nat) (f : Slot → Slot) : (s.modSlot k f).tags = s.tags := rfl
@[simp] theorem State.modSlot_bad (s : State) (k : Nat) (f : Slot → Slot) : (s.modSlot k f).bad = s.bad := rfl
@[simp] theorem State.modSlot_soft (s : State) (k : Nat) (f : Slot → Slot) : (s.modSlot k f).soft = s.soft := rfl
@[simp] theorem State.modSlot_asids (s : State) (k : Nat) (f : Slot → Slot) : (s.modSlot k f).asids = s.asids := rfl
@[simp] theorem State.modSlot_groups (s : State) (k : Nat) (f : Slot → Slot) : (s.modSlot k f).groups = s.groups := rfl
@[simp] theorem State.modSlot_launches (s : State) (k : Nat) (f : Slot → Slot) : (s.modSlot k f).launches = s.launches := rfl
@[simp] theorem State.modSlot_plans (s : State) (k : Nat) (f : Slot → Slot) : (s.modSlot k f).plans = s.plans := rfl
@[simp] theorem State.modSlot_regions (s : State) (k : Nat) (f : Slot → Slot) : (s.modSlot k f).regions = s.regions := rfl
@[simp] theorem State.modSlot_embers (s : State) (k : Nat) (f : Slot → Slot) : (s.modSlot k f).embers = s.embers := rfl
@[simp] theorem State.modSlot_cores (s : State) (k : Nat) (f : Slot → Slot) : (s.modSlot k f).cores = s.cores := rfl
@[simp] theorem State.modSlot_clusters (s : State) (k : Nat) (f : Slot → Slot) : (s.modSlot k f).clusters = s.clusters := rfl
@[simp] theorem State.modSlot_homes (s : State) (k : Nat) (f : Slot → Slot) : (s.modSlot k f).homes = s.homes := rfl
@[simp] theorem State.modSlot_fields (s : State) (k : Nat) (f : Slot → Slot) : (s.modSlot k f).fields = s.fields := rfl
@[simp] theorem State.modSlot_module (s : State) (k : Nat) (f : Slot → Slot) : (s.modSlot k f).module = s.module := rfl
@[simp] theorem State.modSlot_core (s : State) (k : Nat) (f : Slot → Slot) (j : Nat) : (s.modSlot k f).core j = s.core j := rfl
@[simp] theorem State.modSlot_cluster (s : State) (k : Nat) (f : Slot → Slot) (j : Nat) : (s.modSlot k f).cluster j = s.cluster j := rfl
@[simp] theorem State.modSlot_home (s : State) (k : Nat) (f : Slot → Slot) (j : Nat) : (s.modSlot k f).home j = s.home j := rfl
@[simp] theorem State.modSlot_field (s : State) (k : Nat) (f : Slot → Slot) (j : Nat) : (s.modSlot k f).field j = s.field j := rfl
@[simp] theorem State.modSlot_info (s : State) (k : Nat) (f : Slot → Slot) (j : Nat) : (s.modSlot k f).info j = s.info j := rfl

/-! `modMe` changes `slots` only. -/

@[simp] theorem State.modMe_now (s : State) (f : Slot → Slot) : (s.modMe f).now = s.now := rfl
@[simp] theorem State.modMe_cur (s : State) (f : Slot → Slot) : (s.modMe f).cur = s.cur := rfl
@[simp] theorem State.modMe_agenda (s : State) (f : Slot → Slot) : (s.modMe f).agenda = s.agenda := rfl
@[simp] theorem State.modMe_free (s : State) (f : Slot → Slot) : (s.modMe f).free = s.free := rfl
@[simp] theorem State.modMe_nextId (s : State) (f : Slot → Slot) : (s.modMe f).nextId = s.nextId := rfl
@[simp] theorem State.modMe_flights (s : State) (f : Slot → Slot) : (s.modMe f).flights = s.flights := rfl
@[simp] theorem State.modMe_mem (s : State) (f : Slot → Slot) : (s.modMe f).mem = s.mem := rfl
@[simp] theorem State.modMe_tags (s : State) (f : Slot → Slot) : (s.modMe f).tags = s.tags := rfl
@[simp] theorem State.modMe_bad (s : State) (f : Slot → Slot) : (s.modMe f).bad = s.bad := rfl
@[simp] theorem State.modMe_soft (s : State) (f : Slot → Slot) : (s.modMe f).soft = s.soft := rfl
@[simp] theorem State.modMe_asids (s : State) (f : Slot → Slot) : (s.modMe f).asids = s.asids := rfl
@[simp] theorem State.modMe_groups (s : State) (f : Slot → Slot) : (s.modMe f).groups = s.groups := rfl
@[simp] theorem State.modMe_launches (s : State) (f : Slot → Slot) : (s.modMe f).launches = s.launches := rfl
@[simp] theorem State.modMe_plans (s : State) (f : Slot → Slot) : (s.modMe f).plans = s.plans := rfl
@[simp] theorem State.modMe_regions (s : State) (f : Slot → Slot) : (s.modMe f).regions = s.regions := rfl
@[simp] theorem State.modMe_embers (s : State) (f : Slot → Slot) : (s.modMe f).embers = s.embers := rfl
@[simp] theorem State.modMe_cores (s : State) (f : Slot → Slot) : (s.modMe f).cores = s.cores := rfl
@[simp] theorem State.modMe_clusters (s : State) (f : Slot → Slot) : (s.modMe f).clusters = s.clusters := rfl
@[simp] theorem State.modMe_homes (s : State) (f : Slot → Slot) : (s.modMe f).homes = s.homes := rfl
@[simp] theorem State.modMe_fields (s : State) (f : Slot → Slot) : (s.modMe f).fields = s.fields := rfl
@[simp] theorem State.modMe_module (s : State) (f : Slot → Slot) : (s.modMe f).module = s.module := rfl
@[simp] theorem State.modMe_core (s : State) (f : Slot → Slot) (j : Nat) : (s.modMe f).core j = s.core j := rfl
@[simp] theorem State.modMe_cluster (s : State) (f : Slot → Slot) (j : Nat) : (s.modMe f).cluster j = s.cluster j := rfl
@[simp] theorem State.modMe_home (s : State) (f : Slot → Slot) (j : Nat) : (s.modMe f).home j = s.home j := rfl
@[simp] theorem State.modMe_field (s : State) (f : Slot → Slot) (j : Nat) : (s.modMe f).field j = s.field j := rfl
@[simp] theorem State.modMe_info (s : State) (f : Slot → Slot) (j : Nat) : (s.modMe f).info j = s.info j := rfl

/-! `setX` changes `slots` only. -/

@[simp] theorem State.setX_now (s : State) (r : Reg) (w : Word) : (s.setX r w).now = s.now := rfl
@[simp] theorem State.setX_cur (s : State) (r : Reg) (w : Word) : (s.setX r w).cur = s.cur := rfl
@[simp] theorem State.setX_agenda (s : State) (r : Reg) (w : Word) : (s.setX r w).agenda = s.agenda := rfl
@[simp] theorem State.setX_free (s : State) (r : Reg) (w : Word) : (s.setX r w).free = s.free := rfl
@[simp] theorem State.setX_nextId (s : State) (r : Reg) (w : Word) : (s.setX r w).nextId = s.nextId := rfl
@[simp] theorem State.setX_flights (s : State) (r : Reg) (w : Word) : (s.setX r w).flights = s.flights := rfl
@[simp] theorem State.setX_mem (s : State) (r : Reg) (w : Word) : (s.setX r w).mem = s.mem := rfl
@[simp] theorem State.setX_tags (s : State) (r : Reg) (w : Word) : (s.setX r w).tags = s.tags := rfl
@[simp] theorem State.setX_bad (s : State) (r : Reg) (w : Word) : (s.setX r w).bad = s.bad := rfl
@[simp] theorem State.setX_soft (s : State) (r : Reg) (w : Word) : (s.setX r w).soft = s.soft := rfl
@[simp] theorem State.setX_asids (s : State) (r : Reg) (w : Word) : (s.setX r w).asids = s.asids := rfl
@[simp] theorem State.setX_groups (s : State) (r : Reg) (w : Word) : (s.setX r w).groups = s.groups := rfl
@[simp] theorem State.setX_launches (s : State) (r : Reg) (w : Word) : (s.setX r w).launches = s.launches := rfl
@[simp] theorem State.setX_plans (s : State) (r : Reg) (w : Word) : (s.setX r w).plans = s.plans := rfl
@[simp] theorem State.setX_regions (s : State) (r : Reg) (w : Word) : (s.setX r w).regions = s.regions := rfl
@[simp] theorem State.setX_embers (s : State) (r : Reg) (w : Word) : (s.setX r w).embers = s.embers := rfl
@[simp] theorem State.setX_cores (s : State) (r : Reg) (w : Word) : (s.setX r w).cores = s.cores := rfl
@[simp] theorem State.setX_clusters (s : State) (r : Reg) (w : Word) : (s.setX r w).clusters = s.clusters := rfl
@[simp] theorem State.setX_homes (s : State) (r : Reg) (w : Word) : (s.setX r w).homes = s.homes := rfl
@[simp] theorem State.setX_fields (s : State) (r : Reg) (w : Word) : (s.setX r w).fields = s.fields := rfl
@[simp] theorem State.setX_module (s : State) (r : Reg) (w : Word) : (s.setX r w).module = s.module := rfl
@[simp] theorem State.setX_core (s : State) (r : Reg) (w : Word) (j : Nat) : (s.setX r w).core j = s.core j := rfl
@[simp] theorem State.setX_cluster (s : State) (r : Reg) (w : Word) (j : Nat) : (s.setX r w).cluster j = s.cluster j := rfl
@[simp] theorem State.setX_home (s : State) (r : Reg) (w : Word) (j : Nat) : (s.setX r w).home j = s.home j := rfl
@[simp] theorem State.setX_field (s : State) (r : Reg) (w : Word) (j : Nat) : (s.setX r w).field j = s.field j := rfl
@[simp] theorem State.setX_info (s : State) (r : Reg) (w : Word) (j : Nat) : (s.setX r w).info j = s.info j := rfl

/-! `setFp` changes `slots` only. -/

@[simp] theorem State.setFp_now (s : State) (r : Reg) (w : BitVec 32) : (s.setFp r w).now = s.now := rfl
@[simp] theorem State.setFp_cur (s : State) (r : Reg) (w : BitVec 32) : (s.setFp r w).cur = s.cur := rfl
@[simp] theorem State.setFp_agenda (s : State) (r : Reg) (w : BitVec 32) : (s.setFp r w).agenda = s.agenda := rfl
@[simp] theorem State.setFp_free (s : State) (r : Reg) (w : BitVec 32) : (s.setFp r w).free = s.free := rfl
@[simp] theorem State.setFp_nextId (s : State) (r : Reg) (w : BitVec 32) : (s.setFp r w).nextId = s.nextId := rfl
@[simp] theorem State.setFp_flights (s : State) (r : Reg) (w : BitVec 32) : (s.setFp r w).flights = s.flights := rfl
@[simp] theorem State.setFp_mem (s : State) (r : Reg) (w : BitVec 32) : (s.setFp r w).mem = s.mem := rfl
@[simp] theorem State.setFp_tags (s : State) (r : Reg) (w : BitVec 32) : (s.setFp r w).tags = s.tags := rfl
@[simp] theorem State.setFp_bad (s : State) (r : Reg) (w : BitVec 32) : (s.setFp r w).bad = s.bad := rfl
@[simp] theorem State.setFp_soft (s : State) (r : Reg) (w : BitVec 32) : (s.setFp r w).soft = s.soft := rfl
@[simp] theorem State.setFp_asids (s : State) (r : Reg) (w : BitVec 32) : (s.setFp r w).asids = s.asids := rfl
@[simp] theorem State.setFp_groups (s : State) (r : Reg) (w : BitVec 32) : (s.setFp r w).groups = s.groups := rfl
@[simp] theorem State.setFp_launches (s : State) (r : Reg) (w : BitVec 32) : (s.setFp r w).launches = s.launches := rfl
@[simp] theorem State.setFp_plans (s : State) (r : Reg) (w : BitVec 32) : (s.setFp r w).plans = s.plans := rfl
@[simp] theorem State.setFp_regions (s : State) (r : Reg) (w : BitVec 32) : (s.setFp r w).regions = s.regions := rfl
@[simp] theorem State.setFp_embers (s : State) (r : Reg) (w : BitVec 32) : (s.setFp r w).embers = s.embers := rfl
@[simp] theorem State.setFp_cores (s : State) (r : Reg) (w : BitVec 32) : (s.setFp r w).cores = s.cores := rfl
@[simp] theorem State.setFp_clusters (s : State) (r : Reg) (w : BitVec 32) : (s.setFp r w).clusters = s.clusters := rfl
@[simp] theorem State.setFp_homes (s : State) (r : Reg) (w : BitVec 32) : (s.setFp r w).homes = s.homes := rfl
@[simp] theorem State.setFp_fields (s : State) (r : Reg) (w : BitVec 32) : (s.setFp r w).fields = s.fields := rfl
@[simp] theorem State.setFp_module (s : State) (r : Reg) (w : BitVec 32) : (s.setFp r w).module = s.module := rfl
@[simp] theorem State.setFp_core (s : State) (r : Reg) (w : BitVec 32) (j : Nat) : (s.setFp r w).core j = s.core j := rfl
@[simp] theorem State.setFp_cluster (s : State) (r : Reg) (w : BitVec 32) (j : Nat) : (s.setFp r w).cluster j = s.cluster j := rfl
@[simp] theorem State.setFp_home (s : State) (r : Reg) (w : BitVec 32) (j : Nat) : (s.setFp r w).home j = s.home j := rfl
@[simp] theorem State.setFp_field (s : State) (r : Reg) (w : BitVec 32) (j : Nat) : (s.setFp r w).field j = s.field j := rfl
@[simp] theorem State.setFp_info (s : State) (r : Reg) (w : BitVec 32) (j : Nat) : (s.setFp r w).info j = s.info j := rfl

/-! `putCore` changes `cores` only. -/

@[simp] theorem State.putCore_now (s : State) (k : Nat) (v : Core) : (s.putCore k v).now = s.now := rfl
@[simp] theorem State.putCore_cur (s : State) (k : Nat) (v : Core) : (s.putCore k v).cur = s.cur := rfl
@[simp] theorem State.putCore_agenda (s : State) (k : Nat) (v : Core) : (s.putCore k v).agenda = s.agenda := rfl
@[simp] theorem State.putCore_free (s : State) (k : Nat) (v : Core) : (s.putCore k v).free = s.free := rfl
@[simp] theorem State.putCore_nextId (s : State) (k : Nat) (v : Core) : (s.putCore k v).nextId = s.nextId := rfl
@[simp] theorem State.putCore_flights (s : State) (k : Nat) (v : Core) : (s.putCore k v).flights = s.flights := rfl
@[simp] theorem State.putCore_mem (s : State) (k : Nat) (v : Core) : (s.putCore k v).mem = s.mem := rfl
@[simp] theorem State.putCore_tags (s : State) (k : Nat) (v : Core) : (s.putCore k v).tags = s.tags := rfl
@[simp] theorem State.putCore_bad (s : State) (k : Nat) (v : Core) : (s.putCore k v).bad = s.bad := rfl
@[simp] theorem State.putCore_soft (s : State) (k : Nat) (v : Core) : (s.putCore k v).soft = s.soft := rfl
@[simp] theorem State.putCore_asids (s : State) (k : Nat) (v : Core) : (s.putCore k v).asids = s.asids := rfl
@[simp] theorem State.putCore_groups (s : State) (k : Nat) (v : Core) : (s.putCore k v).groups = s.groups := rfl
@[simp] theorem State.putCore_launches (s : State) (k : Nat) (v : Core) : (s.putCore k v).launches = s.launches := rfl
@[simp] theorem State.putCore_plans (s : State) (k : Nat) (v : Core) : (s.putCore k v).plans = s.plans := rfl
@[simp] theorem State.putCore_regions (s : State) (k : Nat) (v : Core) : (s.putCore k v).regions = s.regions := rfl
@[simp] theorem State.putCore_embers (s : State) (k : Nat) (v : Core) : (s.putCore k v).embers = s.embers := rfl
@[simp] theorem State.putCore_slots (s : State) (k : Nat) (v : Core) : (s.putCore k v).slots = s.slots := rfl
@[simp] theorem State.putCore_clusters (s : State) (k : Nat) (v : Core) : (s.putCore k v).clusters = s.clusters := rfl
@[simp] theorem State.putCore_homes (s : State) (k : Nat) (v : Core) : (s.putCore k v).homes = s.homes := rfl
@[simp] theorem State.putCore_fields (s : State) (k : Nat) (v : Core) : (s.putCore k v).fields = s.fields := rfl
@[simp] theorem State.putCore_module (s : State) (k : Nat) (v : Core) : (s.putCore k v).module = s.module := rfl
@[simp] theorem State.putCore_slot (s : State) (k : Nat) (v : Core) (j : Nat) : (s.putCore k v).slot j = s.slot j := rfl
@[simp] theorem State.putCore_cluster (s : State) (k : Nat) (v : Core) (j : Nat) : (s.putCore k v).cluster j = s.cluster j := rfl
@[simp] theorem State.putCore_home (s : State) (k : Nat) (v : Core) (j : Nat) : (s.putCore k v).home j = s.home j := rfl
@[simp] theorem State.putCore_field (s : State) (k : Nat) (v : Core) (j : Nat) : (s.putCore k v).field j = s.field j := rfl
@[simp] theorem State.putCore_info (s : State) (k : Nat) (v : Core) (j : Nat) : (s.putCore k v).info j = s.info j := rfl
@[simp] theorem State.putCore_me (s : State) (k : Nat) (v : Core) : (s.putCore k v).me = s.me := rfl

/-! `modCore` changes `cores` only. -/

@[simp] theorem State.modCore_now (s : State) (k : Nat) (f : Core → Core) : (s.modCore k f).now = s.now := rfl
@[simp] theorem State.modCore_cur (s : State) (k : Nat) (f : Core → Core) : (s.modCore k f).cur = s.cur := rfl
@[simp] theorem State.modCore_agenda (s : State) (k : Nat) (f : Core → Core) : (s.modCore k f).agenda = s.agenda := rfl
@[simp] theorem State.modCore_free (s : State) (k : Nat) (f : Core → Core) : (s.modCore k f).free = s.free := rfl
@[simp] theorem State.modCore_nextId (s : State) (k : Nat) (f : Core → Core) : (s.modCore k f).nextId = s.nextId := rfl
@[simp] theorem State.modCore_flights (s : State) (k : Nat) (f : Core → Core) : (s.modCore k f).flights = s.flights := rfl
@[simp] theorem State.modCore_mem (s : State) (k : Nat) (f : Core → Core) : (s.modCore k f).mem = s.mem := rfl
@[simp] theorem State.modCore_tags (s : State) (k : Nat) (f : Core → Core) : (s.modCore k f).tags = s.tags := rfl
@[simp] theorem State.modCore_bad (s : State) (k : Nat) (f : Core → Core) : (s.modCore k f).bad = s.bad := rfl
@[simp] theorem State.modCore_soft (s : State) (k : Nat) (f : Core → Core) : (s.modCore k f).soft = s.soft := rfl
@[simp] theorem State.modCore_asids (s : State) (k : Nat) (f : Core → Core) : (s.modCore k f).asids = s.asids := rfl
@[simp] theorem State.modCore_groups (s : State) (k : Nat) (f : Core → Core) : (s.modCore k f).groups = s.groups := rfl
@[simp] theorem State.modCore_launches (s : State) (k : Nat) (f : Core → Core) : (s.modCore k f).launches = s.launches := rfl
@[simp] theorem State.modCore_plans (s : State) (k : Nat) (f : Core → Core) : (s.modCore k f).plans = s.plans := rfl
@[simp] theorem State.modCore_regions (s : State) (k : Nat) (f : Core → Core) : (s.modCore k f).regions = s.regions := rfl
@[simp] theorem State.modCore_embers (s : State) (k : Nat) (f : Core → Core) : (s.modCore k f).embers = s.embers := rfl
@[simp] theorem State.modCore_slots (s : State) (k : Nat) (f : Core → Core) : (s.modCore k f).slots = s.slots := rfl
@[simp] theorem State.modCore_clusters (s : State) (k : Nat) (f : Core → Core) : (s.modCore k f).clusters = s.clusters := rfl
@[simp] theorem State.modCore_homes (s : State) (k : Nat) (f : Core → Core) : (s.modCore k f).homes = s.homes := rfl
@[simp] theorem State.modCore_fields (s : State) (k : Nat) (f : Core → Core) : (s.modCore k f).fields = s.fields := rfl
@[simp] theorem State.modCore_module (s : State) (k : Nat) (f : Core → Core) : (s.modCore k f).module = s.module := rfl
@[simp] theorem State.modCore_slot (s : State) (k : Nat) (f : Core → Core) (j : Nat) : (s.modCore k f).slot j = s.slot j := rfl
@[simp] theorem State.modCore_cluster (s : State) (k : Nat) (f : Core → Core) (j : Nat) : (s.modCore k f).cluster j = s.cluster j := rfl
@[simp] theorem State.modCore_home (s : State) (k : Nat) (f : Core → Core) (j : Nat) : (s.modCore k f).home j = s.home j := rfl
@[simp] theorem State.modCore_field (s : State) (k : Nat) (f : Core → Core) (j : Nat) : (s.modCore k f).field j = s.field j := rfl
@[simp] theorem State.modCore_info (s : State) (k : Nat) (f : Core → Core) (j : Nat) : (s.modCore k f).info j = s.info j := rfl
@[simp] theorem State.modCore_me (s : State) (k : Nat) (f : Core → Core) : (s.modCore k f).me = s.me := rfl

/-! `modCluster` changes `clusters` only. -/

@[simp] theorem State.modCluster_now (s : State) (k : Nat) (f : Cluster → Cluster) : (s.modCluster k f).now = s.now := rfl
@[simp] theorem State.modCluster_cur (s : State) (k : Nat) (f : Cluster → Cluster) : (s.modCluster k f).cur = s.cur := rfl
@[simp] theorem State.modCluster_agenda (s : State) (k : Nat) (f : Cluster → Cluster) : (s.modCluster k f).agenda = s.agenda := rfl
@[simp] theorem State.modCluster_free (s : State) (k : Nat) (f : Cluster → Cluster) : (s.modCluster k f).free = s.free := rfl
@[simp] theorem State.modCluster_nextId (s : State) (k : Nat) (f : Cluster → Cluster) : (s.modCluster k f).nextId = s.nextId := rfl
@[simp] theorem State.modCluster_flights (s : State) (k : Nat) (f : Cluster → Cluster) : (s.modCluster k f).flights = s.flights := rfl
@[simp] theorem State.modCluster_mem (s : State) (k : Nat) (f : Cluster → Cluster) : (s.modCluster k f).mem = s.mem := rfl
@[simp] theorem State.modCluster_tags (s : State) (k : Nat) (f : Cluster → Cluster) : (s.modCluster k f).tags = s.tags := rfl
@[simp] theorem State.modCluster_bad (s : State) (k : Nat) (f : Cluster → Cluster) : (s.modCluster k f).bad = s.bad := rfl
@[simp] theorem State.modCluster_soft (s : State) (k : Nat) (f : Cluster → Cluster) : (s.modCluster k f).soft = s.soft := rfl
@[simp] theorem State.modCluster_asids (s : State) (k : Nat) (f : Cluster → Cluster) : (s.modCluster k f).asids = s.asids := rfl
@[simp] theorem State.modCluster_groups (s : State) (k : Nat) (f : Cluster → Cluster) : (s.modCluster k f).groups = s.groups := rfl
@[simp] theorem State.modCluster_launches (s : State) (k : Nat) (f : Cluster → Cluster) : (s.modCluster k f).launches = s.launches := rfl
@[simp] theorem State.modCluster_plans (s : State) (k : Nat) (f : Cluster → Cluster) : (s.modCluster k f).plans = s.plans := rfl
@[simp] theorem State.modCluster_regions (s : State) (k : Nat) (f : Cluster → Cluster) : (s.modCluster k f).regions = s.regions := rfl
@[simp] theorem State.modCluster_embers (s : State) (k : Nat) (f : Cluster → Cluster) : (s.modCluster k f).embers = s.embers := rfl
@[simp] theorem State.modCluster_slots (s : State) (k : Nat) (f : Cluster → Cluster) : (s.modCluster k f).slots = s.slots := rfl
@[simp] theorem State.modCluster_cores (s : State) (k : Nat) (f : Cluster → Cluster) : (s.modCluster k f).cores = s.cores := rfl
@[simp] theorem State.modCluster_homes (s : State) (k : Nat) (f : Cluster → Cluster) : (s.modCluster k f).homes = s.homes := rfl
@[simp] theorem State.modCluster_fields (s : State) (k : Nat) (f : Cluster → Cluster) : (s.modCluster k f).fields = s.fields := rfl
@[simp] theorem State.modCluster_module (s : State) (k : Nat) (f : Cluster → Cluster) : (s.modCluster k f).module = s.module := rfl
@[simp] theorem State.modCluster_slot (s : State) (k : Nat) (f : Cluster → Cluster) (j : Nat) : (s.modCluster k f).slot j = s.slot j := rfl
@[simp] theorem State.modCluster_core (s : State) (k : Nat) (f : Cluster → Cluster) (j : Nat) : (s.modCluster k f).core j = s.core j := rfl
@[simp] theorem State.modCluster_home (s : State) (k : Nat) (f : Cluster → Cluster) (j : Nat) : (s.modCluster k f).home j = s.home j := rfl
@[simp] theorem State.modCluster_field (s : State) (k : Nat) (f : Cluster → Cluster) (j : Nat) : (s.modCluster k f).field j = s.field j := rfl
@[simp] theorem State.modCluster_info (s : State) (k : Nat) (f : Cluster → Cluster) (j : Nat) : (s.modCluster k f).info j = s.info j := rfl
@[simp] theorem State.modCluster_me (s : State) (k : Nat) (f : Cluster → Cluster) : (s.modCluster k f).me = s.me := rfl

/-! `modHome` changes `homes` only. -/

@[simp] theorem State.modHome_now (s : State) (k : Nat) (f : Home → Home) : (s.modHome k f).now = s.now := rfl
@[simp] theorem State.modHome_cur (s : State) (k : Nat) (f : Home → Home) : (s.modHome k f).cur = s.cur := rfl
@[simp] theorem State.modHome_agenda (s : State) (k : Nat) (f : Home → Home) : (s.modHome k f).agenda = s.agenda := rfl
@[simp] theorem State.modHome_free (s : State) (k : Nat) (f : Home → Home) : (s.modHome k f).free = s.free := rfl
@[simp] theorem State.modHome_nextId (s : State) (k : Nat) (f : Home → Home) : (s.modHome k f).nextId = s.nextId := rfl
@[simp] theorem State.modHome_flights (s : State) (k : Nat) (f : Home → Home) : (s.modHome k f).flights = s.flights := rfl
@[simp] theorem State.modHome_mem (s : State) (k : Nat) (f : Home → Home) : (s.modHome k f).mem = s.mem := rfl
@[simp] theorem State.modHome_tags (s : State) (k : Nat) (f : Home → Home) : (s.modHome k f).tags = s.tags := rfl
@[simp] theorem State.modHome_bad (s : State) (k : Nat) (f : Home → Home) : (s.modHome k f).bad = s.bad := rfl
@[simp] theorem State.modHome_soft (s : State) (k : Nat) (f : Home → Home) : (s.modHome k f).soft = s.soft := rfl
@[simp] theorem State.modHome_asids (s : State) (k : Nat) (f : Home → Home) : (s.modHome k f).asids = s.asids := rfl
@[simp] theorem State.modHome_groups (s : State) (k : Nat) (f : Home → Home) : (s.modHome k f).groups = s.groups := rfl
@[simp] theorem State.modHome_launches (s : State) (k : Nat) (f : Home → Home) : (s.modHome k f).launches = s.launches := rfl
@[simp] theorem State.modHome_plans (s : State) (k : Nat) (f : Home → Home) : (s.modHome k f).plans = s.plans := rfl
@[simp] theorem State.modHome_regions (s : State) (k : Nat) (f : Home → Home) : (s.modHome k f).regions = s.regions := rfl
@[simp] theorem State.modHome_embers (s : State) (k : Nat) (f : Home → Home) : (s.modHome k f).embers = s.embers := rfl
@[simp] theorem State.modHome_slots (s : State) (k : Nat) (f : Home → Home) : (s.modHome k f).slots = s.slots := rfl
@[simp] theorem State.modHome_cores (s : State) (k : Nat) (f : Home → Home) : (s.modHome k f).cores = s.cores := rfl
@[simp] theorem State.modHome_clusters (s : State) (k : Nat) (f : Home → Home) : (s.modHome k f).clusters = s.clusters := rfl
@[simp] theorem State.modHome_fields (s : State) (k : Nat) (f : Home → Home) : (s.modHome k f).fields = s.fields := rfl
@[simp] theorem State.modHome_module (s : State) (k : Nat) (f : Home → Home) : (s.modHome k f).module = s.module := rfl
@[simp] theorem State.modHome_slot (s : State) (k : Nat) (f : Home → Home) (j : Nat) : (s.modHome k f).slot j = s.slot j := rfl
@[simp] theorem State.modHome_core (s : State) (k : Nat) (f : Home → Home) (j : Nat) : (s.modHome k f).core j = s.core j := rfl
@[simp] theorem State.modHome_cluster (s : State) (k : Nat) (f : Home → Home) (j : Nat) : (s.modHome k f).cluster j = s.cluster j := rfl
@[simp] theorem State.modHome_field (s : State) (k : Nat) (f : Home → Home) (j : Nat) : (s.modHome k f).field j = s.field j := rfl
@[simp] theorem State.modHome_info (s : State) (k : Nat) (f : Home → Home) (j : Nat) : (s.modHome k f).info j = s.info j := rfl
@[simp] theorem State.modHome_me (s : State) (k : Nat) (f : Home → Home) : (s.modHome k f).me = s.me := rfl

/-! `modField` changes `fields` only. -/

@[simp] theorem State.modField_now (s : State) (k : Nat) (f : Field → Field) : (s.modField k f).now = s.now := rfl
@[simp] theorem State.modField_cur (s : State) (k : Nat) (f : Field → Field) : (s.modField k f).cur = s.cur := rfl
@[simp] theorem State.modField_agenda (s : State) (k : Nat) (f : Field → Field) : (s.modField k f).agenda = s.agenda := rfl
@[simp] theorem State.modField_free (s : State) (k : Nat) (f : Field → Field) : (s.modField k f).free = s.free := rfl
@[simp] theorem State.modField_nextId (s : State) (k : Nat) (f : Field → Field) : (s.modField k f).nextId = s.nextId := rfl
@[simp] theorem State.modField_flights (s : State) (k : Nat) (f : Field → Field) : (s.modField k f).flights = s.flights := rfl
@[simp] theorem State.modField_mem (s : State) (k : Nat) (f : Field → Field) : (s.modField k f).mem = s.mem := rfl
@[simp] theorem State.modField_tags (s : State) (k : Nat) (f : Field → Field) : (s.modField k f).tags = s.tags := rfl
@[simp] theorem State.modField_bad (s : State) (k : Nat) (f : Field → Field) : (s.modField k f).bad = s.bad := rfl
@[simp] theorem State.modField_soft (s : State) (k : Nat) (f : Field → Field) : (s.modField k f).soft = s.soft := rfl
@[simp] theorem State.modField_asids (s : State) (k : Nat) (f : Field → Field) : (s.modField k f).asids = s.asids := rfl
@[simp] theorem State.modField_groups (s : State) (k : Nat) (f : Field → Field) : (s.modField k f).groups = s.groups := rfl
@[simp] theorem State.modField_launches (s : State) (k : Nat) (f : Field → Field) : (s.modField k f).launches = s.launches := rfl
@[simp] theorem State.modField_plans (s : State) (k : Nat) (f : Field → Field) : (s.modField k f).plans = s.plans := rfl
@[simp] theorem State.modField_regions (s : State) (k : Nat) (f : Field → Field) : (s.modField k f).regions = s.regions := rfl
@[simp] theorem State.modField_embers (s : State) (k : Nat) (f : Field → Field) : (s.modField k f).embers = s.embers := rfl
@[simp] theorem State.modField_slots (s : State) (k : Nat) (f : Field → Field) : (s.modField k f).slots = s.slots := rfl
@[simp] theorem State.modField_cores (s : State) (k : Nat) (f : Field → Field) : (s.modField k f).cores = s.cores := rfl
@[simp] theorem State.modField_clusters (s : State) (k : Nat) (f : Field → Field) : (s.modField k f).clusters = s.clusters := rfl
@[simp] theorem State.modField_homes (s : State) (k : Nat) (f : Field → Field) : (s.modField k f).homes = s.homes := rfl
@[simp] theorem State.modField_module (s : State) (k : Nat) (f : Field → Field) : (s.modField k f).module = s.module := rfl
@[simp] theorem State.modField_slot (s : State) (k : Nat) (f : Field → Field) (j : Nat) : (s.modField k f).slot j = s.slot j := rfl
@[simp] theorem State.modField_core (s : State) (k : Nat) (f : Field → Field) (j : Nat) : (s.modField k f).core j = s.core j := rfl
@[simp] theorem State.modField_cluster (s : State) (k : Nat) (f : Field → Field) (j : Nat) : (s.modField k f).cluster j = s.cluster j := rfl
@[simp] theorem State.modField_home (s : State) (k : Nat) (f : Field → Field) (j : Nat) : (s.modField k f).home j = s.home j := rfl
@[simp] theorem State.modField_info (s : State) (k : Nat) (f : Field → Field) (j : Nat) : (s.modField k f).info j = s.info j := rfl
@[simp] theorem State.modField_me (s : State) (k : Nat) (f : Field → Field) : (s.modField k f).me = s.me := rfl

/-! `modInfo` changes `embers` only. -/

@[simp] theorem State.modInfo_now (s : State) (e : Nat) (f : EmberInfo → EmberInfo) : (s.modInfo e f).now = s.now := rfl
@[simp] theorem State.modInfo_cur (s : State) (e : Nat) (f : EmberInfo → EmberInfo) : (s.modInfo e f).cur = s.cur := rfl
@[simp] theorem State.modInfo_agenda (s : State) (e : Nat) (f : EmberInfo → EmberInfo) : (s.modInfo e f).agenda = s.agenda := rfl
@[simp] theorem State.modInfo_free (s : State) (e : Nat) (f : EmberInfo → EmberInfo) : (s.modInfo e f).free = s.free := rfl
@[simp] theorem State.modInfo_nextId (s : State) (e : Nat) (f : EmberInfo → EmberInfo) : (s.modInfo e f).nextId = s.nextId := rfl
@[simp] theorem State.modInfo_flights (s : State) (e : Nat) (f : EmberInfo → EmberInfo) : (s.modInfo e f).flights = s.flights := rfl
@[simp] theorem State.modInfo_mem (s : State) (e : Nat) (f : EmberInfo → EmberInfo) : (s.modInfo e f).mem = s.mem := rfl
@[simp] theorem State.modInfo_tags (s : State) (e : Nat) (f : EmberInfo → EmberInfo) : (s.modInfo e f).tags = s.tags := rfl
@[simp] theorem State.modInfo_bad (s : State) (e : Nat) (f : EmberInfo → EmberInfo) : (s.modInfo e f).bad = s.bad := rfl
@[simp] theorem State.modInfo_soft (s : State) (e : Nat) (f : EmberInfo → EmberInfo) : (s.modInfo e f).soft = s.soft := rfl
@[simp] theorem State.modInfo_asids (s : State) (e : Nat) (f : EmberInfo → EmberInfo) : (s.modInfo e f).asids = s.asids := rfl
@[simp] theorem State.modInfo_groups (s : State) (e : Nat) (f : EmberInfo → EmberInfo) : (s.modInfo e f).groups = s.groups := rfl
@[simp] theorem State.modInfo_launches (s : State) (e : Nat) (f : EmberInfo → EmberInfo) : (s.modInfo e f).launches = s.launches := rfl
@[simp] theorem State.modInfo_plans (s : State) (e : Nat) (f : EmberInfo → EmberInfo) : (s.modInfo e f).plans = s.plans := rfl
@[simp] theorem State.modInfo_regions (s : State) (e : Nat) (f : EmberInfo → EmberInfo) : (s.modInfo e f).regions = s.regions := rfl
@[simp] theorem State.modInfo_slots (s : State) (e : Nat) (f : EmberInfo → EmberInfo) : (s.modInfo e f).slots = s.slots := rfl
@[simp] theorem State.modInfo_cores (s : State) (e : Nat) (f : EmberInfo → EmberInfo) : (s.modInfo e f).cores = s.cores := rfl
@[simp] theorem State.modInfo_clusters (s : State) (e : Nat) (f : EmberInfo → EmberInfo) : (s.modInfo e f).clusters = s.clusters := rfl
@[simp] theorem State.modInfo_homes (s : State) (e : Nat) (f : EmberInfo → EmberInfo) : (s.modInfo e f).homes = s.homes := rfl
@[simp] theorem State.modInfo_fields (s : State) (e : Nat) (f : EmberInfo → EmberInfo) : (s.modInfo e f).fields = s.fields := rfl
@[simp] theorem State.modInfo_module (s : State) (e : Nat) (f : EmberInfo → EmberInfo) : (s.modInfo e f).module = s.module := rfl
@[simp] theorem State.modInfo_slot (s : State) (e : Nat) (f : EmberInfo → EmberInfo) (j : Nat) : (s.modInfo e f).slot j = s.slot j := rfl
@[simp] theorem State.modInfo_core (s : State) (e : Nat) (f : EmberInfo → EmberInfo) (j : Nat) : (s.modInfo e f).core j = s.core j := rfl
@[simp] theorem State.modInfo_cluster (s : State) (e : Nat) (f : EmberInfo → EmberInfo) (j : Nat) : (s.modInfo e f).cluster j = s.cluster j := rfl
@[simp] theorem State.modInfo_home (s : State) (e : Nat) (f : EmberInfo → EmberInfo) (j : Nat) : (s.modInfo e f).home j = s.home j := rfl
@[simp] theorem State.modInfo_field (s : State) (e : Nat) (f : EmberInfo → EmberInfo) (j : Nat) : (s.modInfo e f).field j = s.field j := rfl
@[simp] theorem State.modInfo_me (s : State) (e : Nat) (f : EmberInfo → EmberInfo) : (s.modInfo e f).me = s.me := rfl

/-! `modModule` changes `module` only. -/

@[simp] theorem State.modModule_now (s : State) (f : Module → Module) : (s.modModule f).now = s.now := rfl
@[simp] theorem State.modModule_cur (s : State) (f : Module → Module) : (s.modModule f).cur = s.cur := rfl
@[simp] theorem State.modModule_agenda (s : State) (f : Module → Module) : (s.modModule f).agenda = s.agenda := rfl
@[simp] theorem State.modModule_free (s : State) (f : Module → Module) : (s.modModule f).free = s.free := rfl
@[simp] theorem State.modModule_nextId (s : State) (f : Module → Module) : (s.modModule f).nextId = s.nextId := rfl
@[simp] theorem State.modModule_flights (s : State) (f : Module → Module) : (s.modModule f).flights = s.flights := rfl
@[simp] theorem State.modModule_mem (s : State) (f : Module → Module) : (s.modModule f).mem = s.mem := rfl
@[simp] theorem State.modModule_tags (s : State) (f : Module → Module) : (s.modModule f).tags = s.tags := rfl
@[simp] theorem State.modModule_bad (s : State) (f : Module → Module) : (s.modModule f).bad = s.bad := rfl
@[simp] theorem State.modModule_soft (s : State) (f : Module → Module) : (s.modModule f).soft = s.soft := rfl
@[simp] theorem State.modModule_asids (s : State) (f : Module → Module) : (s.modModule f).asids = s.asids := rfl
@[simp] theorem State.modModule_groups (s : State) (f : Module → Module) : (s.modModule f).groups = s.groups := rfl
@[simp] theorem State.modModule_launches (s : State) (f : Module → Module) : (s.modModule f).launches = s.launches := rfl
@[simp] theorem State.modModule_plans (s : State) (f : Module → Module) : (s.modModule f).plans = s.plans := rfl
@[simp] theorem State.modModule_regions (s : State) (f : Module → Module) : (s.modModule f).regions = s.regions := rfl
@[simp] theorem State.modModule_embers (s : State) (f : Module → Module) : (s.modModule f).embers = s.embers := rfl
@[simp] theorem State.modModule_slots (s : State) (f : Module → Module) : (s.modModule f).slots = s.slots := rfl
@[simp] theorem State.modModule_cores (s : State) (f : Module → Module) : (s.modModule f).cores = s.cores := rfl
@[simp] theorem State.modModule_clusters (s : State) (f : Module → Module) : (s.modModule f).clusters = s.clusters := rfl
@[simp] theorem State.modModule_homes (s : State) (f : Module → Module) : (s.modModule f).homes = s.homes := rfl
@[simp] theorem State.modModule_fields (s : State) (f : Module → Module) : (s.modModule f).fields = s.fields := rfl
@[simp] theorem State.modModule_slot (s : State) (f : Module → Module) (j : Nat) : (s.modModule f).slot j = s.slot j := rfl
@[simp] theorem State.modModule_core (s : State) (f : Module → Module) (j : Nat) : (s.modModule f).core j = s.core j := rfl
@[simp] theorem State.modModule_cluster (s : State) (f : Module → Module) (j : Nat) : (s.modModule f).cluster j = s.cluster j := rfl
@[simp] theorem State.modModule_home (s : State) (f : Module → Module) (j : Nat) : (s.modModule f).home j = s.home j := rfl
@[simp] theorem State.modModule_field (s : State) (f : Module → Module) (j : Nat) : (s.modModule f).field j = s.field j := rfl
@[simp] theorem State.modModule_info (s : State) (f : Module → Module) (j : Nat) : (s.modModule f).info j = s.info j := rfl
@[simp] theorem State.modModule_me (s : State) (f : Module → Module) : (s.modModule f).me = s.me := rfl

/-! `postRank` changes `agenda` only. -/

@[simp] theorem State.postRank_now (s : State) (t n : Nat) (i : Instr) : (s.postRank t n i).now = s.now := rfl
@[simp] theorem State.postRank_cur (s : State) (t n : Nat) (i : Instr) : (s.postRank t n i).cur = s.cur := rfl
@[simp] theorem State.postRank_free (s : State) (t n : Nat) (i : Instr) : (s.postRank t n i).free = s.free := rfl
@[simp] theorem State.postRank_nextId (s : State) (t n : Nat) (i : Instr) : (s.postRank t n i).nextId = s.nextId := rfl
@[simp] theorem State.postRank_flights (s : State) (t n : Nat) (i : Instr) : (s.postRank t n i).flights = s.flights := rfl
@[simp] theorem State.postRank_mem (s : State) (t n : Nat) (i : Instr) : (s.postRank t n i).mem = s.mem := rfl
@[simp] theorem State.postRank_tags (s : State) (t n : Nat) (i : Instr) : (s.postRank t n i).tags = s.tags := rfl
@[simp] theorem State.postRank_bad (s : State) (t n : Nat) (i : Instr) : (s.postRank t n i).bad = s.bad := rfl
@[simp] theorem State.postRank_soft (s : State) (t n : Nat) (i : Instr) : (s.postRank t n i).soft = s.soft := rfl
@[simp] theorem State.postRank_asids (s : State) (t n : Nat) (i : Instr) : (s.postRank t n i).asids = s.asids := rfl
@[simp] theorem State.postRank_groups (s : State) (t n : Nat) (i : Instr) : (s.postRank t n i).groups = s.groups := rfl
@[simp] theorem State.postRank_launches (s : State) (t n : Nat) (i : Instr) : (s.postRank t n i).launches = s.launches := rfl
@[simp] theorem State.postRank_plans (s : State) (t n : Nat) (i : Instr) : (s.postRank t n i).plans = s.plans := rfl
@[simp] theorem State.postRank_regions (s : State) (t n : Nat) (i : Instr) : (s.postRank t n i).regions = s.regions := rfl
@[simp] theorem State.postRank_embers (s : State) (t n : Nat) (i : Instr) : (s.postRank t n i).embers = s.embers := rfl
@[simp] theorem State.postRank_slots (s : State) (t n : Nat) (i : Instr) : (s.postRank t n i).slots = s.slots := rfl
@[simp] theorem State.postRank_cores (s : State) (t n : Nat) (i : Instr) : (s.postRank t n i).cores = s.cores := rfl
@[simp] theorem State.postRank_clusters (s : State) (t n : Nat) (i : Instr) : (s.postRank t n i).clusters = s.clusters := rfl
@[simp] theorem State.postRank_homes (s : State) (t n : Nat) (i : Instr) : (s.postRank t n i).homes = s.homes := rfl
@[simp] theorem State.postRank_fields (s : State) (t n : Nat) (i : Instr) : (s.postRank t n i).fields = s.fields := rfl
@[simp] theorem State.postRank_module (s : State) (t n : Nat) (i : Instr) : (s.postRank t n i).module = s.module := rfl
@[simp] theorem State.postRank_slot (s : State) (t n : Nat) (i : Instr) (j : Nat) : (s.postRank t n i).slot j = s.slot j := rfl
@[simp] theorem State.postRank_core (s : State) (t n : Nat) (i : Instr) (j : Nat) : (s.postRank t n i).core j = s.core j := rfl
@[simp] theorem State.postRank_cluster (s : State) (t n : Nat) (i : Instr) (j : Nat) : (s.postRank t n i).cluster j = s.cluster j := rfl
@[simp] theorem State.postRank_home (s : State) (t n : Nat) (i : Instr) (j : Nat) : (s.postRank t n i).home j = s.home j := rfl
@[simp] theorem State.postRank_field (s : State) (t n : Nat) (i : Instr) (j : Nat) : (s.postRank t n i).field j = s.field j := rfl
@[simp] theorem State.postRank_info (s : State) (t n : Nat) (i : Instr) (j : Nat) : (s.postRank t n i).info j = s.info j := rfl
@[simp] theorem State.postRank_me (s : State) (t n : Nat) (i : Instr) : (s.postRank t n i).me = s.me := rfl

/-! `post` changes `agenda` only. -/

@[simp] theorem State.post_now (s : State) (t : Nat) (i : Instr) : (s.post t i).now = s.now := rfl
@[simp] theorem State.post_cur (s : State) (t : Nat) (i : Instr) : (s.post t i).cur = s.cur := rfl
@[simp] theorem State.post_free (s : State) (t : Nat) (i : Instr) : (s.post t i).free = s.free := rfl
@[simp] theorem State.post_nextId (s : State) (t : Nat) (i : Instr) : (s.post t i).nextId = s.nextId := rfl
@[simp] theorem State.post_flights (s : State) (t : Nat) (i : Instr) : (s.post t i).flights = s.flights := rfl
@[simp] theorem State.post_mem (s : State) (t : Nat) (i : Instr) : (s.post t i).mem = s.mem := rfl
@[simp] theorem State.post_tags (s : State) (t : Nat) (i : Instr) : (s.post t i).tags = s.tags := rfl
@[simp] theorem State.post_bad (s : State) (t : Nat) (i : Instr) : (s.post t i).bad = s.bad := rfl
@[simp] theorem State.post_soft (s : State) (t : Nat) (i : Instr) : (s.post t i).soft = s.soft := rfl
@[simp] theorem State.post_asids (s : State) (t : Nat) (i : Instr) : (s.post t i).asids = s.asids := rfl
@[simp] theorem State.post_groups (s : State) (t : Nat) (i : Instr) : (s.post t i).groups = s.groups := rfl
@[simp] theorem State.post_launches (s : State) (t : Nat) (i : Instr) : (s.post t i).launches = s.launches := rfl
@[simp] theorem State.post_plans (s : State) (t : Nat) (i : Instr) : (s.post t i).plans = s.plans := rfl
@[simp] theorem State.post_regions (s : State) (t : Nat) (i : Instr) : (s.post t i).regions = s.regions := rfl
@[simp] theorem State.post_embers (s : State) (t : Nat) (i : Instr) : (s.post t i).embers = s.embers := rfl
@[simp] theorem State.post_slots (s : State) (t : Nat) (i : Instr) : (s.post t i).slots = s.slots := rfl
@[simp] theorem State.post_cores (s : State) (t : Nat) (i : Instr) : (s.post t i).cores = s.cores := rfl
@[simp] theorem State.post_clusters (s : State) (t : Nat) (i : Instr) : (s.post t i).clusters = s.clusters := rfl
@[simp] theorem State.post_homes (s : State) (t : Nat) (i : Instr) : (s.post t i).homes = s.homes := rfl
@[simp] theorem State.post_fields (s : State) (t : Nat) (i : Instr) : (s.post t i).fields = s.fields := rfl
@[simp] theorem State.post_module (s : State) (t : Nat) (i : Instr) : (s.post t i).module = s.module := rfl
@[simp] theorem State.post_slot (s : State) (t : Nat) (i : Instr) (j : Nat) : (s.post t i).slot j = s.slot j := rfl
@[simp] theorem State.post_core (s : State) (t : Nat) (i : Instr) (j : Nat) : (s.post t i).core j = s.core j := rfl
@[simp] theorem State.post_cluster (s : State) (t : Nat) (i : Instr) (j : Nat) : (s.post t i).cluster j = s.cluster j := rfl
@[simp] theorem State.post_home (s : State) (t : Nat) (i : Instr) (j : Nat) : (s.post t i).home j = s.home j := rfl
@[simp] theorem State.post_field (s : State) (t : Nat) (i : Instr) (j : Nat) : (s.post t i).field j = s.field j := rfl
@[simp] theorem State.post_info (s : State) (t : Nat) (i : Instr) (j : Nat) : (s.post t i).info j = s.info j := rfl
@[simp] theorem State.post_me (s : State) (t : Nat) (i : Instr) : (s.post t i).me = s.me := rfl

/-! `setTag` changes `tags` only. -/

@[simp] theorem State.setTag_now (s : State) (a : Nat) (t : BitVec 4) : (s.setTag a t).now = s.now := rfl
@[simp] theorem State.setTag_cur (s : State) (a : Nat) (t : BitVec 4) : (s.setTag a t).cur = s.cur := rfl
@[simp] theorem State.setTag_agenda (s : State) (a : Nat) (t : BitVec 4) : (s.setTag a t).agenda = s.agenda := rfl
@[simp] theorem State.setTag_free (s : State) (a : Nat) (t : BitVec 4) : (s.setTag a t).free = s.free := rfl
@[simp] theorem State.setTag_nextId (s : State) (a : Nat) (t : BitVec 4) : (s.setTag a t).nextId = s.nextId := rfl
@[simp] theorem State.setTag_flights (s : State) (a : Nat) (t : BitVec 4) : (s.setTag a t).flights = s.flights := rfl
@[simp] theorem State.setTag_mem (s : State) (a : Nat) (t : BitVec 4) : (s.setTag a t).mem = s.mem := rfl
@[simp] theorem State.setTag_bad (s : State) (a : Nat) (t : BitVec 4) : (s.setTag a t).bad = s.bad := rfl
@[simp] theorem State.setTag_soft (s : State) (a : Nat) (t : BitVec 4) : (s.setTag a t).soft = s.soft := rfl
@[simp] theorem State.setTag_asids (s : State) (a : Nat) (t : BitVec 4) : (s.setTag a t).asids = s.asids := rfl
@[simp] theorem State.setTag_groups (s : State) (a : Nat) (t : BitVec 4) : (s.setTag a t).groups = s.groups := rfl
@[simp] theorem State.setTag_launches (s : State) (a : Nat) (t : BitVec 4) : (s.setTag a t).launches = s.launches := rfl
@[simp] theorem State.setTag_plans (s : State) (a : Nat) (t : BitVec 4) : (s.setTag a t).plans = s.plans := rfl
@[simp] theorem State.setTag_regions (s : State) (a : Nat) (t : BitVec 4) : (s.setTag a t).regions = s.regions := rfl
@[simp] theorem State.setTag_embers (s : State) (a : Nat) (t : BitVec 4) : (s.setTag a t).embers = s.embers := rfl
@[simp] theorem State.setTag_slots (s : State) (a : Nat) (t : BitVec 4) : (s.setTag a t).slots = s.slots := rfl
@[simp] theorem State.setTag_cores (s : State) (a : Nat) (t : BitVec 4) : (s.setTag a t).cores = s.cores := rfl
@[simp] theorem State.setTag_clusters (s : State) (a : Nat) (t : BitVec 4) : (s.setTag a t).clusters = s.clusters := rfl
@[simp] theorem State.setTag_homes (s : State) (a : Nat) (t : BitVec 4) : (s.setTag a t).homes = s.homes := rfl
@[simp] theorem State.setTag_fields (s : State) (a : Nat) (t : BitVec 4) : (s.setTag a t).fields = s.fields := rfl
@[simp] theorem State.setTag_module (s : State) (a : Nat) (t : BitVec 4) : (s.setTag a t).module = s.module := rfl
@[simp] theorem State.setTag_slot (s : State) (a : Nat) (t : BitVec 4) (j : Nat) : (s.setTag a t).slot j = s.slot j := rfl
@[simp] theorem State.setTag_core (s : State) (a : Nat) (t : BitVec 4) (j : Nat) : (s.setTag a t).core j = s.core j := rfl
@[simp] theorem State.setTag_cluster (s : State) (a : Nat) (t : BitVec 4) (j : Nat) : (s.setTag a t).cluster j = s.cluster j := rfl
@[simp] theorem State.setTag_home (s : State) (a : Nat) (t : BitVec 4) (j : Nat) : (s.setTag a t).home j = s.home j := rfl
@[simp] theorem State.setTag_field (s : State) (a : Nat) (t : BitVec 4) (j : Nat) : (s.setTag a t).field j = s.field j := rfl
@[simp] theorem State.setTag_info (s : State) (a : Nat) (t : BitVec 4) (j : Nat) : (s.setTag a t).info j = s.info j := rfl
@[simp] theorem State.setTag_me (s : State) (a : Nat) (t : BitVec 4) : (s.setTag a t).me = s.me := rfl

/-! `land` changes `flights` only. -/

@[simp] theorem State.land_now (s : State) (id : Nat) : (s.land id).now = s.now := rfl
@[simp] theorem State.land_cur (s : State) (id : Nat) : (s.land id).cur = s.cur := rfl
@[simp] theorem State.land_agenda (s : State) (id : Nat) : (s.land id).agenda = s.agenda := rfl
@[simp] theorem State.land_free (s : State) (id : Nat) : (s.land id).free = s.free := rfl
@[simp] theorem State.land_nextId (s : State) (id : Nat) : (s.land id).nextId = s.nextId := rfl
@[simp] theorem State.land_mem (s : State) (id : Nat) : (s.land id).mem = s.mem := rfl
@[simp] theorem State.land_tags (s : State) (id : Nat) : (s.land id).tags = s.tags := rfl
@[simp] theorem State.land_bad (s : State) (id : Nat) : (s.land id).bad = s.bad := rfl
@[simp] theorem State.land_soft (s : State) (id : Nat) : (s.land id).soft = s.soft := rfl
@[simp] theorem State.land_asids (s : State) (id : Nat) : (s.land id).asids = s.asids := rfl
@[simp] theorem State.land_groups (s : State) (id : Nat) : (s.land id).groups = s.groups := rfl
@[simp] theorem State.land_launches (s : State) (id : Nat) : (s.land id).launches = s.launches := rfl
@[simp] theorem State.land_plans (s : State) (id : Nat) : (s.land id).plans = s.plans := rfl
@[simp] theorem State.land_regions (s : State) (id : Nat) : (s.land id).regions = s.regions := rfl
@[simp] theorem State.land_embers (s : State) (id : Nat) : (s.land id).embers = s.embers := rfl
@[simp] theorem State.land_slots (s : State) (id : Nat) : (s.land id).slots = s.slots := rfl
@[simp] theorem State.land_cores (s : State) (id : Nat) : (s.land id).cores = s.cores := rfl
@[simp] theorem State.land_clusters (s : State) (id : Nat) : (s.land id).clusters = s.clusters := rfl
@[simp] theorem State.land_homes (s : State) (id : Nat) : (s.land id).homes = s.homes := rfl
@[simp] theorem State.land_fields (s : State) (id : Nat) : (s.land id).fields = s.fields := rfl
@[simp] theorem State.land_module (s : State) (id : Nat) : (s.land id).module = s.module := rfl
@[simp] theorem State.land_slot (s : State) (id : Nat) (j : Nat) : (s.land id).slot j = s.slot j := rfl
@[simp] theorem State.land_core (s : State) (id : Nat) (j : Nat) : (s.land id).core j = s.core j := rfl
@[simp] theorem State.land_cluster (s : State) (id : Nat) (j : Nat) : (s.land id).cluster j = s.cluster j := rfl
@[simp] theorem State.land_home (s : State) (id : Nat) (j : Nat) : (s.land id).home j = s.home j := rfl
@[simp] theorem State.land_field (s : State) (id : Nat) (j : Nat) : (s.land id).field j = s.field j := rfl
@[simp] theorem State.land_info (s : State) (id : Nat) (j : Nat) : (s.land id).info j = s.info j := rfl
@[simp] theorem State.land_me (s : State) (id : Nat) : (s.land id).me = s.me := rfl

/-! `setLatch` changes `cores` only. -/

@[simp] theorem State.setLatch_now (s : State) (k : Nat) (l : Rows) : (s.setLatch k l).now = s.now := rfl
@[simp] theorem State.setLatch_cur (s : State) (k : Nat) (l : Rows) : (s.setLatch k l).cur = s.cur := rfl
@[simp] theorem State.setLatch_agenda (s : State) (k : Nat) (l : Rows) : (s.setLatch k l).agenda = s.agenda := rfl
@[simp] theorem State.setLatch_free (s : State) (k : Nat) (l : Rows) : (s.setLatch k l).free = s.free := rfl
@[simp] theorem State.setLatch_nextId (s : State) (k : Nat) (l : Rows) : (s.setLatch k l).nextId = s.nextId := rfl
@[simp] theorem State.setLatch_flights (s : State) (k : Nat) (l : Rows) : (s.setLatch k l).flights = s.flights := rfl
@[simp] theorem State.setLatch_mem (s : State) (k : Nat) (l : Rows) : (s.setLatch k l).mem = s.mem := rfl
@[simp] theorem State.setLatch_tags (s : State) (k : Nat) (l : Rows) : (s.setLatch k l).tags = s.tags := rfl
@[simp] theorem State.setLatch_bad (s : State) (k : Nat) (l : Rows) : (s.setLatch k l).bad = s.bad := rfl
@[simp] theorem State.setLatch_soft (s : State) (k : Nat) (l : Rows) : (s.setLatch k l).soft = s.soft := rfl
@[simp] theorem State.setLatch_asids (s : State) (k : Nat) (l : Rows) : (s.setLatch k l).asids = s.asids := rfl
@[simp] theorem State.setLatch_groups (s : State) (k : Nat) (l : Rows) : (s.setLatch k l).groups = s.groups := rfl
@[simp] theorem State.setLatch_launches (s : State) (k : Nat) (l : Rows) : (s.setLatch k l).launches = s.launches := rfl
@[simp] theorem State.setLatch_plans (s : State) (k : Nat) (l : Rows) : (s.setLatch k l).plans = s.plans := rfl
@[simp] theorem State.setLatch_regions (s : State) (k : Nat) (l : Rows) : (s.setLatch k l).regions = s.regions := rfl
@[simp] theorem State.setLatch_embers (s : State) (k : Nat) (l : Rows) : (s.setLatch k l).embers = s.embers := rfl
@[simp] theorem State.setLatch_slots (s : State) (k : Nat) (l : Rows) : (s.setLatch k l).slots = s.slots := rfl
@[simp] theorem State.setLatch_clusters (s : State) (k : Nat) (l : Rows) : (s.setLatch k l).clusters = s.clusters := rfl
@[simp] theorem State.setLatch_homes (s : State) (k : Nat) (l : Rows) : (s.setLatch k l).homes = s.homes := rfl
@[simp] theorem State.setLatch_fields (s : State) (k : Nat) (l : Rows) : (s.setLatch k l).fields = s.fields := rfl
@[simp] theorem State.setLatch_module (s : State) (k : Nat) (l : Rows) : (s.setLatch k l).module = s.module := rfl
@[simp] theorem State.setLatch_slot (s : State) (k : Nat) (l : Rows) (j : Nat) : (s.setLatch k l).slot j = s.slot j := rfl
@[simp] theorem State.setLatch_cluster (s : State) (k : Nat) (l : Rows) (j : Nat) : (s.setLatch k l).cluster j = s.cluster j := rfl
@[simp] theorem State.setLatch_home (s : State) (k : Nat) (l : Rows) (j : Nat) : (s.setLatch k l).home j = s.home j := rfl
@[simp] theorem State.setLatch_field (s : State) (k : Nat) (l : Rows) (j : Nat) : (s.setLatch k l).field j = s.field j := rfl
@[simp] theorem State.setLatch_info (s : State) (k : Nat) (l : Rows) (j : Nat) : (s.setLatch k l).info j = s.info j := rfl
@[simp] theorem State.setLatch_me (s : State) (k : Nat) (l : Rows) : (s.setLatch k l).me = s.me := rfl

/-! `dropLatch` changes `cores` only. -/

@[simp] theorem State.dropLatch_now (s : State) (k : Nat) : (s.dropLatch k).now = s.now := rfl
@[simp] theorem State.dropLatch_cur (s : State) (k : Nat) : (s.dropLatch k).cur = s.cur := rfl
@[simp] theorem State.dropLatch_agenda (s : State) (k : Nat) : (s.dropLatch k).agenda = s.agenda := rfl
@[simp] theorem State.dropLatch_free (s : State) (k : Nat) : (s.dropLatch k).free = s.free := rfl
@[simp] theorem State.dropLatch_nextId (s : State) (k : Nat) : (s.dropLatch k).nextId = s.nextId := rfl
@[simp] theorem State.dropLatch_flights (s : State) (k : Nat) : (s.dropLatch k).flights = s.flights := rfl
@[simp] theorem State.dropLatch_mem (s : State) (k : Nat) : (s.dropLatch k).mem = s.mem := rfl
@[simp] theorem State.dropLatch_tags (s : State) (k : Nat) : (s.dropLatch k).tags = s.tags := rfl
@[simp] theorem State.dropLatch_bad (s : State) (k : Nat) : (s.dropLatch k).bad = s.bad := rfl
@[simp] theorem State.dropLatch_soft (s : State) (k : Nat) : (s.dropLatch k).soft = s.soft := rfl
@[simp] theorem State.dropLatch_asids (s : State) (k : Nat) : (s.dropLatch k).asids = s.asids := rfl
@[simp] theorem State.dropLatch_groups (s : State) (k : Nat) : (s.dropLatch k).groups = s.groups := rfl
@[simp] theorem State.dropLatch_launches (s : State) (k : Nat) : (s.dropLatch k).launches = s.launches := rfl
@[simp] theorem State.dropLatch_plans (s : State) (k : Nat) : (s.dropLatch k).plans = s.plans := rfl
@[simp] theorem State.dropLatch_regions (s : State) (k : Nat) : (s.dropLatch k).regions = s.regions := rfl
@[simp] theorem State.dropLatch_embers (s : State) (k : Nat) : (s.dropLatch k).embers = s.embers := rfl
@[simp] theorem State.dropLatch_slots (s : State) (k : Nat) : (s.dropLatch k).slots = s.slots := rfl
@[simp] theorem State.dropLatch_clusters (s : State) (k : Nat) : (s.dropLatch k).clusters = s.clusters := rfl
@[simp] theorem State.dropLatch_homes (s : State) (k : Nat) : (s.dropLatch k).homes = s.homes := rfl
@[simp] theorem State.dropLatch_fields (s : State) (k : Nat) : (s.dropLatch k).fields = s.fields := rfl
@[simp] theorem State.dropLatch_module (s : State) (k : Nat) : (s.dropLatch k).module = s.module := rfl
@[simp] theorem State.dropLatch_slot (s : State) (k : Nat) (j : Nat) : (s.dropLatch k).slot j = s.slot j := rfl
@[simp] theorem State.dropLatch_cluster (s : State) (k : Nat) (j : Nat) : (s.dropLatch k).cluster j = s.cluster j := rfl
@[simp] theorem State.dropLatch_home (s : State) (k : Nat) (j : Nat) : (s.dropLatch k).home j = s.home j := rfl
@[simp] theorem State.dropLatch_field (s : State) (k : Nat) (j : Nat) : (s.dropLatch k).field j = s.field j := rfl
@[simp] theorem State.dropLatch_info (s : State) (k : Nat) (j : Nat) : (s.dropLatch k).info j = s.info j := rfl
@[simp] theorem State.dropLatch_me (s : State) (k : Nat) : (s.dropLatch k).me = s.me := rfl

/-! `postFront` changes `agenda` only. -/

@[simp] theorem State.postFront_now (s : State) (n : Nat) (l : List Instr) : (s.postFront n l).now = s.now := rfl
@[simp] theorem State.postFront_cur (s : State) (n : Nat) (l : List Instr) : (s.postFront n l).cur = s.cur := rfl
@[simp] theorem State.postFront_free (s : State) (n : Nat) (l : List Instr) : (s.postFront n l).free = s.free := rfl
@[simp] theorem State.postFront_nextId (s : State) (n : Nat) (l : List Instr) : (s.postFront n l).nextId = s.nextId := rfl
@[simp] theorem State.postFront_flights (s : State) (n : Nat) (l : List Instr) : (s.postFront n l).flights = s.flights := rfl
@[simp] theorem State.postFront_mem (s : State) (n : Nat) (l : List Instr) : (s.postFront n l).mem = s.mem := rfl
@[simp] theorem State.postFront_tags (s : State) (n : Nat) (l : List Instr) : (s.postFront n l).tags = s.tags := rfl
@[simp] theorem State.postFront_bad (s : State) (n : Nat) (l : List Instr) : (s.postFront n l).bad = s.bad := rfl
@[simp] theorem State.postFront_soft (s : State) (n : Nat) (l : List Instr) : (s.postFront n l).soft = s.soft := rfl
@[simp] theorem State.postFront_asids (s : State) (n : Nat) (l : List Instr) : (s.postFront n l).asids = s.asids := rfl
@[simp] theorem State.postFront_groups (s : State) (n : Nat) (l : List Instr) : (s.postFront n l).groups = s.groups := rfl
@[simp] theorem State.postFront_launches (s : State) (n : Nat) (l : List Instr) : (s.postFront n l).launches = s.launches := rfl
@[simp] theorem State.postFront_plans (s : State) (n : Nat) (l : List Instr) : (s.postFront n l).plans = s.plans := rfl
@[simp] theorem State.postFront_regions (s : State) (n : Nat) (l : List Instr) : (s.postFront n l).regions = s.regions := rfl
@[simp] theorem State.postFront_embers (s : State) (n : Nat) (l : List Instr) : (s.postFront n l).embers = s.embers := rfl
@[simp] theorem State.postFront_slots (s : State) (n : Nat) (l : List Instr) : (s.postFront n l).slots = s.slots := rfl
@[simp] theorem State.postFront_cores (s : State) (n : Nat) (l : List Instr) : (s.postFront n l).cores = s.cores := rfl
@[simp] theorem State.postFront_clusters (s : State) (n : Nat) (l : List Instr) : (s.postFront n l).clusters = s.clusters := rfl
@[simp] theorem State.postFront_homes (s : State) (n : Nat) (l : List Instr) : (s.postFront n l).homes = s.homes := rfl
@[simp] theorem State.postFront_fields (s : State) (n : Nat) (l : List Instr) : (s.postFront n l).fields = s.fields := rfl
@[simp] theorem State.postFront_module (s : State) (n : Nat) (l : List Instr) : (s.postFront n l).module = s.module := rfl
@[simp] theorem State.postFront_slot (s : State) (n : Nat) (l : List Instr) (j : Nat) : (s.postFront n l).slot j = s.slot j := rfl
@[simp] theorem State.postFront_core (s : State) (n : Nat) (l : List Instr) (j : Nat) : (s.postFront n l).core j = s.core j := rfl
@[simp] theorem State.postFront_cluster (s : State) (n : Nat) (l : List Instr) (j : Nat) : (s.postFront n l).cluster j = s.cluster j := rfl
@[simp] theorem State.postFront_home (s : State) (n : Nat) (l : List Instr) (j : Nat) : (s.postFront n l).home j = s.home j := rfl
@[simp] theorem State.postFront_field (s : State) (n : Nat) (l : List Instr) (j : Nat) : (s.postFront n l).field j = s.field j := rfl
@[simp] theorem State.postFront_info (s : State) (n : Nat) (l : List Instr) (j : Nat) : (s.postFront n l).info j = s.info j := rfl
@[simp] theorem State.postFront_me (s : State) (n : Nat) (l : List Instr) : (s.postFront n l).me = s.me := rfl

/-! What an update writes. -/

theorem State.slot_putSlot (s : State) (k j : Nat) (v : Slot) : (s.putSlot k v).slot j = if j = k then v else s.slot j := by
  simp [State.slot, State.putSlot, Tab.get_set]
@[simp] theorem State.slot_putSlot_self (s : State) (k : Nat) (v : Slot) : (s.putSlot k v).slot k = v := by
  simp [State.slot_putSlot]
theorem State.slot_modSlot (s : State) (k j : Nat) (f : Slot → Slot) :
    (s.modSlot k f).slot j = if j = k then f (s.slot k) else s.slot j := by
  simp [State.modSlot, State.slot_putSlot]
@[simp] theorem State.slot_modSlot_self (s : State) (k : Nat) (f : Slot → Slot) : (s.modSlot k f).slot k = f (s.slot k) := by
  simp [State.slot_modSlot]
theorem State.slot_modSlot_ne (s : State) {k j : Nat} (f : Slot → Slot) (h : j ≠ k) : (s.modSlot k f).slot j = s.slot j := by
  simp [State.slot_modSlot, h]
@[simp] theorem State.modMe_me (s : State) (f : Slot → Slot) : (s.modMe f).me = f s.me := by
  simp [State.me, State.modMe]
@[simp] theorem State.setX_me (s : State) (r : Reg) (w : Word) : (s.setX r w).me = s.me.setX r.toNat w := by
  simp [State.setX]
@[simp] theorem State.setFp_me (s : State) (r : Reg) (w : BitVec 32) : (s.setFp r w).me = s.me.setF r.toNat w := by
  simp [State.setFp]
theorem State.modMe_slot_ne (s : State) {j : Nat} (f : Slot → Slot) (h : j ≠ s.cur) : (s.modMe f).slot j = s.slot j := by
  simp [State.modMe, State.slot_modSlot, h]
theorem State.setX_slot_ne (s : State) {j : Nat} (r : Reg) (w : Word) (h : j ≠ s.cur) : (s.setX r w).slot j = s.slot j :=
  s.modMe_slot_ne _ h
theorem State.setFp_slot_ne (s : State) {j : Nat} (r : Reg) (w : BitVec 32) (h : j ≠ s.cur) :
    (s.setFp r w).slot j = s.slot j := s.modMe_slot_ne _ h

theorem State.core_modCore (s : State) (k j : Nat) (f : Core → Core) :
    (s.modCore k f).core j = if j = k then f (s.core k) else s.core j := by
  simp [State.core, State.modCore, State.putCore, Tab.get_set]
@[simp] theorem State.core_modCore_self (s : State) (k : Nat) (f : Core → Core) : (s.modCore k f).core k = f (s.core k) := by
  simp [State.core_modCore]
theorem State.cluster_modCluster (s : State) (k j : Nat) (f : Cluster → Cluster) :
    (s.modCluster k f).cluster j = if j = k then f (s.cluster k) else s.cluster j := by
  simp [State.cluster, State.modCluster, Tab.get_set]
@[simp] theorem State.cluster_modCluster_self (s : State) (k : Nat) (f : Cluster → Cluster) :
    (s.modCluster k f).cluster k = f (s.cluster k) := by simp [State.cluster_modCluster]
theorem State.home_modHome (s : State) (k j : Nat) (f : Home → Home) :
    (s.modHome k f).home j = if j = k then f (s.home k) else s.home j := by
  simp [State.home, State.modHome, Tab.get_set]
@[simp] theorem State.home_modHome_self (s : State) (k : Nat) (f : Home → Home) : (s.modHome k f).home k = f (s.home k) := by
  simp [State.home_modHome]
theorem State.field_modField (s : State) (k j : Nat) (f : Field → Field) :
    (s.modField k f).field j = if j = k then f (s.field k) else s.field j := by
  simp [State.field, State.modField, Tab.get_set]
@[simp] theorem State.field_modField_self (s : State) (k : Nat) (f : Field → Field) : (s.modField k f).field k = f (s.field k) := by
  simp [State.field_modField]
theorem State.info_modInfo (s : State) (k j : Nat) (f : EmberInfo → EmberInfo) :
    (s.modInfo k f).info j = if j = k then f (s.info k) else s.info j := by
  simp [State.info, State.modInfo, Tab.get_set]
theorem State.tag_setTag (s : State) (a b : Nat) (t : BitVec 4) :
    (s.setTag a t).tag b = if b / 8 = a / 8 then t else s.tag b := by
  unfold State.setTag State.tag
  split
  · next h => simp only [Tab.get_erase]; split <;> simp [h]
  · simp only [Tab.get_set]

/-! Registers (R10, R12). -/

@[simp] theorem Slot.xr_zero (v : Slot) : v.xr 0 = 0 := rfl
/-- R10: a write of x0 is discarded; any other register reads as written, and no other register changes. -/
theorem Slot.xr_setX (v : Slot) (r q : Nat) (w : Word) : (v.setX r w).xr q = if q = r ∧ q ≠ 0 then w else v.xr q := by
  unfold Slot.setX Slot.xr
  by_cases h : r = 0 <;> by_cases hq : q = 0 <;> by_cases e : q = r <;> simp_all [Tab.get_set]
theorem Slot.fr_setF (v : Slot) (r q : Nat) (w : BitVec 32) : (v.setF r w).fr q = if q = r then w else v.fr q := by
  simp [Slot.setF, Slot.fr, Tab.get_set]
@[simp] theorem Slot.fr_setX (v : Slot) (r q : Nat) (w : Word) : (v.setX r w).fr q = v.fr q := by
  unfold Slot.setX Slot.fr; split <;> rfl
@[simp] theorem Slot.xr_setF (v : Slot) (r q : Nat) (w : BitVec 32) : (v.setF r w).xr q = v.xr q := rfl
/-- `setX` writes the x-registers and nothing else. -/
theorem Slot.setX_eq (v : Slot) (r : Nat) (w : Word) : v.setX r w = { v with x := (v.setX r w).x } := by
  unfold Slot.setX; split <;> rfl

end Sys2Proof.Machine
end

