-- ==== Sys2Proof/Laws/Complete.lean ====
section
/-! SUPPORT. Completing an instruction (R30, R101, R306, R308, R75): what `issued`, `completeAt`, `jump` and `retire` do,
said once. -/

namespace Sys2Proof.Machine

/-! `KeepsOutside` composes. -/

theorem State.KeepsOutside.refl (s : State) (k : Nat) : s.KeepsOutside s k := ⟨rfl, fun _ _ => rfl, rfl, fun _ _ => rfl, rfl, fun _ _ => rfl⟩

theorem State.KeepsOutside.trans {s t u : State} {k : Nat} (h : s.KeepsOutside t k) (g : t.KeepsOutside u k) :
    s.KeepsOutside u k where
  rest := by rw [g.rest, h.rest]
  slots j hj := (g.slots j hj).trans (h.slots j hj)
  core := by rw [g.core, h.core]
  cores c hc := (g.cores c hc).trans (h.cores c hc)
  field := by rw [g.field, h.field]
  fields f hf := (g.fields f hf).trans (h.fields f hf)

theorem State.modSlot_keeps (s : State) (k : Nat) (f : Slot → Slot) : s.KeepsOutside (s.modSlot k f) k :=
  ⟨rfl, fun _ h => s.slot_modSlot_ne f h, rfl, fun _ _ => rfl, rfl, fun _ _ => rfl⟩

theorem State.modMe_keeps (s : State) (f : Slot → Slot) : s.KeepsOutside (s.modMe f) s.cur := s.modSlot_keeps _ _
theorem State.setX_keeps (s : State) (r : Reg) (w : Word) : s.KeepsOutside (s.setX r w) s.cur := s.modMe_keeps _
theorem State.setFp_keeps (s : State) (r : Reg) (w : BitVec 32) : s.KeepsOutside (s.setFp r w) s.cur := s.modMe_keeps _

theorem State.post_keeps (s : State) (k t : Nat) (i : Instr) : s.KeepsOutside (s.post t i) k :=
  ⟨rfl, fun _ _ => rfl, rfl, fun _ _ => rfl, rfl, fun _ _ => rfl⟩

/-! Traces and counters (R306, R308). -/

theorem Field.ite_trace (c : Prop) [Decidable c] (d : Field) (a : List Record) (b m : Nat) :
    (if c then { d with trace := a, traceLost := b } else { d with traceLost := m }) =
      { d with
        trace := (if c then { d with trace := a, traceLost := b } else { d with traceLost := m }).trace,
        traceLost := (if c then { d with trace := a, traceLost := b } else { d with traceLost := m }).traceLost } := by
  by_cases h : c <;> simp [h]

theorem State.traceRecord_keeps (s : State) (k n : Nat) (a b : Word) : s.KeepsOutside (s.traceRecord k n a b) k := by
  refine ⟨rfl, fun _ _ => rfl, rfl, fun _ _ => rfl, ?_, fun f h => ?_⟩
  · simp only [State.traceRecord, State.field_modField_self]
    exact Field.ite_trace ..
  · simp only [State.traceRecord, State.field_modField, if_neg h]

theorem State.traceRecord_slot (s : State) (k n : Nat) (a b : Word) (j : Nat) : (s.traceRecord k n a b).slot j = s.slot j := rfl
theorem State.traceRecord_agenda (s : State) (k n : Nat) (a b : Word) : (s.traceRecord k n a b).agenda = s.agenda := rfl

theorem State.traceIssue_keeps (s : State) (k : Nat) :
    s.KeepsOutside (s.traceIssue k) k ∧ (∀ j, (s.traceIssue k).slot j = s.slot j) ∧ (s.traceIssue k).agenda = s.agenda := by
  unfold State.traceIssue
  simp only
  generalize (s.core (slotCore k)).filters = l
  generalize (s.slot k).pc = pc
  generalize (s.slot k).word.setWidth 64 = w
  suffices H : ∀ t : State, s.KeepsOutside t k → (∀ j, t.slot j = s.slot j) → t.agenda = s.agenda →
      s.KeepsOutside (l.foldl (fun t e => if e.2.1 ≠ 0 ∧ w &&& e.2.1 = e.2.2 then t.traceRecord k 0 pc w else t) t) k ∧
      (∀ j, (l.foldl (fun t e => if e.2.1 ≠ 0 ∧ w &&& e.2.1 = e.2.2 then t.traceRecord k 0 pc w else t) t).slot j = s.slot j) ∧
      (l.foldl (fun t e => if e.2.1 ≠ 0 ∧ w &&& e.2.1 = e.2.2 then t.traceRecord k 0 pc w else t) t).agenda = s.agenda from
    H s (.refl s k) (fun _ => rfl) rfl
  induction l with
  | nil => exact fun t h1 h2 h3 => ⟨h1, h2, h3⟩
  | cons e l ih =>
    intro t h1 h2 h3
    rw [List.foldl_cons]
    split
    · exact ih _ (h1.trans (t.traceRecord_keeps ..)) h2 h3
    · exact ih _ h1 h2 h3

theorem Core.ite_scount (b : Bool) (c : Core) (t : Tab Word) :
    (if b = true then { c with scount := t } else c) =
      { c with scount := (if b = true then { c with scount := t } else c).scount } := by
  cases b <;> rfl

theorem State.count_keeps (s : State) (k ev n : Nat) : s.KeepsOutside (s.count k ev n) k := by
  refine ⟨rfl, fun _ _ => rfl, ?_, fun c h => ?_, rfl, fun _ _ => rfl⟩
  · simp only [State.count, State.countIn, State.core_modCore_self]
    exact Core.ite_scount ..
  · simp only [State.count, State.countIn, State.core_modCore, if_neg h]

theorem State.count_slot (s : State) (k ev n j : Nat) : (s.count k ev n).slot j = s.slot j := rfl
theorem State.count_agenda (s : State) (k ev n : Nat) : (s.count k ev n).agenda = s.agenda := rfl

/-- R102, R306, R308: an issue counts and traces, and is the slot's latest; a slot that holds its block has issued. -/
theorem State.issued_keeps (s : State) (k : Nat) :
    s.KeepsOutside (s.issued k) k ∧
    (s.issued k).slot k = { s.slot k with lastIssue := if (s.slot k).block.isSome then (s.slot k).lastIssue else some s.now } ∧
    (s.issued k).agenda = s.agenda := by
  unfold State.issued
  by_cases h : (s.slot k).block.isSome = true
  · simp only [h, if_true]; exact ⟨.refl s k, trivial, trivial⟩
  · simp only [h]
    have h1 := s.modSlot_keeps k fun v => { v with lastIssue := some s.now }
    obtain ⟨h2, h3, h4⟩ := (s.modSlot k fun v => { v with lastIssue := some s.now }).traceIssue_keeps k
    refine ⟨(h1.trans h2).trans (State.count_keeps ..), ?_, h4⟩
    simp only [State.count_slot, Bool.false_eq_true, if_false]
    rw [h3, State.slot_modSlot_self]

/-! Signature blocks (R75, R76). -/

/-- The fields of a slot that the checker may write. -/
structure Slot.SigStep (v w : Slot) : Prop where
  rest : w = { v with sig := w.sig, shadow := w.shadow, killReq := w.killReq, got := w.got, trapNow := w.trapNow }
  none : v.sig = none → w = v

theorem State.sigMismatch_keeps (s : State) (k : Nat) (g : SigBlock) :
    s.KeepsOutside (s.sigMismatch k g) k ∧ (s.sigMismatch k g).slot k = { s.slot k with
      sig := ((s.sigMismatch k g).slot k).sig, killReq := ((s.sigMismatch k g).slot k).killReq,
      got := ((s.sigMismatch k g).slot k).got, trapNow := ((s.sigMismatch k g).slot k).trapNow } := by
  unfold State.sigMismatch
  split
  · refine ⟨(s.modSlot_keeps k _).trans (State.post_keeps ..), ?_⟩
    simp
  · exact ⟨s.modSlot_keeps k _, by simp⟩

/-- The checker touches only the slot's own signature fields and, on a mismatch that kills, the agenda; with no block
open it does nothing. -/
theorem State.sigCount_keeps (s : State) (k : Nat) (a b : Word) :
    s.KeepsOutside (s.sigCount k a b) k ∧ (s.slot k).SigStep ((s.sigCount k a b).slot k) ∧
    ((s.slot k).sig = none → s.sigCount k a b = s) := by
  unfold State.sigCount
  rcases h : (s.slot k).sig with _ | g
  · simp only [h]; exact ⟨.refl s k, ⟨rfl, fun _ => rfl⟩, fun _ => trivial⟩
  · simp only [h]
    set g' : SigBlock := { g with s := _, count := _, br := _ }
    set u := s.modSlot k fun v => { v with sig := some g', shadow := v.shadow && !isBranch v.word } with hu
    have h1 : s.KeepsOutside u k := s.modSlot_keeps k _
    have h2 : u.slot k = { s.slot k with sig := some g', shadow := (s.slot k).shadow && !isBranch (s.slot k).word } := by
      rw [hu]; simp
    have done : ∀ t : State, u.KeepsOutside t k → t.slot k = { u.slot k with
          sig := (t.slot k).sig, killReq := (t.slot k).killReq, got := (t.slot k).got, trapNow := (t.slot k).trapNow } →
        s.KeepsOutside t k ∧ (s.slot k).SigStep (t.slot k) ∧ (some g = none → t = s) := by
      intro t h3 h4
      refine ⟨h1.trans h3, ⟨?_, fun e => by simp [h] at e⟩, nofun⟩
      rw [h4, h2]
    have mis := u.sigMismatch_keeps k g'
    split
    · split
      · exact done _ (.refl u k) rfl
      · exact done _ mis.1 mis.2
    · split
      · exact done _ (u.modSlot_keeps k _) (by rw [State.slot_modSlot_self])
      · exact done _ mis.1 mis.2

/-! Completion. -/

theorem State.nextIssue_congr {s t : State} (k n : Nat)
    (hh : (t.field (slotField k)).half = (s.field (slotField k)).half)
    (hz : (t.field (slotField k)).zero = (s.field (slotField k)).zero) : t.nextIssue k n = s.nextIssue k n := by
  simp [State.nextIssue, hh, hz]

theorem State.KeepsOutside.nextIssue {s t : State} {k : Nat} (h : s.KeepsOutside t k) (n : Nat) :
    t.nextIssue k n = s.nextIssue k n :=
  State.nextIssue_congr k n (by rw [h.field]) (by rw [h.field])

theorem State.KeepsOutside.now {s t : State} {k : Nat} (h : s.KeepsOutside t k) : t.now = s.now := by rw [h.rest]
theorem State.KeepsOutside.cur {s t : State} {k : Nat} (h : s.KeepsOutside t k) : t.cur = s.cur := by rw [h.rest]

/-- `completeAt`: the instruction of slot k is complete, and the next one issues from clk n on. -/
theorem State.completeAt_keeps (s : State) (k : Nat) (pc : Word) (n : Nat) :
    s.KeepsOutside (s.completeAt k pc n) k ∧
    (Slot.SigStep { s.slot k with
      pc := pc, due := some (s.nextIssue k n), wait := .ready, park := none, walk := none, moved := false, got := none,
      block := none, first := false, bpSkip := if (s.slot k).level = .user then none else (s.slot k).bpSkip }
      ((s.completeAt k pc n).slot k)) ∧
    ((s.slot k).sig = none → (s.completeAt k pc n).agenda = s.agenda) := by
  unfold State.completeAt
  simp only
  set u := s.modSlot k _ with hu
  have h1 : s.KeepsOutside u k := s.modSlot_keeps k _
  have h2 : u.slot k = { s.slot k with
      pc := pc, due := some (s.nextIssue k n), wait := .ready, park := none, walk := none, moved := false, got := none,
      block := none, first := false, bpSkip := if (s.slot k).level = .user then none else (s.slot k).bpSkip } := by
    rw [hu]; simp
  obtain ⟨h3, h4, h5⟩ := u.sigCount_keeps k (s.slot k).pc pc
  refine ⟨h1.trans h3, h2 ▸ h4, fun e => ?_⟩
  rw [h5 (by rw [h2]; exact e)]
  rfl

/-- `jump`: the instruction of the current slot issues and completes with the PC at `pc`. -/
theorem State.jump_completes (s : State) (pc : Word) : s.Completes (s.jump pc) s.me pc := by
  unfold State.jump
  obtain ⟨h1, h2, h3⟩ := s.issued_keeps s.cur
  obtain ⟨g1, g2, g3⟩ := (s.issued s.cur).completeAt_keeps s.cur pc (s.now + 1)
  have hme : ((s.issued s.cur).completeAt s.cur pc (s.now + 1)).me = ((s.issued s.cur).completeAt s.cur pc (s.now + 1)).slot s.cur := by
    unfold State.me; rw [(h1.trans g1).cur]
  have hd := h1.nextIssue (s.now + 1)
  refine ⟨h1.trans g1, ?_, fun e => ?_⟩
  · rw [hme, g2.rest, h2, hd]; rfl
  · have e' : ((s.issued s.cur).slot s.cur).sig = none := by rw [h2]; exact e
    have g4 := g2.none e'
    refine ⟨(g3 e').trans h3, ?_⟩
    rw [hme, g4, h2]
    exact ⟨rfl, e, rfl, rfl, rfl⟩

/-- `retire`: the instruction of the current slot issues and completes with the PC at PC + 4. -/
theorem State.retire_completes (s : State) : s.Completes s.retire s.me (s.me.pc + 4) := s.jump_completes _

/-- An instruction that has changed only its own slot, to `v`, before it completes. -/
theorem State.Completes.after {s u t : State} {v : Slot} {pc : Word} (h : s.KeepsOutside u s.cur) (ha : u.agenda = s.agenda)
    (hv : u.me = v) (c : u.Completes t u.me pc) : s.Completes t v pc := by
  have hcur := h.cur
  have hnow := h.now
  subst hv
  refine ⟨h.trans (hcur ▸ c.outside), ?_, fun e => ?_⟩
  · have := c.slot
    rw [hcur, hnow, h.nextIssue] at this
    exact this
  · have := c.noBlock e
    exact ⟨this.1.trans ha, this.2⟩

theorem State.alu_completes (s : State) (rd : Reg) (w : Word) :
    s.Completes (s.alu rd w) (s.me.setX rd.toNat w) (s.me.pc + 4) := by
  have h := (s.setX rd w).retire_completes
  have hp : (s.setX rd w).me.pc = s.me.pc := by
    rw [State.setX_me, Slot.setX_eq]
  rw [hp] at h
  exact .after (s.setX_keeps rd w) rfl (s.setX_me rd w) h


/-! Instructions that change only their own slot. -/

theorem Tab.set_set {α : Type} (t : Tab α) (k : Nat) (a b : α) : Tab.set (Tab.set t k a) k b = Tab.set t k b := by
  induction t with
  | nil => simp [Tab.set]
  | cons p t ih =>
    obtain ⟨j, w⟩ := p
    simp only [Tab.set]
    split_ifs with h1 h2
    · simp [Tab.set]
    · simp [Tab.set]
    · simp [Tab.set, h1, h2, ih]

theorem State.modMe_modMe (s : State) (g h : Slot → Slot) : (s.modMe g).modMe h = s.modMe (h ∘ g) := by
  simp [State.modMe, State.modSlot, State.putSlot, State.slot, Tab.get_set, Tab.set_set]

theorem Slot.setX_pc (v : Slot) (r : Nat) (w : Word) : (v.setX r w).pc = v.pc := by unfold Slot.setX; split <;> rfl
theorem Slot.setX_fflags (v : Slot) (r : Nat) (w : Word) : (v.setX r w).fflags = v.fflags := by unfold Slot.setX; split <;> rfl

/-- Completion after a change of the slot that leaves the PC alone. -/
theorem State.retire_modMe (s : State) (g : Slot → Slot) (hpc : (g s.me).pc = s.me.pc) :
    s.Completes (s.modMe g).retire (g s.me) (s.me.pc + 4) := by
  have h := (s.modMe g).retire_completes
  have e := s.modMe_me g
  rw [e, hpc] at h
  exact .after (s.modMe_keeps g) rfl e (e ▸ h)

theorem State.retire_setX (s : State) (rd : Reg) (w : Word) :
    s.Completes (s.setX rd w).retire (s.me.setX rd.toNat w) (s.me.pc + 4) := s.retire_modMe _ (Slot.setX_pc ..)

/-- R64: an f-register and the flags. -/
theorem State.fput_completes (s : State) (rd : Reg) (r : Nat × Fl) :
    s.Completes (s.fput rd r) { s.me.setF rd.toNat (BitVec.ofNat 32 r.1) with fflags := s.me.fflags ||| r.2 } (s.me.pc + 4) := by
  have e : s.fput rd r =
    ((s.modMe (·.setF rd.toNat (BitVec.ofNat 32 r.1))).modMe fun v => { v with fflags := v.fflags ||| r.2 }).retire := rfl
  rw [e, State.modMe_modMe]
  exact s.retire_modMe _ rfl

/-- R64: an x-register and the flags. -/
theorem State.xput_completes (s : State) (rd : Reg) (w : Word) (fl : Fl) :
    s.Completes (s.xput rd w fl) { s.me.setX rd.toNat w with fflags := s.me.fflags ||| fl } (s.me.pc + 4) := by
  have e : s.xput rd w fl = ((s.modMe (·.setX rd.toNat w)).modMe fun v => { v with fflags := v.fflags ||| fl }).retire := rfl
  rw [e, State.modMe_modMe]
  have h := s.retire_modMe ((fun v : Slot => { v with fflags := v.fflags ||| fl }) ∘ (·.setX rd.toNat w)) (Slot.setX_pc ..)
  simpa only [Function.comp, Slot.setX_fflags] using h

end Sys2Proof.Machine
end

