-- ==== Sys2Proof/Laws/Decode.lean ====
section
/-! SUPPORT. Words and their fields: splitting and joining a word, and each immediate of R35 (and the split fields of R39
to R47) against the pieces that the encoder puts into the fields. -/

namespace Sys2Proof

/-- A bit vector is determined by its bits below its width. -/
theorem bits_ext {n : Nat} {a b : BitVec n} (h : ∀ i : Nat, i < n → a.getLsbD i = b.getLsbD i) : a = b :=
  BitVec.eq_of_getLsbD_eq h

@[simp] theorem fieldsOf_wordOf (f : Fields) : fieldsOf (wordOf f) = f := by
  obtain ⟨op, rd, f3, a, b, f7⟩ := f
  simp only [fieldsOf, wordOf, Fields.mk.injEq]
  refine ⟨?_, ?_, ?_, ?_, ?_, ?_⟩ <;>
    (apply bits_ext; intro i hi; simp only [BitVec.getLsbD_extractLsb', BitVec.getLsbD_append]; split_ifs <;>
      first | (exfalso; omega) | (simp only [hi, decide_true, Bool.true_and]; congr 1; omega))

theorem wordOf_fieldsOf (w : Code) : wordOf (fieldsOf w) = w := by
  apply bits_ext; intro i hi
  simp only [fieldsOf, wordOf, BitVec.getLsbD_append, BitVec.getLsbD_extractLsb']
  split_ifs <;> (rw [decide_eq_true (by omega), Bool.true_and]; congr 1; omega)

end Sys2Proof
end

