-- ==== Sys2Proof/Laws/Memory.lean ====
section
/-! SUPPORT. Memory: a read after a write, what a write leaves alone, and that every operation over memory keeps the
canonical form. -/

namespace Sys2Proof.Machine

/-! Bytes. -/

theorem memGet_memSet (m : List Host.Cell) (a a' : Nat) (b : BitVec 8) :
    memGet (memSet m a b) a' = if a' = a then b else memGet m a' := by
  unfold memSet memGet
  split
  · next h => rw [Tab.get_erase]; split <;> simp [h]
  · rw [Tab.get_set]

/-- A write leaves every byte outside its own alone. -/
theorem memGet_memWrite_out (m : List Host.Cell) (a n v a' : Nat) (h : a' < a ∨ a + n ≤ a') :
    memGet (memWrite m a n v) a' = memGet m a' := by
  induction n generalizing m a v with
  | zero => rfl
  | succ n ih =>
    unfold memWrite
    rw [ih _ _ _ (by omega), memGet_memSet, if_neg (by omega)]

/-- Byte i of a write reads as byte i of its value. -/
theorem memGet_memWrite_in (m : List Host.Cell) (a n v i : Nat) (h : i < n) :
    memGet (memWrite m a n v) (a + i) = BitVec.ofNat 8 (v / 256 ^ i) := by
  induction n generalizing m a v i with
  | zero => omega
  | succ n ih =>
    unfold memWrite
    rcases i with _ | i
    · rw [memGet_memWrite_out _ _ _ _ _ (by omega), memGet_memSet, if_pos (by omega)]; simp
    · rw [show a + (i + 1) = (a + 1) + i by omega, ih _ _ _ _ (by omega), pow_succ', Nat.div_div_eq_div_mul]

theorem memRead_congr (m m' : List Host.Cell) (a n : Nat) (h : ∀ i, i < n → memGet m (a + i) = memGet m' (a + i)) :
    memRead m a n = memRead m' a n := by
  induction n generalizing a with
  | zero => rfl
  | succ n ih =>
    unfold memRead
    rw [ih (a + 1) (fun i hi => by rw [show a + 1 + i = a + (i + 1) by omega]; exact h _ (by omega))]
    have := h 0 (by omega); simp at this; rw [this]

/-- R10: memory is little-endian, and a read gives what a write of the same bytes put there. -/
theorem memRead_memWrite (m : List Host.Cell) (a n v : Nat) : memRead (memWrite m a n v) a n = v % 256 ^ n := by
  induction n generalizing m a v with
  | zero => simp [memRead, Nat.mod_one]
  | succ n ih =>
    unfold memRead memWrite
    rw [ih, memGet_memWrite_out _ _ _ _ _ (by omega), memGet_memSet, if_pos rfl, pow_succ', Nat.mod_mul]
    simp

theorem memRead_memWrite_out (m : List Host.Cell) (a n v b k : Nat) (h : b + k ≤ a ∨ a + n ≤ b) :
    memRead (memWrite m a n v) b k = memRead m b k :=
  memRead_congr _ _ _ _ fun i hi => memGet_memWrite_out _ _ _ _ _ (by omega)

theorem memRead_lt (m : List Host.Cell) (a n : Nat) : memRead m a n < 256 ^ n := by
  induction n generalizing a with
  | zero => simp [memRead]
  | succ n ih =>
    unfold memRead
    have h1 := (memGet m a).isLt
    have h2 := ih (a + 1)
    rw [pow_succ]; omega

/-! The canonical form. -/

theorem Memory.wf_iff (m : List Host.Cell) :
    Memory.wf m = true ↔ m.Pairwise (fun p q => p.1 < q.1) ∧ ∀ c ∈ m, c.2 ≠ unlistedByte := by
  induction m with
  | nil => simp [Memory.wf]
  | cons p m ih =>
    obtain ⟨a, b⟩ := p
    rcases m with _ | ⟨⟨a', b'⟩, m⟩
    · simp [Memory.wf]
    · simp only [Memory.wf, Bool.and_eq_true, bne_iff_ne, decide_eq_true_eq, ih]
      simp only [List.pairwise_cons, List.mem_cons]
      constructor
      · rintro ⟨⟨h1, h2⟩, ⟨h3, h4⟩, h5⟩
        refine ⟨⟨?_, h3, h4⟩, ?_⟩
        · rintro c (rfl | hc)
          · exact h2
          · exact lt_trans h2 (h3 _ hc)
        · rintro c (rfl | hc)
          · exact h1
          · exact h5 _ hc
      · rintro ⟨⟨h1, h2⟩, h3⟩
        exact ⟨⟨h3 _ (Or.inl rfl), h1 _ (Or.inl rfl)⟩, h2, fun c hc => h3 _ (Or.inr hc)⟩

theorem Memory.wf_filter {m : List Host.Cell} (p : Host.Cell → Bool) (h : Memory.wf m = true) :
    Memory.wf (m.filter p) = true := by
  rw [Memory.wf_iff] at *
  exact ⟨h.1.filter p, fun c hc => h.2 c (List.mem_of_mem_filter hc)⟩

theorem Tab.erase_eq_filter {α : Type} (t : Tab α) (k : Nat) : Tab.erase t k = t.filter (fun p => p.1 != k) := by
  induction t with
  | nil => rfl
  | cons p t ih =>
    obtain ⟨j, w⟩ := p
    by_cases h : j = k <;> simp [Tab.erase, h, ih]

theorem Tab.mem_set {α : Type} (t : Tab α) (k : Nat) (v : α) (c : Nat × α) (h : c ∈ Tab.set t k v) : c = (k, v) ∨ c ∈ t := by
  induction t with
  | nil => simpa [Tab.set] using h
  | cons p t ih =>
    obtain ⟨j, w⟩ := p
    simp only [Tab.set] at h
    split at h
    · simpa using h
    · split at h
      · rcases List.mem_cons.1 h with h | h
        · exact Or.inl h
        · exact Or.inr (List.mem_cons_of_mem _ h)
      · rcases List.mem_cons.1 h with h | h
        · exact Or.inr (by simp [h])
        · rcases ih h with h | h
          · exact Or.inl h
          · exact Or.inr (List.mem_cons_of_mem _ h)

/-- A write of a table keeps its keys rising. -/
theorem Tab.pairwise_set {α : Type} (t : Tab α) (k : Nat) (v : α) (h : t.Pairwise fun p q => p.1 < q.1) :
    (Tab.set t k v).Pairwise fun p q => p.1 < q.1 := by
  induction t with
  | nil => simp [Tab.set]
  | cons p t ih =>
    obtain ⟨j, w⟩ := p
    rw [List.pairwise_cons] at h
    simp only [Tab.set]
    split
    · next hk =>
      refine List.pairwise_cons.2 ⟨fun c hc => ?_, List.pairwise_cons.2 h⟩
      rcases List.mem_cons.1 hc with rfl | hc
      · exact hk
      · exact lt_trans hk (h.1 _ hc)
    · split
      · next e => subst e; exact List.pairwise_cons.2 ⟨fun c hc => h.1 _ hc, h.2⟩
      · next h1 h2 =>
        refine List.pairwise_cons.2 ⟨fun c hc => ?_, ih h.2⟩
        rcases Tab.mem_set t k v c hc with rfl | hc
        · show j < k; omega
        · exact h.1 _ hc

theorem memSet_wf {m : List Host.Cell} (a : Nat) (b : BitVec 8) (h : Memory.wf m = true) : Memory.wf (memSet m a b) = true := by
  unfold memSet
  split
  · rw [Tab.erase_eq_filter]; exact Memory.wf_filter _ h
  · next hb =>
    rw [Memory.wf_iff] at *
    refine ⟨Tab.pairwise_set _ _ _ h.1, fun c hc => ?_⟩
    rcases Tab.mem_set _ _ _ _ hc with rfl | hc
    · exact hb
    · exact h.2 _ hc

theorem memWrite_wf {m : List Host.Cell} (a n v : Nat) (h : Memory.wf m = true) : Memory.wf (memWrite m a n v) = true := by
  induction n generalizing m a v with
  | zero => exact h
  | succ n ih => exact ih _ _ (memSet_wf _ _ h)

theorem Tab.find?_filter {α : Type} (t : Tab α) (p : Nat → Bool) (k : Nat) :
    Tab.find? (t.filter fun c => p c.1) k = if p k then Tab.find? t k else none := by
  induction t with
  | nil => simp [Tab.find?]
  | cons c t ih =>
    obtain ⟨j, w⟩ := c
    by_cases h : j = k
    · subst h; by_cases hp : p j = true <;> simp_all [Tab.find?]
    · by_cases hp : p j = true <;> simp_all [Tab.find?]

/-! The operations of the state. -/

theorem State.foldl_keeps {β : Type} (P : State → Prop) (f : State → β → State) (l : List β)
    (hf : ∀ s b, P s → P (f s b)) (s : State) (h : P s) : P (l.foldl f s) := by
  induction l generalizing s with
  | nil => exact h
  | cons b l ih => exact ih _ (hf _ _ h)

@[simp] theorem State.poke_mem (s : State) (a n v : Nat) : (s.poke a n v).mem = memWrite s.mem a n v := by
  unfold State.poke
  generalize wordsOf a n = l
  have : ∀ t : State, (l.foldl (fun t w => t.setTag w (8 ||| t.tag w)) t).mem = t.mem := by
    induction l with
    | nil => intro t; rfl
    | cons w l ih => intro t; exact (ih _).trans rfl
  rw [this]

theorem State.poke_wf (s : State) (a n v : Nat) (h : Memory.wf s.mem = true) : Memory.wf (s.poke a n v).mem = true := by
  rw [State.poke_mem]; exact memWrite_wf _ _ _ h

theorem State.zeroRange_wf (s : State) (a n : Nat) (h : Memory.wf s.mem = true) : Memory.wf (s.zeroRange a n).mem = true :=
  Memory.wf_filter _ h

theorem State.copyRange_wf (s : State) (a b n : Nat) (h : Memory.wf s.mem = true) : Memory.wf (s.copyRange a b n).mem = true := by
  have h' := s.zeroRange_wf b n h
  have key : ∀ (l m : List Host.Cell), Memory.wf m = true →
      Memory.wf (l.foldl (fun m c => memSet m (c.1 - a + b) c.2) m) = true := by
    intro l
    induction l with
    | nil => exact fun _ h => h
    | cons c l ih => exact fun m h => ih _ (memSet_wf _ _ h)
  exact key _ _ h'

/-- Zeroing leaves every byte outside its range alone, and every byte inside reads zero (R220). -/
theorem State.memGet_zeroRange (s : State) (a n a' : Nat) :
    memGet (s.zeroRange a n).mem a' = if a ≤ a' ∧ a' < a + n then unlistedByte else memGet s.mem a' := by
  unfold State.zeroRange memGet Tab.get
  simp only
  rw [Tab.find?_filter s.mem (fun k => decide (k < a) || decide (a + n ≤ k)) a']
  by_cases h : a ≤ a' ∧ a' < a + n
  · have : ¬(a' < a) ∧ ¬(a + n ≤ a') := by omega
    simp [h, this]
  · have : a' < a ∨ a + n ≤ a' := by omega
    simp [h, this]

end Sys2Proof.Machine
end

