-- ==== Sys2Proof/Laws/Trap.lean ====
section
/-! SUPPORT. Taking an exception (R33): what `trapAt` does, said once. -/

namespace Sys2Proof.Machine

theorem State.errorRecord_slot (s : State) (f c a : Nat) (o : BitVec 8) (i : BitVec 12) (u : Word) (e : Nat) (ws : List Word)
    (j : Nat) : (s.errorRecord f c a o i u e ws).slot j = s.slot j := rfl

/-- An error record changes the ring of its field and the vectors that the module has fired. -/
theorem State.errorRecord_rest (s : State) (f c a : Nat) (o : BitVec 8) (i : BitVec 12) (u : Word) (e : Nat) (ws : List Word) :
    s.errorRecord f c a o i u e ws =
      { s with fields := (s.errorRecord f c a o i u e ws).fields, module := (s.errorRecord f c a o i u e ws).module } := rfl

/-- The fields and the module after an error record in the ring of field f. -/
theorem State.errorRecord_pinned (s : State) (f c a : Nat) (o : BitVec 8) (i : BitVec 12) (u : Word) (e : Nat) (ws : List Word) :
    (∀ g, g ≠ f → (s.errorRecord f c a o i u e ws).field g = s.field g) ∧
    (s.errorRecord f c a o i u e ws).field f = { s.field f with
      errors := ((s.errorRecord f c a o i u e ws).field f).errors, errIndex := ((s.errorRecord f c a o i u e ws).field f).errIndex } ∧
    (s.errorRecord f c a o i u e ws).module = { s.module with msix := (s.errorRecord f c a o i u e ws).module.msix } := by
  unfold State.errorRecord State.msi
  refine ⟨fun g hg => ?_, ?_, rfl⟩
  · simp only [State.modModule_field, State.field_modField, if_neg hg]
  · simp only [State.modModule_field, State.field_modField_self]

/-- The record of an uncorrectable error, where one is written (R300). -/
theorem State.dataRecord_eq (s : State) (k c : Nat) (v : Word) :
    (∀ j, (s.dataRecord k c v).slot j = s.slot j) ∧
    s.dataRecord k c v = { s with fields := (s.dataRecord k c v).fields, module := (s.dataRecord k c v).module } ∧
    (∀ g, g ≠ slotField k → (s.dataRecord k c v).field g = s.field g) ∧
    (s.dataRecord k c v).field (slotField k) = { s.field (slotField k) with
      errors := ((s.dataRecord k c v).field (slotField k)).errors, errIndex := ((s.dataRecord k c v).field (slotField k)).errIndex } ∧
    (s.dataRecord k c v).module = { s.module with msix := (s.dataRecord k c v).module.msix } ∧
    (c ≠ 0x0F → s.dataRecord k c v = s) := by
  unfold State.dataRecord
  simp only
  split
  · exact ⟨fun _ => rfl, rfl, fun _ _ => rfl, rfl, rfl, fun _ => rfl⟩
  · next h =>
    obtain ⟨h1, h2, h3⟩ := s.errorRecord_pinned (slotField k) 2 1 (s.slot k).owner (s.slot k).asid (coreloc k) (s.slot k).ember
      (s.affected k v)
    exact ⟨fun _ => rfl, rfl, h1, h2, h3, fun hc => absurd (.inl hc) h⟩

theorem State.doubleFault_eq (s : State) (k : Nat) (ws : List Word) :
    (∀ j, (s.doubleFault k ws).slot j = s.slot j) ∧
    s.doubleFault k ws = { s with fields := (s.doubleFault k ws).fields, module := (s.doubleFault k ws).module } ∧
    (∀ g, g ≠ slotField k → (s.doubleFault k ws).field g = s.field g) ∧
    (s.doubleFault k ws).field (slotField k) = { s.field (slotField k) with
      errors := ((s.doubleFault k ws).field (slotField k)).errors, errIndex := ((s.doubleFault k ws).field (slotField k)).errIndex,
      faults := ((s.doubleFault k ws).field (slotField k)).faults } ∧
    (s.doubleFault k ws).module = { s.module with msix := (s.doubleFault k ws).module.msix } ∧
    ((s.field (slotField k)).frozen = true → ((s.doubleFault k ws).field (slotField k)).errors = (s.field (slotField k)).errors ∧
      ((s.doubleFault k ws).field (slotField k)).errIndex = (s.field (slotField k)).errIndex ∧ (s.doubleFault k ws).module = s.module) ∧
    ((s.field (slotField k)).frozen = false → ((s.doubleFault k ws).field (slotField k)).faults = (s.field (slotField k)).faults) := by
  unfold State.doubleFault
  split
  · next hf =>
    refine ⟨fun _ => rfl, rfl, fun g hg => ?_, ?_, rfl, fun _ => ?_, fun h => by simp [hf] at h⟩
    · simp only [State.field_modField, if_neg hg]
    · simp only [State.field_modField_self]
    · simp only [State.field_modField_self]
      exact ⟨trivial, trivial, rfl⟩
  · next hf =>
    obtain ⟨h1, h2, h3⟩ := s.errorRecord_pinned (slotField k) 6 0 (s.slot k).owner (s.slot k).asid (coreloc k) (s.slot k).ember ws
    refine ⟨fun _ => rfl, rfl, h1, ?_, h3, fun h => absurd h hf, fun _ => ?_⟩ <;>
    · unfold State.slotRecord
      rw [h2]

theorem State.trapAt_traps (s : State) (k : Nat) (imp : Bool) (cause : Nat) (val pc : Word) :
    s.Traps (s.trapAt k imp cause val pc) k imp cause val pc := by
  unfold State.trapAt
  by_cases hb : (s.slot k).busy = true
  · simp only [hb, if_true]
    obtain ⟨h1, h2, h3, h4, h5, h6, h7⟩ := s.doubleFault_eq k
      [(s.slot k).trappc.setWidth 64, (s.slot k).trapcause.setWidth 64, BitVec.ofNat 64 cause, (s.slot k).trapval]
    refine ⟨fun j hj => ?_, ?_, h3, ?_, h5, fun h => by simp [hb] at h, fun _ => ⟨?_, fun hf => ?_, fun hf => ?_⟩, fun hf => ?_, fun hf => ?_,
      fun _ => ?_⟩
    · rw [State.slot_modSlot_ne _ _ hj, h1]
    · unfold State.modSlot State.putSlot
      rw [h2]
    · rw [State.modSlot_field, h4]
    · rw [State.slot_modSlot_self, h1]
    · unfold State.doubleFault State.slotRecord State.errorRecord State.msi
      simp only [hf, Bool.false_eq_true, if_false, State.modSlot_field, State.modModule_field, State.field_modField_self]
      exact ⟨_, rfl, by simp, by simp⟩
    · unfold State.doubleFault
      simp only [hf, if_true, State.modSlot_field, State.field_modField_self]
    · rw [if_pos hb] at hf
      exact h6 hf
    · exact h7 (hf hb)
    · rw [State.modSlot_field, h4]
      exact ⟨rfl, rfl⟩
  · simp only [hb, Bool.false_eq_true, if_false]
    obtain ⟨h1, h2, h3, h4, h5, h6⟩ := s.dataRecord_eq k cause val
    refine ⟨fun j hj => ?_, ?_, fun g hg => ?_, ?_, h5, fun _ => ?_, fun h => absurd h hb, fun hc => ?_, fun _ => ?_, fun h => absurd h hb⟩
    · rw [State.traceRecord_slot, State.slot_modSlot_ne _ _ hj, h1]
    · unfold State.traceRecord State.modSlot State.putSlot State.modField
      rw [h2]
    · rw [(State.traceRecord_keeps ..).fields g hg, State.modSlot_field, h3 g hg]
    · rw [(State.traceRecord_keeps ..).field, State.modSlot_field, h4]
    · rw [State.traceRecord_slot, State.slot_modSlot_self, h1]
    · rw [if_neg hb] at hc
      rw [(State.traceRecord_keeps ..).field, State.modSlot_field, h6 hc]
      exact ⟨rfl, rfl, rfl⟩
    · rw [(State.traceRecord_keeps ..).field, State.modSlot_field, h4]

theorem State.trap_traps (s : State) (cause : Nat) (val : Word) :
    s.Traps (s.trap cause val) s.cur false cause val s.me.pc := s.trapAt_traps ..

theorem State.illegal_traps (s : State) : s.Traps s.illegal s.cur false 1 (s.me.word.setWidth 64) s.me.pc := s.trapAt_traps ..

end Sys2Proof.Machine
end

