-- ==== Sys2Proof/Laws/Writes.lean ====
section
/-! SUPPORT. What the shared writing operations of the machine do to memory: each changes what its one write changes, whatever
else follows from it at the home (watch entries served, replies sent, requests judged again), and so keeps the canonical form. -/

namespace Sys2Proof.Machine

/-! Operations that leave memory alone. -/

@[simp] theorem State.carry_mem (s : State) (id a b t : Nat) (i : Instr) : (s.carry id a b t i).mem = s.mem := by
  unfold State.carry
  repeat' split
  all_goals rfl

@[simp] theorem State.leave_mem (s : State) (id t : Nat) (f : Flight) : (s.leave id t f).mem = s.mem := by
  unfold State.leave
  dsimp only
  repeat' split
  all_goals first | rfl | exact State.carry_mem ..

@[simp] theorem State.leaveInOrder_mem (s : State) (id t : Nat) (f : Flight) : (s.leaveInOrder id t f).mem = s.mem :=
  State.leave_mem ..

@[simp] theorem State.depart_mem (s : State) (id t : Nat) (m : Bool) (f : Flight) : (s.depart id t m f).mem = s.mem := by
  unfold State.depart
  dsimp only
  repeat' split
  all_goals simp

@[simp] theorem State.sendFree_mem (s : State) (t : Nat) (mk : Nat → Instr) (f : Flight) : (s.sendFree t mk f).mem = s.mem :=
  (State.depart_mem ..).trans rfl

theorem State.foldl_mem {β : Type} (f : State → β → State) (l : List β) (h : ∀ s b, (f s b).mem = s.mem) (s : State) :
    (l.foldl f s).mem = s.mem := State.foldl_keeps (fun t => t.mem = s.mem) f l (fun t b e => (h t b).trans e) s rfl

@[simp] theorem State.meet_mem (s : State) (e : Nat) : (s.meet e).mem = s.mem := by
  unfold State.meet
  dsimp only
  split <;> rfl

@[simp] theorem State.retryWatch_mem (s : State) (h n : Nat) : (s.retryWatch h n).mem = s.mem :=
  State.foldl_mem (fun t f => t.post t.now (.versionedLoadAtHome f)) _ (fun _ _ => rfl) s

@[simp] theorem State.errorRecord_mem (s : State) (f c a : Nat) (o : BitVec 8) (i : BitVec 12) (u : Word) (e : Nat) (ws : List Word) :
    (s.errorRecord f c a o i u e ws).mem = s.mem := by
  simp [State.errorRecord, State.msi]

@[simp] theorem State.corrected_mem (s : State) (f u : Nat) (n : Word) (ws : List Word) : (s.corrected f u n ws).mem = s.mem := by
  unfold State.corrected
  dsimp only
  split <;> simp

/-- R296: correcting errors changes no data. -/
@[simp] theorem State.scrub_mem (s : State) (a n : Nat) : (s.scrub a n).mem = s.mem := by
  unfold State.scrub
  split
  · rfl
  · exact State.foldl_mem _ _ (fun _ _ => State.corrected_mem ..) _

/-- R227: serving the watch entries of a word changes no data. -/
@[simp] theorem State.serveWord_mem (s : State) (w : Nat) : (s.serveWord w).mem = s.mem := by
  unfold State.serveWord
  dsimp only
  split
  · rfl
  · split
    · rfl
    · refine (State.retryWatch_mem ..).trans ((State.foldl_mem _ _ (fun t e => ?_) _).trans ?_)
      · exact State.sendFree_mem ..
      · split <;> rfl

@[simp] theorem State.serve_mem (s : State) (a n : Nat) : (s.serve a n).mem = s.mem :=
  State.foldl_mem _ _ (fun t w => t.serveWord_mem w) s

/-- R326: an access leaves its row open, and the data as they were. -/
@[simp] theorem State.openRow_mem (s : State) (key : Nat) : (s.openRow key).mem = s.mem := by
  unfold State.openRow State.service
  dsimp only
  split <;> rfl

@[simp] theorem State.walked_mem (s : State) (root : Nat) (va : Word) : (s.walked root va).mem = s.mem := by
  unfold State.walked
  split
  · rfl
  · exact State.foldl_mem _ _ (fun t a => by simp) s

@[simp] theorem State.writeLater_mem (s : State) (o : BitVec 8) (key n v : Nat) : (s.writeLater o key n v).mem = s.mem := by
  unfold State.writeLater State.holdZero
  dsimp only
  split <;> rfl

/-! Operations that write. -/

/-- R204: a home's write changes memory as the bytes written do. -/
@[simp] theorem State.homeWrite_mem (s : State) (a n v : Nat) : (s.homeWrite a n v).mem = memWrite s.mem a n v :=
  (State.serve_mem ..).trans (State.poke_mem ..)

theorem State.homeWrite_wf (s : State) (a n v : Nat) (h : Memory.wf s.mem = true) : Memory.wf (s.homeWrite a n v).mem = true := by
  rw [State.homeWrite_mem]; exact memWrite_wf _ _ _ h

@[simp] theorem State.badEntry_mem (s : State) (f c a : Nat) : (s.badEntry f c a).mem = s.mem := by
  unfold State.badEntry; split <;> rfl

@[simp] theorem State.quarantine_mem (s : State) (f : Nat) (o : BitVec 8) (a : BitVec 12) (u : Word) (e : Nat) (va : Word)
    (n l : Nat) : (s.quarantine f o a u e va n l).mem = s.mem := by
  unfold State.quarantine
  dsimp only
  repeat' split
  all_goals simp

theorem State.noteWalk_mem (s : State) (asid : BitVec 12) (va : Word) : (s.noteWalk asid va).mem = s.mem := by
  unfold State.noteWalk
  dsimp only
  repeat' split
  all_goals simp

theorem State.ownWrite_wf (s : State) (a n v : Nat) (h : Memory.wf s.mem = true) : Memory.wf (s.ownWrite a n v).mem = true :=
  State.homeWrite_wf _ _ _ _ (by rw [State.openRow_mem]; exact h)

theorem State.hwWrite_wf (s : State) (asid : BitVec 12) (va : Word) (n v : Nat) (h : Memory.wf s.mem = true) :
    Memory.wf (s.hwWrite asid va n v).mem = true := by
  unfold State.hwWrite
  repeat' split
  · rw [State.writeLater_mem]; exact h
  · exact s.ownWrite_wf _ _ _ h
  · rw [State.noteWalk_mem]; exact h

/-- R277: the words of a chunk are written one after another. -/
theorem State.putWordsOf_wf (s : State) (all : List Nat) (l : List (Nat × Word)) (h : Memory.wf s.mem = true) :
    Memory.wf (s.putWordsOf all l).mem = true :=
  State.foldl_keeps (fun t => Memory.wf t.mem = true) _ l
    (fun t p h => (t.scrub p.1 8).homeWrite_wf _ _ _ (by rw [State.scrub_mem]; exact h)) s h

/-- R221: what DRAM holds after a module reset has the canonical form. -/
theorem State.decrypted_wf (s : State) (h : Memory.wf s.mem = true) : Memory.wf s.decrypted = true := by
  rw [Memory.wf_iff] at *
  refine ⟨?_, fun c hc => ?_⟩
  · unfold State.decrypted
    refine List.Pairwise.filterMap _ (fun a a' hlt b hb b' hb' => ?_) h.1
    have key : ∀ {x y : Host.Cell}, (if 2 ^ 44 ≤ x.1 then none else if s.foreign x.1 = true then
        (if Config.undecrypted s.free x.1 = unlistedByte then none else some (x.1, Config.undecrypted s.free x.1))
        else some x) = some y → y.1 = x.1 := by
      intro x y e
      repeat' split at e
      all_goals first | (cases e; rfl) | cases e
    rw [key hb, key hb']; exact hlt
  · unfold State.decrypted at hc
    obtain ⟨x, hx, e⟩ := List.mem_filterMap.mp hc
    dsimp only at e
    repeat' split at e
    all_goals first | (cases e; first | assumption | exact h.2 _ hx) | cases e

theorem State.clean_wf (s : State) (base n : Nat) (h : Memory.wf s.mem = true) : Memory.wf (s.clean base n).mem = true :=
  s.zeroRange_wf base n h

end Sys2Proof.Machine
end

