-- ==== Sys2Proof/Tests/Slice0.lean ====
section
/-! SUPPORT. Tests of single words and steps, terms that are not well-formed, and for every statement with premises a
state and operands that meet them. The expected values are the spec's. -/

namespace Sys2Proof.Tests

open Sys2Proof Sys2Proof.Machine Sys2Proof.Claims

/-- A state whose slot 0, the current one, is v. -/
def one (v : Slot) : State := { slots := [(0, v)] }

/-- The register file with x1 = a and x2 = b. -/
def regs (a b : Word) : Tab Word := [(1, a), (2, b)]

/-- A leaf of page 0 in core 0's L1 TLB, and owner 0 in ASID 0: an access of slot 0 to page 0 goes to DRAM at 0. -/
def leafAt0 (leaf : Word) : TlbEntry := { asid := 0, page := 0, big := false, leaf := leaf, at_ := 0x4000 }
def paged (leaf : Word) (v : Slot) : State :=
  { slots := [(0, v)], asids := [(0, 1)], cores := [(0, { tlb := [leafAt0 leaf] })] }

/-- A region on core 0 and core 1. -/
def region0 : Region := { owner := 0, asid := 0, cores := [0, 1], clusters := [0], running := true, records := [0x1000, 0x1040],
                          saves := [0x2000], spills := [], pages := 2, stages := [], demand := [], budget := 0, debug := false }
/-- `one` in that region, with its clusters. -/
def inRegion (v : Slot) : State :=
  { slots := [(0, v)], regions := [(0, region0)], cores := [(0, { region := some 0, owned := some 0 }), (1, { region := some 0, owned := some 0 })] }

/-- Whether an outcome is a next state with a property. -/
def ok (o : Out State) (p : State → Bool) : Bool :=
  match o with
  | .next t => p t
  | _ => false

/-- An address of the own slice of core 0. -/
def own (n : Nat) : Word := storeAddrAt 0 n

noncomputable section

set_option Elab.async false

/-! Well-formedness (R6, R7, R39 to R47, R61). -/

/-- For each check a term that it alone refuses: the first value past the limit. -/
theorem test_ill_formed_0 : ([
    .impreciseReport 442368 (2 ^ 50 - 1) 255 0, .impreciseReport 442367 (2 ^ 50) 255 0, .impreciseReport 442367 (2 ^ 50 - 1) 256 0,
    .pendingTrapDelivery 442368, .emberTakeup 442368, .emberRestore 442368, .suspendWriteback 442368, .attractionMove 442368,
    .migrationArrival 55296 (2 ^ 50 - 1), .migrationArrival 55295 (2 ^ 50), .dispenserHandover 6912, .ldoor 2, .masterReelection 54,
    .deadlineExpiry (2 ^ 50) 0, .parkTimeout (2 ^ 50) 0, .queueRefill 55296 7, .queueRefill 55295 8, .replicaCreate 54 (2 ^ 44 - 1),
    .replicaCreate 53 (2 ^ 44), .replicaCopyDone 54 (2 ^ 44 - 1), .replicaCopyDone 53 (2 ^ 44), .replicaDrop 54 (2 ^ 44 - 1),
    .replicaDrop 53 (2 ^ 44), .replicaPeriod 54, .pageWalk 442368 0, .zeroingDone 3 0, .thermalReading 55296 0,
    .consumerResume 6912 (2 ^ 50 - 1), .consumerResume 6911 (2 ^ 50), .probeRoundStart 65536, .answerEntryError 6912 8191,
    .answerEntryError 6911 8192, .vectorEntryExecute 442368, .matrixEnqueue 442368, .matrixGrant 6912, .matrixOperandArrival 55296,
    .matrixSetback 6912, .matrixComplete 6912, .copyChunk 6912, .copyQueueReset 55296 1, .copyQueueReset 55295 2,
    .peerFrame 4096 0 0 (2 ^ 44 - 1) 128 0 0, .peerFrame 4095 0 0 (2 ^ 44) 128 0 0, .peerFrame 4095 0 0 (2 ^ 44 - 1) 129 0 0] : List Instr).all (fun i => i.wf == false) = true := by decide

theorem test_ill_formed_1 : ([
    .relayReinject 54, .barrierAndUpdate 65536 7 53, .barrierAndUpdate 65535 8 53, .barrierAndUpdate 65535 7 54, .barrierRelease 65536 7,
    .barrierRelease 65535 8, .barrierReleaseSeen 65536 7 53, .barrierReleaseSeen 65535 8 53, .barrierReleaseSeen 65535 7 54,
    .barrierMaskSet 55296, .scmdStop 442368, .scmdRestart 442368, .scmdStep 442368, .scmdKill 442368, .scmdRestore 442368,
    .slotKill 442368, .preemptSlot 442368, .preemptBudgetExhausted 65536, .regionStart 65536, .regionStop 65536, .kernelKill 442368,
    .trapForward 442368, .demandPageMap 442368 (2 ^ 44 - 1), .demandPageMap 442367 (2 ^ 44), .pageMigration 442368 (2 ^ 44 - 1),
    .pageMigration 442367 (2 ^ 44), .timeoutResume 442368, .ebreakStop 442368, .ecallForwardRegister 442368, .ecallRouteWrite 442368,
    .ecallLaunch 442368, .ecallRetire 442368, .hwBreakpointStop 442368, .counterSetRotate 55296, .flagUnionClear 6912 0,
    .registerWrite (2 ^ 36) 0, .hostWindowRead 2 (2 ^ 36 - 1), .hostWindowRead 1 (2 ^ 36), .hostWindowWrite 2 (2 ^ 36 - 1) 0,
    .hostWindowWrite 1 (2 ^ 36) 0, .adoor 2, .powerCheck 96 90, .powerCheck 95 91, .speedChange 54,
    .lockstepMismatch 54] : List Instr).all (fun i => i.wf == false) = true := by decide

theorem test_ill_formed_2 : ([
    .firmwareRestart 54, .fetchFault 256 0, .issueCycle 55296, .emberRestart (2 ^ 50), .poolExtension 65536 0,
    .quarantineLift 54 (2 ^ 44 - 1), .quarantineLift 53 (2 ^ 44), .fatalError 54, .fmaddS 0 0 0 0 5, .fmaddS 0 0 0 0 6, .fmsubS 0 0 0 0 5,
    .fmsubS 0 0 0 0 6, .fnmsubS 0 0 0 0 5, .fnmsubS 0 0 0 0 6, .fnmaddS 0 0 0 0 5, .fnmaddS 0 0 0 0 6, .faddS 0 0 0 5, .faddS 0 0 0 6,
    .fsubS 0 0 0 5, .fsubS 0 0 0 6, .fmulS 0 0 0 5, .fmulS 0 0 0 6, .fdivS 0 0 0 5, .fdivS 0 0 0 6, .fsqrtS 0 0 5, .fsqrtS 0 0 6,
    .fcvtWS 0 0 5, .fcvtWS 0 0 6, .fcvtWuS 0 0 5, .fcvtWuS 0 0 6, .fcvtLS 0 0 5, .fcvtLS 0 0 6, .fcvtLuS 0 0 5, .fcvtLuS 0 0 6,
    .fcvtSW 0 0 5, .fcvtSW 0 0 6, .fcvtSWu 0 0 5, .fcvtSWu 0 0 6, .fcvtSL 0 0 5, .fcvtSL 0 0 6, .fcvtSLu 0 0 5, .fcvtSLu 0 0 6, .sig 0 0,
    .tcall 0 5, .tlook 0 0 5] : List Instr).all (fun i => i.wf == false) = true := by decide

theorem test_ill_formed_3 : ([
    .vcvt 0 0 6, .msct 0 0] : List Instr).all (fun i => i.wf == false) = true := by decide

/-- The last values inside the limits. -/
theorem test_well_formed_0 : ([
    .impreciseReport 442367 (2 ^ 50 - 1) 255 0, .pendingTrapDelivery 442367, .emberTakeup 442367, .emberRestore 442367,
    .suspendWriteback 442367, .attractionMove 442367, .migrationArrival 55295 (2 ^ 50 - 1), .dispenserHandover 6911, .ldoor 1,
    .masterReelection 53, .deadlineExpiry (2 ^ 50 - 1) 0, .parkTimeout (2 ^ 50 - 1) 0, .queueRefill 55295 7,
    .replicaCreate 53 (2 ^ 44 - 1), .replicaCopyDone 53 (2 ^ 44 - 1), .replicaDrop 53 (2 ^ 44 - 1), .replicaPeriod 53, .pageWalk 442367 0,
    .ownerChange 3 0 0, .zeroingDone 2 0, .thermalReading 55295 0, .consumerResume 6911 (2 ^ 50 - 1), .probeRoundStart 65535,
    .answerEntryError 6911 8191, .vectorEntryExecute 442367, .matrixEnqueue 442367, .matrixGrant 6911, .matrixOperandArrival 55295,
    .matrixSetback 6911, .matrixComplete 6911, .copyChunk 6911, .copyQueueReset 55295 1, .peerFrame 4095 0 0 (2 ^ 44 - 1) 128 0 0,
    .relayReinject 53, .barrierAndUpdate 65535 7 53, .barrierRelease 65535 7, .barrierReleaseSeen 65535 7 53, .barrierMaskSet 55295,
    .scmdStop 442367, .scmdRestart 442367, .scmdStep 442367, .scmdKill 442367, .scmdRestore 442367, .slotKill 442367, .preemptSlot 442367] : List Instr).all (fun i => i.wf == true) = true := by decide

theorem test_well_formed_1 : ([
    .preemptBudgetExhausted 65535, .regionStart 65535, .regionStop 65535, .kernelKill 442367, .trapForward 442367,
    .demandPageMap 442367 (2 ^ 44 - 1), .pageMigration 442367 (2 ^ 44 - 1), .timeoutResume 442367, .ebreakStop 442367,
    .ecallForwardRegister 442367, .ecallRouteWrite 442367, .ecallLaunch 442367, .ecallRetire 442367, .hwBreakpointStop 442367,
    .counterSetRotate 55295, .flagUnionClear 6911 0, .registerWrite (2 ^ 36 - 1) 0, .hostWindowRead 1 (2 ^ 36 - 1),
    .hostWindowWrite 1 (2 ^ 36 - 1) 0, .adoor 1, .powerCheck 95 90, .speedChange 53, .lockstepMismatch 53,
    .firmwareRestart 53, .fetchFault 255 0, .issueCycle 55295, .emberRestart (2 ^ 50 - 1), .poolExtension 65535 0,
    .quarantineLift 53 (2 ^ 44 - 1), .fatalError 53, .fmaddS 0 0 0 0 7, .fmsubS 0 0 0 0 7, .fnmsubS 0 0 0 0 7, .fnmaddS 0 0 0 0 7,
    .faddS 0 0 0 7, .fsubS 0 0 0 7, .fmulS 0 0 0 7, .fdivS 0 0 0 7, .fsqrtS 0 0 7, .fcvtWS 0 0 7, .fcvtWuS 0 0 7, .fcvtLS 0 0 7,
    .fcvtLuS 0 0 7, .fcvtSW 0 0 7, .fcvtSWu 0 0 7] : List Instr).all (fun i => i.wf == true) = true := by decide

theorem test_well_formed_2 : ([
    .fcvtSL 0 0 7, .fcvtSLu 0 0 7, .sig 0 1, .tcall 0 4, .tlook 0 0 4, .vcvt 0 0 13, .msct 1 0] : List Instr).all (fun i => i.wf == true) = true := by decide

/-! Words of the spec's own examples (R34, R128, R159, R180, R225, R267, R282, R332 and the programs), and what they stand for. -/

def decodesAll (l : List (Code × Instr)) : Bool := l.all fun p => decide (decode p.1 = some p.2) && decide (encode p.2 = some p.1)

theorem test_example_words_0 : decodesAll [
    (0xFFF50513, .addi 10 10 0xFFF), (0x00113423, .sd 2 1 8), (0x00050863, .beq 10 0 8), (0x00002517, .auipc 10 2),
    (0xA3850513, .addi 10 10 0xA38), (0x02B5507B, .tlbinv 10 11), (0x8060D073, .csrrwi 0 1 0x806), (0x00B2850B, .spawn 10 5 11),
    (0x0200000B, .park), (0x0400000B, .yield), (0x0600000B, .exit), (0x00A4900B, .send 9 10), (0x0274900B, .sendV 9 7),
    (0x0404950B, .recv 10 9), (0x0604920B, .recvV 4 9), (0x0804930B, .rpoll 6 9), (0x0000200B, .wfw), (0x02C5A50B, .dput 10 11 12),
    (0x0402A00B, .dlarm 5), (0x0600200B, .dldone), (0x2205402B, .roam 10), (0x0012B00B, .tcall 5 1), (0x020FB00B, .tret 31),
    (0x04AFB00B, .tfail 31 10), (0x0622B30B, .tlook 6 5 2), (0x08C5B50B, .tgopen 10 11 12), (0x0A05300B, .tgclose 10),
    (0x0C05300B, .tgseal 10), (0x0E05300B, .tgdrop 10), (0x0005400B, .barA 10), (0x0205400B, .barW 10), (0x0405400B, .barAw 10),
    (0x06C5C50B, .collRed 10 11 12), (0x08C5C50B, .collBc 10 11 12), (0xE3F0600B, .waitc 7 0 7 7), (0x30E95E0B, .sig 0x3A5C 12)] = true := by
  decide +kernel

theorem test_example_words_1 : decodesAll [
    (0x013582AB, .vld 5 11 2 3), (0x00C514AB, .vst 10 12 1 1), (0x0024252B, .vtake 10 8 0 2), (0x02B6352B, .amaddD 10 12 11),
    (0x306532AB, .amcasW 5 10 6), (0x00B4C52B, .apndD 10 9 11), (0x1234C52B, .apndV 10 9 3 1), (0x2004C52B, .seal 10 9), (0x240542AB, .vtag 5 10),
    (0x26B5402B, .vrcl 10 11), (0x28B5402B, .srepl 10 11), (0x0000502B, .fncC), (0x0200502B, .fncL), (0x0400502B, .fncF), (0x0600502B, .fncW),
    (0x0800502B, .fncS), (0x0A12A25B, .vfmaVf 4 5 1), (0x04A0245B, .vmulVf 8 0 10), (0x1631315B, .vsllVi 2 2 3), (0x2403205B, .vcltVf 6 0),
    (0x581242DB, .vcvt 5 4 1), (0x6A01C1DB, .vhadS 3 3), (0x702084DB, .vamulVv 9 1 2), (0x8004555B, .vrsumF 10 8), (0x0661D55B, .vgetX 10 3 6),
    (0x0612E05B, .vrep 0 5 1 3), (0x00A0F05B, .vqnt 1 10), (0x02A0715B, .vdqnt 2 10), (0x0005622B, .vlr 4 10), (0x0245E02B, .vsr 11 4),
    (0x0475632B, .vlrg 6 10 7), (0x0405507B, .vsave 10), (0x0605507B, .vrest 10), (0x342020DB, .vbcVf 1 2), (0x3240B1DB, .vrotVi 3 1 4),
    (0x4000415B, .vmv 2 0), (0x3330915B, .vrotVx 2 1 19), (0x0061705B, .vqnt 2 6), (0x0031015B, .vaddVv 2 2 3)] = true := by decide +kernel

theorem test_example_words_2 : decodesAll [
    (0x106281FB, .mma 1 1 5 6 2), (0x50B0127B, .mmal 2 0 11 10), (0x0055207B, .mgth 10 5), (0x020520FB, .msct 1 10), (0x040020FB, .mclr 1),
    (0x0202A0FB, .msct 1 5), (0x00C5B57B, .cpy 10 11 12 0), (0x06C5B57B, .cpy2 10 11 12 1), (0x08C5B2FB, .cpyz 5 11 12 0),
    (0x0CC5B57B, .cput 10 11 12 0), (0x12C5B57B, .cget 10 11 12 1), (0x0205407B, .cfnc 1 10), (0x060042FB, .cseq 5 1)] = true := by decide +kernel

/-! One word of each row of the opcode table, written out from the tables of encodings. -/

theorem test_decode_immediate : decodesAll [
  (0xA5C3BAB7, .lui 21 0xa5c3b), (0xA5C3BA97, .auipc 21 0xa5c3b), (0x93548A93, .addi 21 9 0x935),
   (0x9354AA93, .slti 21 9 0x935), (0x9354BA93, .sltiu 21 9 0x935), (0x9354CA93, .xori 21 9 0x935),
   (0x9354EA93, .ori 21 9 0x935), (0x9354FA93, .andi 21 9 0x935), (0x02B49A93, .slli 21 9 0x2b),
   (0x02B4DA93, .srli 21 9 0x2b), (0x42B4DA93, .srai 21 9 0x2b), (0x93548A9B, .addiw 21 9 0x935),
   (0x01649A9B, .slliw 21 9 22), (0x0164DA9B, .srliw 21 9 22), (0x4164DA9B, .sraiw 21 9 22)] = true := by decide +kernel
theorem test_decode_jump : decodesAll [
  (0x8774BAEF, .jal 21 0xa5c3b), (0x93548AE7, .jalr 21 9 0x935), (0xA7E48563, .beq 9 30 0x935),
   (0xA7E49563, .bne 9 30 0x935), (0xA7E4C563, .blt 9 30 0x935), (0xA7E4D563, .bge 9 30 0x935),
   (0xA7E4E563, .bltu 9 30 0x935), (0xA7E4F563, .bgeu 9 30 0x935)] = true := by decide +kernel
theorem test_decode_memory : decodesAll [
  (0x93548A83, .lb 21 9 0x935), (0x93549A83, .lh 21 9 0x935), (0x9354AA83, .lw 21 9 0x935),
   (0x9354BA83, .ld 21 9 0x935), (0x9354CA83, .lbu 21 9 0x935), (0x9354DA83, .lhu 21 9 0x935),
   (0x9354EA83, .lwu 21 9 0x935), (0x93E48AA3, .sb 9 30 0x935), (0x93E49AA3, .sh 9 30 0x935),
   (0x93E4AAA3, .sw 9 30 0x935), (0x93E4BAA3, .sd 9 30 0x935), (0x0000000F, .fence), (0x0000100F, .fenceI),
   (0x9354AA87, .flw 21 9 0x935), (0x93E4AAA7, .fsw 9 30 0x935)] = true := by decide +kernel
theorem test_decode_register : decodesAll [
  (0x01E48AB3, .add 21 9 30), (0x41E48AB3, .sub 21 9 30), (0x01E49AB3, .sll 21 9 30), (0x01E4AAB3, .slt 21 9 30),
   (0x01E4BAB3, .sltu 21 9 30), (0x01E4CAB3, .xor 21 9 30), (0x01E4DAB3, .srl 21 9 30), (0x41E4DAB3, .sra 21 9 30),
   (0x01E4EAB3, .or 21 9 30), (0x01E4FAB3, .and 21 9 30), (0x01E48ABB, .addw 21 9 30), (0x41E48ABB, .subw 21 9 30),
   (0x01E49ABB, .sllw 21 9 30), (0x01E4DABB, .srlw 21 9 30), (0x41E4DABB, .sraw 21 9 30), (0x03E48AB3, .mul 21 9 30),
   (0x03E49AB3, .mulh 21 9 30), (0x03E4AAB3, .mulhsu 21 9 30), (0x03E4BAB3, .mulhu 21 9 30),
   (0x03E4CAB3, .div 21 9 30), (0x03E4DAB3, .divu 21 9 30), (0x03E4EAB3, .rem 21 9 30), (0x03E4FAB3, .remu 21 9 30),
   (0x03E48ABB, .mulw 21 9 30), (0x03E4CABB, .divw 21 9 30), (0x03E4DABB, .divuw 21 9 30), (0x03E4EABB, .remw 21 9 30),
   (0x03E4FABB, .remuw 21 9 30)] = true := by decide +kernel
theorem test_decode_system : decodesAll [
  (0x00000073, .ecall), (0x00100073, .ebreak), (0x5C449AF3, .csrrw 21 9 0x5c4), (0x5C44AAF3, .csrrs 21 9 0x5c4),
   (0x5C44BAF3, .csrrc 21 9 0x5c4), (0x5C44DAF3, .csrrwi 21 9 0x5c4), (0x5C44EAF3, .csrrsi 21 9 0x5c4),
   (0x5C44FAF3, .csrrci 21 9 0x5c4)] = true := by decide +kernel
theorem test_decode_float : decodesAll [
  (0x99E4BAC3, .fmaddS 21 9 30 19 3), (0x99E4BAC7, .fmsubS 21 9 30 19 3), (0x99E4BACB, .fnmsubS 21 9 30 19 3),
   (0x99E4BACF, .fnmaddS 21 9 30 19 3), (0x01E4BAD3, .faddS 21 9 30 3), (0x09E4BAD3, .fsubS 21 9 30 3),
   (0x11E4BAD3, .fmulS 21 9 30 3), (0x19E4BAD3, .fdivS 21 9 30 3), (0x5804BAD3, .fsqrtS 21 9 3),
   (0x21E48AD3, .fsgnjS 21 9 30), (0x21E49AD3, .fsgnjnS 21 9 30), (0x21E4AAD3, .fsgnjxS 21 9 30),
   (0x29E48AD3, .fminS 21 9 30), (0x29E49AD3, .fmaxS 21 9 30), (0xC004BAD3, .fcvtWS 21 9 3),
   (0xC014BAD3, .fcvtWuS 21 9 3), (0xC024BAD3, .fcvtLS 21 9 3), (0xC034BAD3, .fcvtLuS 21 9 3),
   (0xD004BAD3, .fcvtSW 21 9 3), (0xD014BAD3, .fcvtSWu 21 9 3), (0xD024BAD3, .fcvtSL 21 9 3),
   (0xD034BAD3, .fcvtSLu 21 9 3), (0xA1E4AAD3, .feqS 21 9 30), (0xA1E49AD3, .fltS 21 9 30),
   (0xA1E48AD3, .fleS 21 9 30), (0xE0048AD3, .fmvXW 21 9), (0xE0049AD3, .fclassS 21 9), (0xF0048AD3, .fmvWX 21 9)] = true := by decide +kernel
theorem test_decode_custom3 : decodesAll [
  (0x0000507B, .xret), (0x03E4D07B, .tlbinv 9 30), (0x0404D07B, .vsave 9), (0x0604D07B, .vrest 9),
   (0x99E485FB, .mma 5 1 9 30 19), (0x9BE485FB, .mmaO 5 1 9 30 19), (0x9DE485FB, .mmaR 5 1 9 30 19),
   (0x99E015FB, .mmal 5 1 30 19), (0x9BE015FB, .mmalO 5 1 30 19), (0x9DE015FB, .mmalR 5 1 30 19),
   (0x01E4A07B, .mgth 9 30), (0x0204A2FB, .msct 5 9), (0x040020FB, .mclr 1), (0x03E4BAFB, .cpy 21 9 30 1),
   (0x07E4BAFB, .cpy2 21 9 30 1), (0x0BE4BAFB, .cpyz 21 9 30 1), (0x0FE4BAFB, .cput 21 9 30 1),
   (0x13E4BAFB, .cget 21 9 30 1), (0x0204C07B, .cfnc 1 9), (0x06004AFB, .cseq 21 1)] = true := by decide +kernel
theorem test_decode_custom0 : decodesAll [
  (0x30E95E0B, .sig 0x3a5c 12), (0x01E48A8B, .spawn 21 9 30), (0x0200000B, .park), (0x0400000B, .yield),
   (0x0600000B, .exit), (0x01E4900B, .send 9 30), (0x03E4900B, .sendV 9 30), (0x04049A8B, .recv 21 9),
   (0x06049A8B, .recvV 21 9), (0x08049A8B, .rpoll 21 9), (0x0000200B, .wfw), (0x03E4AA8B, .dput 21 9 30),
   (0x0404A00B, .dlarm 9), (0x0600200B, .dldone), (0x0034B00B, .tcall 9 3), (0x0204B00B, .tret 9),
   (0x05E4B00B, .tfail 9 30), (0x0634BA8B, .tlook 21 9 3), (0x09E4BA8B, .tgopen 21 9 30), (0x0A04B00B, .tgclose 9),
   (0x0C04B00B, .tgseal 9), (0x0E04B00B, .tgdrop 9), (0x0004C00B, .barA 9), (0x0204C00B, .barW 9),
   (0x0404C00B, .barAw 9), (0x07E4CA8B, .collRed 21 9 30), (0x09E4CA8B, .collBc 21 9 30), (0xE550600B, .waitc 7 1 2 5)] = true := by decide +kernel
theorem test_decode_custom1 : decodesAll [
  (0xDB548AAB, .vld 21 9 0x1b6 5), (0xDBE49AAB, .vst 9 30 0x1b6 5), (0xDB54AAAB, .vtake 21 9 0x1b6 5),
   (0x01E4BAAB, .amaddW 21 9 30), (0x03E4BAAB, .amaddD 21 9 30), (0x09E4BAAB, .amsminW 21 9 30),
   (0x0BE4BAAB, .amsminD 21 9 30), (0x11E4BAAB, .amsmaxW 21 9 30), (0x13E4BAAB, .amsmaxD 21 9 30),
   (0x19E4BAAB, .amuminW 21 9 30), (0x1BE4BAAB, .amuminD 21 9 30), (0x21E4BAAB, .amumaxW 21 9 30),
   (0x23E4BAAB, .amumaxD 21 9 30), (0x29E4BAAB, .amswapW 21 9 30), (0x2BE4BAAB, .amswapD 21 9 30),
   (0x31E4BAAB, .amcasW 21 9 30), (0x33E4BAAB, .amcasD 21 9 30), (0x01E4CAAB, .apndD 21 9 30),
   (0x1DE4CAAB, .apndV 21 9 30 6), (0x2004CAAB, .seal 21 9), (0x2204C02B, .roam 9), (0x2404CAAB, .vtag 21 9),
   (0x27E4C02B, .vrcl 9 30), (0x29E4C02B, .srepl 9 30), (0x0000502B, .fncC), (0x0200502B, .fncL), (0x0400502B, .fncF),
   (0x0600502B, .fncW), (0x0800502B, .fncS), (0x0004EAAB, .vlr 21 9), (0x03E4E02B, .vsr 9 30),
   (0x05E4EAAB, .vlrg 21 9 30)] = true := by decide +kernel
theorem test_decode_custom2_0 : decodesAll [
  (0x01E48ADB, .vaddVv 21 9 30), (0x01E49ADB, .vaddVx 21 9 30), (0x01E4AADB, .vaddVf 21 9 30),
   (0x0164BADB, .vaddVi 21 9 22), (0x03E48ADB, .vsubVv 21 9 30), (0x03E49ADB, .vsubVx 21 9 30),
   (0x03E4AADB, .vsubVf 21 9 30), (0x0364BADB, .vsubVi 21 9 22), (0x05E48ADB, .vmulVv 21 9 30),
   (0x05E49ADB, .vmulVx 21 9 30), (0x05E4AADB, .vmulVf 21 9 30), (0x0564BADB, .vmulVi 21 9 22),
   (0x07E48ADB, .vminVv 21 9 30), (0x07E49ADB, .vminVx 21 9 30), (0x07E4AADB, .vminVf 21 9 30),
   (0x0764BADB, .vminVi 21 9 22), (0x09E48ADB, .vmaxVv 21 9 30), (0x09E49ADB, .vmaxVx 21 9 30),
   (0x09E4AADB, .vmaxVf 21 9 30), (0x0964BADB, .vmaxVi 21 9 22), (0x0BE48ADB, .vfmaVv 21 9 30),
   (0x0BE49ADB, .vfmaVx 21 9 30), (0x0BE4AADB, .vfmaVf 21 9 30), (0x0DE48ADB, .vfnmaVv 21 9 30),
   (0x0DE49ADB, .vfnmaVx 21 9 30), (0x0DE4AADB, .vfnmaVf 21 9 30), (0x11E48ADB, .vandVv 21 9 30),
   (0x11E49ADB, .vandVx 21 9 30), (0x1164BADB, .vandVi 21 9 22), (0x13E48ADB, .vorVv 21 9 30),
   (0x13E49ADB, .vorVx 21 9 30), (0x1364BADB, .vorVi 21 9 22)] = true := by decide +kernel
theorem test_decode_custom2_1 : decodesAll [
  (0x15E48ADB, .vxorVv 21 9 30), (0x15E49ADB, .vxorVx 21 9 30), (0x1564BADB, .vxorVi 21 9 22),
   (0x17E48ADB, .vsllVv 21 9 30), (0x17E49ADB, .vsllVx 21 9 30), (0x1764BADB, .vsllVi 21 9 22),
   (0x19E48ADB, .vsrlVv 21 9 30), (0x19E49ADB, .vsrlVx 21 9 30), (0x1964BADB, .vsrlVi 21 9 22),
   (0x1BE48ADB, .vsraVv 21 9 30), (0x1BE49ADB, .vsraVx 21 9 30), (0x1B64BADB, .vsraVi 21 9 22),
   (0x21E4805B, .vceqVv 9 30), (0x21E4905B, .vceqVx 9 30), (0x21E4A05B, .vceqVf 9 30), (0x2164B05B, .vceqVi 9 22),
   (0x23E4805B, .vcneVv 9 30), (0x23E4905B, .vcneVx 9 30), (0x23E4A05B, .vcneVf 9 30), (0x2364B05B, .vcneVi 9 22),
   (0x25E4805B, .vcltVv 9 30), (0x25E4905B, .vcltVx 9 30), (0x25E4A05B, .vcltVf 9 30), (0x2564B05B, .vcltVi 9 22),
   (0x27E4805B, .vcleVv 9 30), (0x27E4905B, .vcleVx 9 30), (0x27E4A05B, .vcleVf 9 30), (0x2764B05B, .vcleVi 9 22),
   (0x29E48ADB, .vselVv 21 9 30), (0x29E49ADB, .vselVx 21 9 30), (0x29E4AADB, .vselVf 21 9 30),
   (0x2964BADB, .vselVi 21 9 22)] = true := by decide +kernel
theorem test_decode_custom2_2 : decodesAll [
  (0x31E48ADB, .vpermVv 21 9 30), (0x33E49ADB, .vrotVx 21 9 30), (0x3364BADB, .vrotVi 21 9 22),
   (0x35E01ADB, .vbcVx 21 30), (0x35E02ADB, .vbcVf 21 30), (0x4004CADB, .vmv 21 9), (0x4204CADB, .vneg 21 9),
   (0x4404CADB, .vabs 21 9), (0x4804CADB, .vrcp 21 9), (0x4A04CADB, .vrsq 21 9), (0x4C04CADB, .vexp2 21 9),
   (0x4E04CADB, .vlog2 21 9), (0x5004CADB, .vtanh 21 9), (0x58C4CADB, .vcvt 21 9 12), (0x6004CADB, .vconj 21 9),
   (0x6204CADB, .vnorm 21 9), (0x6804CADB, .vhad 21 9), (0x6A04CADB, .vhadS 21 9), (0x71E48ADB, .vamulVv 21 9 30),
   (0x0004DADB, .vrsumX 21 9), (0x8004DADB, .vrsumF 21 9), (0x0204DADB, .vrmaxX 21 9), (0x8204DADB, .vrmaxF 21 9),
   (0x0404DADB, .vrminX 21 9), (0x8404DADB, .vrminF 21 9), (0x07E4DADB, .vgetX 21 9 30), (0x87E4DADB, .vgetF 21 9 30),
   (0x0DE4E6DB, .vrep 13 9 30 6), (0x01E4F05B, .vqnt 9 30), (0x03E07ADB, .vdqnt 21 30)] = true := by decide +kernel

/-! Steps: integer and floating-point instructions. -/

/-- What an instruction leaves in x3, and in f3 with the flags, with x1 and x2, or f1 and f2, as given. -/
def leavesX (i : Instr) (a b v : Word) : Bool := ok (exec i (one { x := regs a b })) fun t => t.me.xr 3 == v && t.me.pc == 4
def leavesF (i : Instr) (a b : BitVec 32) (v : BitVec 32) (fl : BitVec 5) : Bool :=
  ok (exec i (one { f := [(1, a), (2, b)] })) fun t => t.me.fr 3 == v && t.me.fflags == fl
def leavesI (i : Instr) (a : BitVec 32) (v : Word) (fl : BitVec 5) : Bool :=
  ok (exec i (one { f := [(1, a), (2, 0x40000000)] })) fun t => t.me.xr 3 == v && t.me.fflags == fl

/-- R56: wraps, sign changes and shift amounts of the full width. -/
theorem test_integer_register : (
    leavesX (.add 3 1 2) (-1) 1 0 && leavesX (.sub 3 1 2) 0 1 (-1) && leavesX (.sll 3 1 2) 1 65 2 && leavesX (.slt 3 1 2) (-1) 0 1 &&
    leavesX (.sltu 3 1 2) (-1) 0 0 && leavesX (.xor 3 1 2) 6 5 3 && leavesX (.srl 3 1 2) (-1) 63 1 && leavesX (.sra 3 1 2) (-2) 65 (-1) &&
    leavesX (.or 3 1 2) 6 5 7 && leavesX (.and 3 1 2) 6 5 4 && leavesX (.addw 3 1 2) 0x7FFFFFFF 1 0xFFFFFFFF80000000 &&
    leavesX (.subw 3 1 2) 0x100000000 1 (-1) && leavesX (.sllw 3 1 2) 1 31 0xFFFFFFFF80000000 && leavesX (.srlw 3 1 2) 0xFFFFFFFF80000000 32 0xFFFFFFFF80000000 &&
    leavesX (.sraw 3 1 2) 0x80000000 31 (-1)) = true := by decide +kernel

theorem test_integer_multiply : (
    leavesX (.mul 3 1 2) (-1) (-1) 1 && leavesX (.mulh 3 1 2) (-1) 1 (-1) && leavesX (.mulhsu 3 1 2) (-1) (-1) (-1) &&
    leavesX (.mulhu 3 1 2) (-1) (-1) (-2) && leavesX (.mulw 3 1 2) 0x10000 0x8000 0xFFFFFFFF80000000 && leavesX (.div 3 1 2) (-7) 2 (-3) &&
    leavesX (.rem 3 1 2) (-7) 2 (-1) && leavesX (.divu 3 1 2) (-1) 2 0x7FFFFFFFFFFFFFFF && leavesX (.remu 3 1 2) (-1) 16 15 &&
    leavesX (.divw 3 1 2) 0x100000009 2 4 && leavesX (.divuw 3 1 2) 0xFFFFFFFF 1 (-1) && leavesX (.remw 3 1 2) 0xFFFFFFF9 2 (-1) &&
    leavesX (.remuw 3 1 2) 0xFFFFFFFF 0x80000000 0x7FFFFFFF) = true := by decide +kernel

theorem test_integer_immediate : (
    leavesX (.addi 3 1 0xFFF) 0 0 (-1) && leavesX (.slti 3 1 0x800) 0 0 0 && leavesX (.sltiu 3 1 0xFFF) 5 0 1 && leavesX (.xori 3 1 0xFFF) 5 0 (-6) &&
    leavesX (.ori 3 1 0x800) 0 0 0xFFFFFFFFFFFFF800 && leavesX (.andi 3 1 0xFFF) 5 0 5 && leavesX (.addiw 3 1 1) 0x7FFFFFFF 0 0xFFFFFFFF80000000 &&
    leavesX (.slli 3 1 63) 3 0 0x8000000000000000 && leavesX (.srli 3 1 63) (-1) 0 1 && leavesX (.srai 3 1 63) (-1) 0 (-1) &&
    leavesX (.slliw 3 1 31) 1 0 0xFFFFFFFF80000000 && leavesX (.srliw 3 1 1) 0xFFFFFFFE 0 0x7FFFFFFF && leavesX (.sraiw 3 1 1) 0xFFFFFFFE 0 (-1) &&
    leavesX (.lui 3 0x80000) 0 0 0xFFFFFFFF80000000 && leavesX (.auipc 3 1) 0 0 0x1000 && leavesX (.addi 0 1 5) 7 0 0) = true := by decide +kernel

/-- R56: a backward branch, a jump that links, a jump whose target has bit 0 set, and a branch that is not taken. -/
theorem test_jumps : (
    ok (exec (.beq 1 2 0xFFC) (one { pc := 0x100 })) (fun t => t.me.pc == 0xF8) && ok (exec (.jal 1 4) (one { pc := 0x100 })) (fun t => t.me.pc == 0x108 && t.me.xr 1 == 0x104) &&
    ok (exec (.jalr 1 1 0) (one { pc := 0x100, x := regs 0x201 0 })) (fun t => t.me.pc == 0x200 && t.me.xr 1 == 0x104) &&
    ok (exec (.bltu 1 2 4) (one { pc := 0x100, x := regs (-1) 0 })) (fun t => t.me.pc == 0x104) &&
    ok (exec (.blt 1 2 4) (one { pc := 0x100, x := regs (-1) 0 })) (fun t => t.me.pc == 0x108) &&
    ok (exec (.jal 1 1) (one { pc := 0x100, x := regs 7 0, trapvec := 0x4000 })) (fun t =>
      t.me.pc == 0x4000 && t.me.xr 1 == 7 && t.me.trapcause == 2 && t.me.trapval == 0x102 && t.me.trappc == 0x100)) = true := by decide +kernel

/-- R62, R63: 1.5 + 2.25 = 3.75, 2^24 + 1 (a tie, to even), 1/3, √2, 1/0, ∞ − ∞, and 1·1 − 1. -/
theorem test_float : (
    leavesF (.faddS 3 1 2 0) 0x3FC00000 0x40100000 0x40700000 0 && leavesF (.faddS 3 1 2 0) 0x4B800000 0x3F800000 0x4B800000 1 &&
    leavesF (.faddS 3 1 2 3) 0x4B800000 0x3F800000 0x4B800001 1 && leavesF (.fdivS 3 1 2 0) 0x3F800000 0x40400000 0x3EAAAAAB 1 &&
    leavesF (.fsqrtS 3 1 0) 0x40000000 0 0x3FB504F3 1 && leavesF (.fdivS 3 1 2 0) 0x3F800000 0 0x7F800000 8 &&
    leavesF (.fsubS 3 1 2 0) 0x7F800000 0x7F800000 0x7FC00000 16 && leavesF (.fmulS 3 1 2 0) 0x7F7FFFFF 0x40000000 0x7F800000 5 &&
    leavesF (.fmulS 3 1 2 1) 0x7F7FFFFF 0x40000000 0x7F7FFFFF 5 && leavesF (.fmulS 3 1 2 0) 0x00800000 0x3F000000 0x00400000 0 &&
    leavesF (.fmsubS 3 1 1 1 0) 0x3F800000 0 0 0 && leavesF (.fmaddS 3 1 2 1 0) 0x3F800000 0x40000000 0x40400000 0 &&
    leavesF (.fnmaddS 3 1 2 1 0) 0x3F800000 0x40000000 0xC0400000 0 && leavesF (.fnmsubS 3 1 2 1 0) 0x3F800000 0x40000000 0xBF800000 0) = true := by
  decide +kernel

/-- R65 with its examples: FCVT.W.S of 3,000,000,000.0 and of a NaN, FCVT.WU.S of −0.4, ties of FCVT, FCLASS, comparisons and moves. -/
theorem test_float_to_integer : (
    leavesI (.fcvtWS 3 1 0) 0x7FC00000 0 16 && leavesI (.fcvtWS 3 1 0) 0x4F32D05E 0x7FFFFFFF 16 && leavesI (.fcvtWuS 3 1 1) 0xBECCCCCD 0 1 &&
    leavesI (.fcvtWS 3 1 0) 0x40200000 2 1 && leavesI (.fcvtWS 3 1 4) 0x40200000 3 1 && leavesI (.fcvtWuS 3 1 0) 0x4F32D05E 0xFFFFFFFFB2D05E00 0 &&
    leavesI (.fcvtLS 3 1 0) 0xFF800000 0x8000000000000000 16 && leavesI (.fcvtLuS 3 1 0) 0xBF800000 0 16 && leavesI (.fclassS 3 1) 0x80000000 8 0 &&
    leavesI (.feqS 3 1 2) 0x7FC00000 0 0 && leavesI (.fltS 3 1 2) 0x7FC00000 0 16 && leavesI (.fleS 3 1 2) 0x40000000 1 0 &&
    leavesI (.fmvXW 3 1) 0x80000000 0xFFFFFFFF80000000 0) = true := by decide +kernel

theorem test_integer_to_float : (
    ok (exec (.fcvtSW 3 1 0) (one { x := regs 0xFFFFFFFF 0 })) (fun t => t.me.fr 3 == 0xBF800000) &&
    ok (exec (.fcvtSWu 3 1 0) (one { x := regs 0xFFFFFFFF 0 })) (fun t => t.me.fr 3 == 0x4F800000 && t.me.fflags == 1) &&
    ok (exec (.fcvtSL 3 1 1) (one { x := regs (-1) 0 })) (fun t => t.me.fr 3 == 0xBF800000) &&
    ok (exec (.fcvtSLu 3 1 1) (one { x := regs (-1) 0 })) (fun t => t.me.fr 3 == 0x5F7FFFFF && t.me.fflags == 1) &&
    leavesF (.fsgnjnS 3 1 1) 0x3F800000 0 0xBF800000 0 && leavesF (.fsgnjxS 3 1 2) 0xBF800000 0x80000000 0x3F800000 0 &&
    leavesF (.fminS 3 1 2) 0 0x80000000 0x80000000 0 && leavesF (.fmaxS 3 1 2) 0x7F800001 0x3F800000 0x3F800000 16) = true := by decide +kernel

/-! Steps: traps and state registers. -/

/-- R33: ECALL at user level. R72: a return. R33: a second trap with BUSY set parks the slot. -/
theorem test_traps : (
    ok (exec .ecall (one { pc := 0x100, trapvec := 0x4000 })) (fun t => t.me.pc == 0x4000 && t.me.level == .supervisor && t.me.busy && t.me.pp == .user &&
      t.me.trappc == 0x100 && t.me.trapcause == 0x11 && t.me.trapval == 0) &&
    ok (exec .xret (one { level := .supervisor, busy := true, pp := .user, trappc := 0x104 })) (fun t => t.me.pc == 0x104 && t.me.level == .user && !t.me.busy) &&
    ok (exec .xret (one { word := 0x0000507B, trapvec := 0x4000 })) (fun t => t.me.trapcause == 1 && t.me.trapval == 0x507B) &&
    ok (exec .ecall (one { mode := .active, busy := true })) (fun t => t.me.mode == .doubleFault && (t.field 0).errors.length == 1) &&
    ok (exec .wfw (one { level := .supervisor, word := 0x200B })) (fun t => t.me.trapcause == 1)) = true := by decide +kernel

/-- R68, R69: `fcsr`, the 0x5C0 range at user level, a read-only register, `coreloc`, and a write of `parklimit`. -/
theorem test_csr : (
    ok (exec (.csrrw 3 1 0x003) (one { fflags := 3, frm := 2, x := regs 0xFF 0 })) (fun t => t.me.xr 3 == 0x43 && t.me.fflags == 31 && t.me.frm == 7) &&
    ok (exec (.csrrs 3 0 0x5C0) (one {})) (fun t => t.me.trapcause == 1) && ok (exec (.csrrw 3 1 0x800) (one {})) (fun t => t.me.trapcause == 1) &&
    ok (exec (.csrrsi 3 0 0x801) (one {})) (fun t => t.me.xr 3 == coreloc 0 && t.me.pc == 4) &&
    ok (exec (.csrrci 3 1 0x80A) (one { parklimit := 3 })) (fun t => t.me.xr 3 == 3 && t.me.parklimit == 2)) = true := by decide +kernel

/-! Steps: memory. -/

/-- R27: the example of a store-space address. R209: the example of a walk. -/
theorem test_addresses : storeAddrAt ((coreAt 100 70).getD 0) 0x10040 = 0xFFF3223000010040 ∧ coreField ((coreAt 100 70).getD 0) = 19 ∧ coreAt 0 0 = none ∧
    coreField ((coreAt 256 160).getD 0) = 53 ∧ coreField ((coreAt 351 95).getD 0) = 26 := by decide +kernel

theorem test_walk :
    let bytes (a v : Nat) : List Host.Cell := ((List.range 8).map fun i => (a + i, BitVec.ofNat 8 (v / 256 ^ i))).filter fun p => p.2 != 0
    let s : State := { mem := bytes 0x14212000240 0x14212002001 ++ bytes 0x14212003A28 0x14212004001 ++ bytes 0x14212004CF0 0x14212006001 ++ bytes 0x142120064D0 0x1D2C5310117 }
    s.walk 0x5A 0x14212000000 0x00123456789ABCDE =
      .leaf { asid := 0x5A, page := 0x00123456789A0000, big := false, leaf := 0x1D2C5310117, at_ := 0x142120064D0 } ∧ Memory.wf s.mem = true ∧
    keyCore 0x1D2C531BCDE = (coreAt 44 41).getD 0 := by decide +kernel

/-- R10, R59: little-endian bytes, sign extension, and a store of the low bytes only. -/
theorem test_memory :
    let s := { one { x := regs (own 8) 0x1122334455667788 } with mem := [(sliceKey 0 + 8, 0x80), (sliceKey 0 + 9, 0xFF)] }
    (ok (exec (.lb 3 1 0) s) (fun t => t.me.xr 3 == 0xFFFFFFFFFFFFFF80) && ok (exec (.lhu 3 1 0) s) (fun t => t.me.xr 3 == 0xFF80) &&
    ok (exec (.ld 3 1 0) s) (fun t => t.me.xr 3 == 0xFF80) && ok (exec (.lw 3 1 0xFFC) s) (fun t => t.me.xr 3 == 0) &&
    ok (exec (.sh 1 2 0) s) (fun t => t.mem == [(sliceKey 0 + 8, 0x88), (sliceKey 0 + 9, 0x77)]) &&
    ok (exec (.sb 1 0 0) s) (fun t => t.mem == [(sliceKey 0 + 9, 0xFF)]) && ok (exec (.sd 1 2 0) s) (fun t => (t.mem.length == 8) && t.tag (sliceKey 0 + 8) == 8) &&
    ok (exec (.ld 3 1 1) s) (fun t => t.me.trapcause == 3 && t.me.trapval == own 9) && ok (exec (.flw 3 1 0) s) (fun t => t.me.fr 3 == 0xFF80)) = true := by decide +kernel

/-- R226 to R233: a versioned store and load, a take, a reclaim, and atomics that compare. -/
theorem test_versions :
    let s := { one { x := [(1, own 8), (2, 5), (3, 7)] } with mem := [(sliceKey 0 + 8, 7)], tags := [((sliceKey 0 + 8) / 8, 10)] }
    (ok (exec (.vld 3 1 0 2) s) (fun t => t.me.xr 3 == 7 && t.me.pc == 4) && ok (exec (.vtake 3 1 0 2) s) (fun t => t.me.xr 3 == 7 && t.tag (sliceKey 0 + 8) == 2) &&
    ok (exec (.vld 3 1 0 3) s) (fun t => t.me.pc == 0 && t.me.park.isSome) && ok (exec (.vst 1 2 0 7) s) (fun t => t.mem == [(sliceKey 0 + 8, 5)] && t.tag (sliceKey 0 + 8) == 15) &&
    ok (exec (.vtag 3 1) s) (fun t => t.me.xr 3 == 10) && ok (exec (.amcasD 3 1 2) s) (fun t => t.mem == [(sliceKey 0 + 8, 5)] && t.me.xr 3 == 7) &&
    ok (exec (.amcasW 2 1 3) s) (fun t => t.mem == s.mem && t.me.xr 2 == 7) && ok (exec (.amsminD 3 1 2) s) (fun t => t.mem == [(sliceKey 0 + 8, 5)]) &&
    ok (exec (.amaddW 0 1 2) s) (fun t => t.mem == [(sliceKey 0 + 8, 12)] && t.me.xr 0 == 0)) = true := by decide +kernel

/-! Steps: number formats, vectors and matrices. -/

/-- R88, R89: the BFP8 example, and the one whose first element rounds past the limit. -/
theorem test_quantise :
    quantise .rne 8 ([0x40400000, 0xBFA00000, 0x3DCCCCCD] ++ List.replicate 29 0) = (0x80, [96, -40, 3] ++ List.replicate 29 0, 1) ∧
    (quantise .rne 8 ([0x407F8000, 0xBFA00000, 0x3DCCCCCD] ++ List.replicate 29 0)).1 = 0x80 ∧
    (quantise .rne 8 ([0x407F8000, 0xBFA00000, 0x3DCCCCCD] ++ List.replicate 29 0)).2.1.head? = some 127 ∧
    (quantise .rne 8 ([0x407F8000, 0xBFA00000, 0x3DCCCCCD] ++ List.replicate 29 0)).2.2 = 5 ∧
    dequantise .rne 8 0x80 96 = (0x40400000, 0) ∧ dequantise .rne 8 0x80 3 = (0x3DC00000, 0) ∧ dequantise .rne 8 0x80 127 = (0x407E0000, 0) ∧
    packBlock 4 ([4, -2, 7] ++ List.replicate 29 0) = 0x7E4 := by decide +kernel

/-- R153, R154: int8 lanes saturate where SAT is set and wrap where it is clear; a lane that the mask disables keeps its value. -/
def rowsState (e : VEntry) (vmk : Word) : State :=
  { now := 8, slots := [(0, { accHeld := true, vbuf := [e], vmk := vmk })], cores := [(0, { rows := [(1, 0x7F7F), (2, 0x0101), (3, 0x0505)] })] }

theorem test_lanes : (
    ok (exec (.vectorEntryExecute 0) (rowsState { op := .add, form := .vv, vd := 3, vs1 := 1, vs2 := 2, vtype := 0x105 } 1)) (fun t => t.row 0 3 == 0x057F) &&
    ok (exec (.vectorEntryExecute 0) (rowsState { op := .add, form := .vv, vd := 3, vs1 := 1, vs2 := 2, vtype := 5 } 1)) (fun t => t.row 0 3 == 0x0580) &&
    ok (exec (.vectorEntryExecute 0) (rowsState { op := .mul, form := .vv, vd := 3, vs1 := 1, vs2 := 2, vtype := 3 } (-1))) (fun t => t.row 0 3 == 0x7FFE7F) &&
    ok (exec (.vectorEntryExecute 0) (rowsState { op := .rsum, vs1 := 1, rd := 3, vtype := 5 } (-1))) (fun t => t.me.xr 3 == 0xFE && t.me.vbuf == [])) = true := by
  decide +kernel

/-- R332: the example of a four-party sum over two fields. -/
theorem test_collective :
    collValue false [5120, 5121, 6144, 6145] 0x0004000000000001 (fun c => some (if c = 5120 then 0x4B800000 else 0x3F800000)) = (0x4B800001, 1) := by decide +kernel

theorem test_passed : passed 6 0x0000000500000002 = true ∧ passed 5 0x0000000500000002 = false := by decide

/-- R317, R322: the legs of the detour. -/
theorem test_legs : routeLegs 0xB000000801C04001 = [(0, false, 1), (3, false, 4), (2, false, 1)] ∧ routeMalformed 0xB000000801C04001 = false := by decide +kernel

/-- R265, R266: the worked tile: element (0,0) is 2^24 with NX, or 2^24 + 2 with no flag where the large block comes last. -/
def block1 (e : Nat) (m : Int) : Block := ⟨e, m :: List.replicate 31 0⟩
def zeros : List Block := List.replicate 3 ⟨0, List.replicate 32 0⟩
def tileA : Rows := { m := 8, n := 3, rows := [block1 127 64, block1 127 64, block1 127 64] :: List.replicate 15 zeros }
def tileB (l : List Block) : Rows := { m := 8, n := 3, rows := l :: List.replicate 31 zeros }

theorem test_tile : (
    let r := tileRows (({} : Cluster).table 0) false tileA (tileB [block1 151 64, block1 127 64, block1 127 64]) (.fin false 1 0) (List.replicate 16 0)
    let q := tileRows (({} : Cluster).table 0) false tileA (tileB [block1 127 64, block1 127 64, block1 151 64]) (.fin false 1 0) (List.replicate 16 0)
    r.1 == BitVec.ofNat 1024 0x4B800000 :: List.replicate 15 0 && r.2 == 1 && q.1.head? == some (BitVec.ofNat 1024 0x4B800001) && q.2 == 0) = true := by decide +kernel

theorem test_descriptor :
    let d := descOf 0x1070080040104000
    d.n = 3 ∧ d.m = 8 ∧ d.stride = 8 ∧ planeCore 0 d.a = 2 ∧ d.rowAt 15 + d.rowBytes 16 - 1 = 0x4F5F ∧ d.expAt 15 + 2 = 0x507A ∧ d.illegal = false ∧
    (one {}).descTrap d 16 = none := by decide +kernel

/-- R168: the descriptor of a plane: mantissas at 0x081040, the exponent at 0x082002. -/
theorem test_plane : (match (one {}).plane 0 0x0070020040081000 with
    | .ok (m, km, ke) => m == 8 && km == sliceKey 1 + 0x1040 && ke == sliceKey 1 + 0x2002
    | .error _ => false) = true := by decide +kernel

/-! Steps: embers, messages, copies and barriers. -/

/-- R132, R143, R144: a record taken for a new ember, a message received, and a count of messages. -/
theorem test_embers : (
    ok (exec (.spawn 3 1 2) (inRegion { x := regs 0x101 9, ember := 5 })) (fun t => t.me.xr 3 == 0x40 && (t.core 0).ready == [(0x40, 0)] && t.me.pc == 4) &&
    ok (exec (.recv 3 1) { one { x := regs 0 0 } with cores := [(0, { rq := [(0, { hw := [⟨1, 2, false, 77, 0⟩] })] })] }) (fun t => t.me.xr 3 == 77 && (t.queue 0 0).hw == []) &&
    ok (exec (.rpoll 3 1) { one { x := regs 0 0 } with cores := [(0, { rq := [(0, { hw := [⟨1, 2, true, 77, 0⟩] })] })] }) (fun t => t.me.xr 3 == 0x1020100000001) &&
    ok (exec .yield (one { mode := .active, ember := 5 })) (fun t => t.me.leaving && t.me.pc == 4) && ok (exec .exit (one { mode := .active, ember := 5 })) (fun t => t.me.mode == .vacant) &&
    ok (exec (.dlarm 1) { one { x := regs 100 0, ember := 5 } with now := 7 }) (fun t => (t.deadlineOf 5).map (·.2.ends) == some 107)) = true := by decide +kernel

/-- R334: an arrival is recorded once; R282: a count of 0 reads the last number; R136: `vrep` opens a body. -/
theorem test_others : (
    ok (exec (.barA 1) (inRegion { x := regs 2 0 })) (fun t => (t.core 0).arr == [(2, 0)] && t.me.pc == 4) &&
    ok (exec (.cpy 3 1 2 1) { one { x := regs 0 0 } with cores := [(0, { cq1 := { issued := 9 } })] }) (fun t => t.me.xr 3 == 9) &&
    ok (exec (.cseq 3 0) (one {})) (fun t => t.me.xr 3 == 0) && ok (exec (.vrep 0 1 1 3) (one { x := regs 8 0 })) (fun t => t.me.rep.map (·.count) == some 8) &&
    ok (exec (.vaddVv 3 1 2) (one {})) (fun t => t.me.accHeld && t.me.vbuf.length == 1) && ok (exec (.mclr 1) (one {})) (fun t => t.me.tiles == 1) &&
    ok (exec (.waitc 7 0 7 7) (one { outs := [⟨1, true, 0, none, false, none⟩] })) (fun t => t.me.pc == 0) &&
    ok (exec .fncC (one { outs := [⟨1, true, 9, none, false, none⟩] })) (fun t => t.me.pc == 4)) = true := by decide +kernel

/-! Premises of the statements, met by concrete states and operands. -/

theorem witness_jumps :
    ((one {}).me.pc + ((4 : BitVec 20).signExtend 64) <<< 1).toNat % 4 = 0 ∧
    ((one {}).me.pc + ((1 : BitVec 20).signExtend 64) <<< 1).toNat % 4 ≠ 0 ∧
    (((one { x := regs 7 0 }).x 1 + (1 : BitVec 12).signExtend 64) &&& ~~~ 1).toNat % 4 = 0 ∧
    (((one { x := regs 7 0 }).x 1 + (0 : BitVec 12).signExtend 64) &&& ~~~ 1).toNat % 4 ≠ 0 := by decide

theorem witness_branches : (∀ p ∈ branchOps, (p.2 1 1 || p.2 1 2) = true ∧ (p.2 1 1 && p.2 1 2 && p.2 2 1) = false) ∧
    ((one {}).me.pc + ((4 : BitVec 12).signExtend 64) <<< 1).toNat % 4 = 0 ∧
    ((one {}).me.pc + ((0xFFF : BitVec 12).signExtend 64) <<< 1).toNat % 4 ≠ 0 := by decide

theorem witness_division :
    (let s := one { x := regs 5 0 }; s.x 2 = 0) ∧ (let s := one { x := regs 5 0x100000000 }; low (s.x 2) = 0) ∧
    (let s := one { x := regs 0x8000000000000000 (-1) }; s.x 1 = BitVec.ofNat 64 (2 ^ 63) ∧ s.x 2 = -1) ∧
    (let s := one { x := regs 0x80000000 0xFFFFFFFF }; low (s.x 1) = BitVec.ofNat 32 (2 ^ 31) ∧ low (s.x 2) = -1) := by decide

theorem witness_trap_return :
    (one {}).me.level = .user ∧
    (let v := (one { level := .supervisor, trappc := 2 }).me; v.level ≠ .user ∧ (v.trappc.signExtend 64).toNat % 4 ≠ 0) ∧
    (let v := (one { level := .supervisor, trappc := 0x7FFFFFFFFFFFFC }).me; v.level ≠ .user ∧ (v.trappc.signExtend 64).toNat % 4 = 0) := by
  decide

theorem witness_csr_slot : ∀ r ∈ slotRegisters,
    (0x800 ≤ r.1 ∨ r.1 < 0x5C0 ∨ (one { level := .supervisor }).me.level = .supervisor) ∧
    (r.1 = 0x001 ∨ r.1 = 0x003 ∨ r.1 = 0x806 ∨ r.1 = 0x807 → (one { level := .supervisor }).me.vbuf = []) := by decide

theorem witness_csr_fixed : (∃ f ∈ csrForms, f.2.1 0 = false) ∧ ∀ r ∈ fixedRegisters,
    r.1 = 0x5C6 → (one { level := .supervisor }).me.level = .supervisor := by decide

/-- The window is free, or held by slot 1; EN is written 0. -/
theorem witness_csr_core : (one { level := .supervisor }).me.level = .supervisor ∧
    (0x100 : Word).getLsbD 8 = true ∧
    ({ slots := [(0, { level := .supervisor }), (1, { accHeld := true })] } : State).windowTaken 0 0 = true ∧
    (2 : Word).getLsbD 0 = false := by decide

theorem witness_csr_illegal : (∃ f ∈ csrForms, f.2.1 1 = true) ∧
    (0x004 : BitVec 12).toNat ∉ csrNumbers ∧ (0x5CB : BitVec 12).toNat ∉ csrNumbers ∧ (0x80E : BitVec 12).toNat ∉ csrNumbers ∧
    ((one {}).me.level = .user ∧ 0x5C0 ≤ (0x5C0 : BitVec 12).toNat ∧ (0x5FF : BitVec 12).toNat ≤ 0x5FF) ∧
    (0x800 : BitVec 12).toNat ∈ fixedRegisters.map (·.1) := by decide

theorem witness_float_modes : modeOf 4 0 = some .rmm ∧ modeOf 5 0 = none ∧ modeOf 6 0 = none ∧ modeOf 7 4 = some .rmm ∧ modeOf 7 5 = none := by
  decide

/-- A NaN, an infinity, values above, below and inside the range, and one on its edge. -/
theorem witness_float_to_int :
    let s := one { f := [(1, 0x7FC00000), (2, 0xFF800000), (3, 0x4F000000), (4, 0xBF800000), (5, 0x4EFFFFFF), (6, 0xCF000000)] }
    (num s 1).isNan = true ∧ num s 2 = .inf true ∧ num s 3 = .fin false (2 ^ 23) 8 ∧ num s 4 = .fin true (2 ^ 23) (-23) ∧
    num s 5 = .fin false (2 ^ 24 - 1) 7 ∧ num s 6 = .fin true (2 ^ 23) 8 := by decide

theorem witness_class : (1 : Reg) ≠ 0 := by decide

theorem witness_min_max :
    let isNan (v : BitVec 32) : Prop := v.extractLsb' 23 8 = 255 ∧ v.extractLsb' 0 23 ≠ 0
    let quiet (v : BitVec 32) : Prop := v.getLsbD 22 = true
    let s := one { f := [(1, 0x80000000), (2, 0), (3, 0x7F800001), (4, 0x7FC00000), (5, 0x7F800000)] }
    (s.fp 1 = 0x80000000 ∧ s.fp 2 = 0) ∧ (s.fp 2 = 0 ∧ s.fp 1 = 0x80000000) ∧ (isNan (s.fp 3) ∧ ¬ isNan (s.fp 5)) ∧
    (¬ isNan (s.fp 2) ∧ isNan (s.fp 4)) ∧ (isNan (s.fp 3) ∧ isNan (s.fp 4)) ∧ ¬ quiet (s.fp 3) ∧ quiet (s.fp 4) := by decide

theorem witness_rounding : (unpack fp32 0x7FC00000).isNan = true ∧ 0x7FC00000 < 2 ^ (1 + fp32.eb + fp32.mb) ∧
    (unpack bf16 0xFFFF).isNan = true ∧ 0xFFFF < 2 ^ (1 + bf16.eb + bf16.mb) ∧
    (unpack fp16 1).isNan = false ∧ 1 < 2 ^ (1 + fp16.eb + fp16.mb) := by decide

theorem issues_of {s : State} {k t : Nat} (ha : s.agenda = [])
    (h : firstDue s.slots = some (k, t) ∧ (s.slot k).mode = .active ∧ (s.slot k).seated = false ∧ (s.slot k).killReq = none ∧
      (s.slot k).stepDone = false ∧ (s.slot k).stopReq = false ∧ (s.slot k).trapNow = none ∧ (s.slot k).level = .user ∧
      (s.slot k).imp = none ∧ (s.slot k).pend = [] ∧ s.breakpointHit k = false) : s.Issues k t :=
  let ⟨due, active, seated, lives, step, stop, trap, user, imp, pend, breaks⟩ := h
  { first := by intro p hp; rw [ha] at hp; cases hp
    due, active, seated, lives, trap, breaks
    steps := .inr ⟨step, .inl stop⟩
    kernel := .inl user
    reports := .inr (.inl ⟨imp, .inl pend⟩) }

/-- The first issue cycle after reset with a word placed (log 3). -/
theorem witness_issues : (State.reset.withFetchWord 32 0x00500093).Issues 0 0 := issues_of rfl (by decide)

/-- A word fetched from storage, and one fetched ahead. -/
theorem witness_fetches :
    (State.reset.withFetchWord 32 0x00500093).Fetches 0 0 (some { asid := 0, page := 0, big := false, leaf := 0x1F, at_ := 0 }) 0x00500093 true ∧
    (paged 0x1F { ahead := [(0, 0x00500093)] }).Fetches 0 0 (some (leafAt0 0x1F)) 0x00500093 false :=
  ⟨⟨rfl, by decide, .inr ⟨rfl, by decide⟩⟩, ⟨rfl, by decide, .inl ⟨rfl, by decide⟩⟩⟩

theorem witness_step_decodes : decode 0x00500093 = some (.addi 1 0 5) ∧ decode 0 = none ∧
    ((State.reset.withFetchWord 32 0).slot 0).inBody = false := by decide

/-- An issue cycle at a misaligned PC, and one whose fetch takes a trap: no leaf is executable. -/
theorem witness_fetch_fault :
    (∃ s : State, s.Issues 0 0 ∧ (s.slot 0).pc.toNat % 4 ≠ 0) ∧
    (∃ s : State, s.Issues 0 0 ∧ (s.slot 0).pc.toNat % 4 = 0 ∧ s.access 0 .fetch (s.slot 0).pc 4 = .trap 0x05 0) :=
  ⟨⟨one { mode := .active, pc := 2, due := some 0 }, issues_of rfl (by decide), by decide⟩,
   ⟨paged 0x17 { mode := .active, due := some 0 }, issues_of rfl (by decide), by decide, by decide⟩⟩

/-- An event before an issue cycle of the same clk, and nothing due at all. -/
theorem witness_step_order : (∀ p ∈ firstDue [(0, ({ mode := .active, due := some 3 } : Slot))], 8 * 3 + 1 ≤ 8 * p.2 + 1) ∧
    (one {}).agenda = [] ∧ firstDue (one {}).slots = none ∧ ((one {}).slot 0).stepping = false := by decide

theorem witness_decode_encode : Instr.wf (.addi 1 0 5) = true ∧ encode (.addi 1 0 5) = some 0x00500093 := by decide

theorem witness_illegal_major : (0 : Code).extractLsb' 0 2 ≠ 3 ∧ (0x1F : Code).extractLsb' 2 3 = 7 ∧
    (0x2F : Code).extractLsb' 0 7 ∈ [(0x2F : BitVec 7), 0x57, 0x6B, 0x77, 0x1F, 0x3F, 0x5F, 0x7F] := by decide

theorem own_slice_of {s : State} {va : Word} {n key : Nat} (hs : s.soft = [])
    (h : va.extractLsb' 52 12 = BitVec.allOnes 12 ∧ va.toNat % n = 0 ∧ s.storeKey va = some key ∧ s.ownSlice key = true ∧
      (s.core (keyCore key)).sliceOwner = s.me.owner ∧ s.badWord key n = none ∧ (s.core (keyCore key)).sliceZero = false ∧
      s.me.rowsQueued = false) : s.OwnSlice va n key :=
  let ⟨store, aligned, named, own, owner, whole, zeroed, rows⟩ := h
  { store, aligned, named, own, owner, whole, zeroed, rows, clean := by intro w hw; rw [hs] at hw; cases hw }

/-- The first and the last word of the own slice. -/
theorem witness_own_slice : ∃ s : State, s.OwnSlice (addr s 1 0) 8 (sliceKey 0) ∧ s.OwnSlice (addr s 2 0) 8 (sliceKey 0 + 0x7FFF8) ∧
    s.me.loadIds = [] ∧ inTurn s ∧ s.me.level = .user ∧ s.me.park = none ∧ s.me.outs = [] :=
  ⟨one { x := regs (own 0) (own 0x7FFF8) }, own_slice_of rfl (by decide), own_slice_of rfl (by decide), rfl, ⟨rfl, rfl⟩, rfl, rfl, rfl⟩

/-- A load and a store whose home is DRAM; the leaf's ATTRACT is clear. -/
theorem witness_far : ∃ (s : State) (tl : Option TlbEntry), s.me.rowsQueued = false ∧ s.access s.cur .load (addr s 1 8) 8 = .ok 8 tl ∧
    s.access s.cur .store (addr s 1 8) 8 = .ok 8 tl ∧ s.attracts 8 tl = false ∧ s.ownSlice 8 = false ∧ s.me.loads < 63 ∧
    s.me.stores < 63 ∧ s.storesHeld s.cur = false :=
  ⟨paged 0x17 {}, some (leafAt0 0x17), by decide⟩

/-- A request at a home, and a refused one. -/
theorem witness_at_home :
    (let s : State := { flights := [(1, { next := .farLoadAtHome 1, key := 8 })] }
     s.flight? 1 = some { next := .farLoadAtHome 1, key := 8 } ∧ s.zeroing 8 = false ∧ s.ownerOk 8 0 false = true ∧ s.partBad 8 8 = false ∧
      ({ next := .farLoadAtHome 1, key := 8 } : Flight).part ≤ ({ next := .farLoadAtHome 1, key := 8 } : Flight).size) ∧
    (let s : State := { flights := [(1, { next := .farLoadAtHome 1, key := 8, owner := 1 })] }
     s.zeroing 8 = false ∧ s.ownerOk 8 1 false = false) := by decide +kernel

theorem witness_replies : ∃ (s : State) (f g : Flight), s.flight? 1 = some f ∧ f.op = 0 ∧ f.ember ≠ 0 ∧ (s.slot f.slot).ember = f.ember ∧
    f.cause = 0 ∧ (s.slot f.slot).block = none ∧ f.args = [] ∧ f.op ≠ opServed ∧
    s.flight? 2 = some g ∧ g.op = opValue ∧ (s.slot g.slot).ember = g.ember ∧
    s.flight? 3 = some { g with cause := 0x10 } :=
  ⟨{ slots := [(0, { ember := 5 })], flights := [(1, { next := .loadReply 1, ember := 5 }), (2, { next := .loadReply 2, ember := 5, op := opValue }),
      (3, { next := .loadReply 2, ember := 5, op := opValue, cause := 0x10 })] },
    { next := .loadReply 1, ember := 5 }, { next := .loadReply 2, ember := 5, op := opValue }, by decide +kernel⟩

/-- A fence that waits for an access, and one that does not. -/
theorem witness_fences : (one {}).me.rowsQueued = false ∧
    (one { outs := [⟨1, true, 0, none, false, none⟩] }).me.outs.any (fun o => inScope 0 0 o.home) = true ∧
    (one {}).me.outs.any (fun o => inScope 3 0 o.home) = false := by decide

/-- A non-canonical address, a misaligned one, the first address past a slice, a missing ASID entry and another owner's. -/
theorem witness_access_checks :
    (¬ (0x80000000000000 : Word).extractLsb' 55 9 = 0 ∧ ¬ (0xFFE0000000000000 : Word).extractLsb' 52 12 = BitVec.allOnes 12) ∧
    ((1 : Word).extractLsb' 55 9 = 0 ∧ (1 : Word).toNat % 2 ≠ 0) ∧
    ((own 0x80000).extractLsb' 52 12 = BitVec.allOnes 12 ∧ (own 0x80000).toNat % 8 = 0 ∧ (one {}).storeKey (own 0x80000) = none) ∧
    ((Tab.get (one {}).asids 0 0).toNat % 2 = 0) ∧
    (let s : State := { slots := [(0, { owner := 1 })], asids := [(0, 1)] }
     (Tab.get s.asids 0 0).toNat % 2 = 1 ∧ (Tab.get s.asids 0 0).toNat / 2 ^ 56 ≠ (s.slot 0).owner.toNat) ∧
    (0x7FFFFFFFFFFFF8 : Word).extractLsb' 55 9 = 0 := by decide

theorem witness_access_traps : (paged 0x13 {}).me.rowsQueued = false ∧
    (paged 0x13 {}).access 0 .store (addr (paged 0x13 {}) 1 8) 8 = .trap 0x05 8 ∧
    (paged 0x11 {}).access 0 .load (addr (paged 0x11 {}) 1 8) 8 = .trap 0x05 8 ∧
    (paged 0x11 {}).access 0 .load (addr (paged 0x11 {}) 1 8) 4 = .trap 0x05 8 := by decide

theorem witness_levels : (one { level := .supervisor }).me.level = .supervisor ∧ (one {}).me.level = .user := by decide

theorem witness_spawn :
    ((0x80000000000000 : Word).toNat / 2 ^ 55 ≠ 0) ∧ ((0x7FFFFFFFFFFFFE : Word).toNat / 2 ^ 55 = 0 ∧ (0x7FFFFFFFFFFFFE : Word).getLsbD 1 = true) ∧
    (let s := inRegion { x := regs 0x7FFFFFFFFFFFFD 0 }
     s.me.level = .user ∧ (s.x 1).toNat / 2 ^ 55 = 0 ∧ (s.x 1).getLsbD 1 = false ∧ (s.x 1).getLsbD 0 = true ∧ released s.me ∧
      s.regionOf (slotCore s.cur) = some (0, region0) ∧ region0.records = [0x1000, 0x1040]) ∧
    (one {}).regionOf 0 = none := by
  refine ⟨by decide, by decide, ⟨by decide, by decide, by decide, by decide, ⟨rfl, rfl⟩, by decide +kernel, by decide⟩, by decide +kernel⟩

/-- A bound and an unbound ember, neither with anything outstanding. -/
theorem witness_suspend :
    (let v := (one {}).me
     v.level = .user ∧ v.stores = 0 ∧ v.copies = 0 ∧ v.tiles = 0 ∧ v.vbuf = [] ∧ v.imp = none ∧ v.pend = [] ∧ v.bound = false ∧
      plainEnd v ∧ v.park = none ∧ v.outs = []) ∧
    (one { accHeld := true }).me.bound = true ∧ (one { accHeld := true }).me.park = none ∧ ((one {}).core 0).bells.length < 32 :=
  ⟨⟨rfl, rfl, rfl, rfl, rfl, rfl, rfl, rfl, ⟨rfl, rfl, rfl⟩, rfl, rfl⟩, rfl, rfl, by decide⟩

/-- The addresses of slices: of another owner, of the own core, and of the next core of the region; a bound and a full ember. -/
theorem witness_roam :
    (let s := inRegion { x := regs (storeAddrAt 1 0) (own 0) }
     s.access s.cur .roam (s.x 1) 1 = .ok (sliceKey 1) none ∧ inStore (s.x 1) = true ∧ s.ownerOk (sliceKey 1) s.me.owner false = true ∧
      s.me.bound = false ∧ s.me.livemap.toNat ≠ fullMap ∧ keyCore (sliceKey 1) ≠ slotCore s.cur ∧
      (s.core (keyCore (sliceKey 1))).region = (s.core (slotCore s.cur)).region ∧ (s.core (slotCore s.cur)).region ≠ none ∧ s.me.outs = [] ∧
      s.access s.cur .roam (s.x 2) 1 = .ok (sliceKey 0) none ∧ keyCore (sliceKey 0) = slotCore s.cur) ∧
    (let s := inRegion { x := regs (storeAddrAt 1 0) 0, owner := 1 }
     s.access s.cur .roam (s.x 1) 1 = .ok (sliceKey 1) none ∧ inStore (s.x 1) = true ∧ s.ownerOk (sliceKey 1) s.me.owner false = false) ∧
    (one { livemap := 0xFFFFFFFFF }).me.livemap.toNat = fullMap := by decide +kernel

/-- Words that have arrived: well-formed, and with the target class 3; a pool that is empty, and one that is not. -/
theorem witness_work :
    (let s := inRegion { x := regs 0 0x200010007, block := some [0x100, 1, 2, 3, 4] }
     s.me.level = .user ∧ released s.me ∧ s.me.park = none ∧ hasWords s (s.x 1) 5 [0x100, 1, 2, 3, 4] ∧
      (s.x 2).toNat / 2 ^ 34 = 0 ∧ bits (s.x 2).toNat 8 8 = 0 ∧ bits (s.x 2).toNat 32 2 = 2 ∧ bits (s.x 2).toNat 16 16 < 2 ∧
      ((0x100 : Word)).toNat % 4 = 0 ∧ s.me.outs = [] ∧ (s.cluster (coreCluster 0)).poolEmpty = false ∧ ∀ p ∈ s.fields, p.2.fenced = false) ∧
    bits (0x300000007 : Word).toNat 32 2 = 3 ∧
    (let s : State := { slots := [(0, {})], clusters := [(0, { poolEmpty := true })] }
     (s.cluster (coreCluster 0)).poolEmpty = true) := by
  refine ⟨⟨rfl, ⟨rfl, rfl⟩, rfl, .inl rfl, ?_⟩, ?_⟩ <;> decide +kernel

theorem filter_all (n : Nat) : ((List.replicate n (⟨1, 0, 0, 0, 0⟩ : Deadline)).filter fun d => d.ember != 0).length = n := by
  simp

/-- A field whose counters are all taken, and one without a deadline. -/
theorem witness_deadlines :
    (16384 ≤ (((({ fields := [(0, { deadlines := List.replicate 16384 ⟨1, 0, 0, 0, 0⟩ })] } : State).field 0).deadlines).filter
      fun d => d.ember != 0).length) ∧ ((((one {}).field 0).deadlines).filter fun d => d.ember != 0).length < 16384 :=
  ⟨(filter_all 16384).ge, by decide⟩

/-- A descriptor of an enabled core of the owner, one of a core that is absent, and one of another owner's core. -/
theorem witness_messages :
    (let s := inRegion { x := regs (BitVec.ofNat 64 (coreX 1 * 2 ^ 47 + coreY 1 * 2 ^ 39 + 7 * 2 ^ 36)) 5 }
     s.me.rowsQueued = false ∧ s.me.level = .user ∧ s.me.stores < 63 ∧ (match s.sendCheck s.me.owner (s.x 1) with | .ok c => c == 1 | _ => false) = true ∧
      (match s.sendCheck 9 (s.x 1) with | .error c => c == 0x10 | _ => false) = true ∧
      (match s.sendCheck 0 (BitVec.allOnes 64) with | .error c => c == 0x13 | _ => false) = true) := by decide +kernel

theorem witness_receive :
    (let s : State := { slots := [(0, { ember := 5 })], cores := [(0, { rq := [(0, { hw := [⟨0, 0, false, 7, 6⟩, ⟨0, 0, false, 8, 5⟩] })] })] }
     (s.queue 0 0).take s.me.ember = some (⟨0, 0, false, 8, 5⟩, { hw := [⟨0, 0, false, 7, 6⟩] })) ∧
    ((one {}).queue 0 0).take 5 = none := by decide +kernel

/-- An ember at the head of a core's queue, in a vacant slot; restored into a slot; leaving; moving; restarted. The record
of ember 65 stands at 0x1040 on a page that a page table maps. -/
def tables (word1 : BitVec 8) : State :=
  { asids := [(0, 1)], mem := [(0, 1), (1, 0x20), (0x2000, 1), (0x2001, 0x40), (0x4000, 0x17), (0x4003, 4), (0x400104F, word1)] }

theorem witness_embers :
    (let s : State := { cores := [(0, { ready := [(65, 0)] })] }
     let w := s.hwRead (s.emberAsid 65) (BitVec.ofNat 64 (64 * 65 + 8)) 8
     (s.slot 0).mode = .vacant ∧ s.module.boot.enabled 0 = true ∧ (s.slot 0).vacated ≠ some s.now ∧ s.frozenAt (coreField 0) = false ∧ (s.core 0).ready = (65, 0) :: [] ∧
      (s.cluster (coreCluster 0)).ready = [] ∧ bits w 58 4 < 9 ∧ w / 2 ^ 62 < 2) ∧
    (let s := one { mode := .active, ember := 65, got := some 0 }
     let v := s.slot 0
     v.mode = .active ∧ v.due = none ∧ v.leaving = false ∧ v.got = some 0 ∧ (s.info v.ember).park = none ∧
      (s.vaKey v.asid.toNat (BitVec.ofNat 64 (64 * v.ember))).any (fun key => (s.badWord key 64).isSome) = false ∧
      s.hwRead v.asid (BitVec.ofNat 64 (64 * v.ember) + 8) 8 / 2 ^ 62 ≠ 1) ∧
    (let s := one { leaving := true, ember := 65, mode := .active }
     let v := s.slot 0
     s.reportComing 0 v.ember = false ∧ v.leaving = true ∧ v.ember ≠ 0 ∧ v.trapNow = none ∧ v.killReq = none ∧ v.outs = [] ∧ v.livemap.toNat ≠ fullMap) ∧
    (let v : Slot := { got := some 55295, ember := 65, mode := .active }
     v.got = some 55295 ∧ v.mode = .active ∧ v.outs = [] ∧ v.bound = false ∧ v.ember ≠ 0 ∧ (55295 : Word).toNat < nCores ∧ ∀ p ∈ (one v).fields, p.2.fenced = false) ∧
    bits ((tables (BitVec.ofNat 8 (4 * stMigrating))).hwRead 0 (BitVec.ofNat 64 (64 * 65 + 8)) 8) 58 4 = stMigrating ∧
    bits ((tables (BitVec.ofNat 8 (4 * stStopped))).hwRead 0 (BitVec.ofNat 64 (64 * 65 + 8)) 8) 58 4 = stStopped ∧
    (tables 0).slotOf 65 = none ∧ (tables 0).emberAsid 65 = 0 := by decide +kernel

theorem witness_dispenser :
    (let s : State := { flights := [(1, { next := .dispenserItemArrival 1 })] }
     s.flight? 1 = some { next := .dispenserItemArrival 1 } ∧ (s.cluster 0).disp.queues = [] ∧ s.ring 0 = [] ∧
      (s.cluster 0).disp.held = []) ∧
    (let w : WorkItem := { stage := 7, entry := 0, target := some 0, args := [] }
     let s : State := { slots := [(0, { mode := .active })], clusters := [(0, { disp := { queues := [⟨7, [w]⟩], waiting := [0] } })] }
     s.frozenAt (clusterField 0) = false ∧ (s.cluster 0).disp.queues = [⟨7, [w]⟩] ∧ s.ring 0 = [] ∧
      (s.cluster 0).disp.held = [] ∧ (s.cluster 0).disp.waiting = [0] ∧ (s.slot 0).mode = .active ∧ ∀ c ∈ w.target, slotCore 0 = c) ∧
    Tab.find? (inRegion {}).regions 0 = some region0 ∧ ∀ cl ∈ region0.clusters, ((inRegion {}).cluster cl).disp = {} ∧ (inRegion {}).ring cl = [] := by decide +kernel

/-- A deadline that has just run out, one that runs, one armed anew since, a frozen field, an ember in a slot and one in none. -/
theorem witness_deadline_expiry :
    (let s (n : Nat) (z : Bool) : State := { now := n, slots := [(0, { ember := 65 })], fields := [(0, { frozen := z, deadlines := [⟨65, 3, 4, 10, 0⟩, ⟨66, 3, 4, 10, 0⟩] })] }
     let d : Deadline := ⟨65, 3, 4, 10, 0⟩
     (s 10 false).deadlineOf 65 = some (0, d) ∧ d.ends = 6 + d.budget ∧ d.ends ≤ (s 10 false).now ∧ ((s 10 false).field 0).frozen = false ∧
      ((s 10 true).field 0).frozen = true ∧ (s 9 false).now < d.ends ∧ d.ends ≠ 7 + d.budget ∧ Tab.find? (s 10 false).regions 0 = none ∧
      (s 10 false).slotOf 65 = some 0 ∧ (s 10 false).deadlineOf 66 = some (0, ⟨66, 3, 4, 10, 0⟩) ∧ (s 10 false).slotOf 66 = none ∧
      (s 10 false).deadlineOf 67 = none) := by decide +kernel

/-- A park that waits and one whose condition is met, of an ember in a slot and of one in none, in a field that works and in a frozen one. -/
theorem witness_park_timeout :
    let p : Park := ⟨.bell, 0, 4, false⟩
    let s (z : Bool) : State := { slots := [(0, { ember := 65, park := some p })], embers := [(66, { park := some p })], fields := [(0, { frozen := z })] }
    (s false).slotOf 65 = some 0 ∧ ((s false).slot 0).park = some p ∧ (s false).slotOf 66 = none ∧ ((s false).info 66).park = some p ∧ p.since = 0 ∧
    p.met = false ∧ ({ p with met := true } : Park).met = true ∧ p.since ≠ 1 ∧ ((s false).field (slotField 0)).frozen = false ∧
    ((s true).field (slotField 0)).frozen = true ∧ coreField ((s false).info 66).core = 0 := by decide +kernel

/-- Fifteen places taken: a message of 8 bytes fits, a row does not; a queue of sixteen places, with a ring. -/
theorem witness_message_events :
    (let s : State := { cores := [(0, { rq := [(0, { hw := List.replicate 15 ⟨0, 0, false, 7, 0⟩ })] })],
                        flights := [(1, { next := .messageArrival 1 }), (2, { next := .messageArrival 2, size := 128 })] }
     let r := s.queue 0 0
     s.flight? 1 = some { next := .messageArrival 1 } ∧ s.flight? 2 = some { next := .messageArrival 2, size := 128 } ∧ r.ring = [] ∧
      r.used + (⟨0, 0, false, 0, 0⟩ : Msg).places ≤ 16 ∧ ¬ r.used + (⟨0, 0, true, 0, 0⟩ : Msg).places ≤ 16 ∧ r.later = []) ∧
    (let r : RQueue := { hw := List.replicate 2 ⟨0, 0, true, 7, 0⟩, ring := [⟨0, 0, false, 7, 0⟩] }
     r.used ≤ 16 ∧ 55295 < nCores) := by decide +kernel

theorem witness_reports :
    442367 < nSlots ∧
    (let v := (one { ember := 65 }).slot 0
     v.ember = 65 ∧ 65 ≠ 0 ∧ v.imp = none ∧ v.ember ≠ 66) ∧
    (one { ember := 65, imp := some (0x10, 8) }).me.imp.isSome ∧
    (let v := (one { mode := .active, imp := some (0x10, 8) }).slot 0
     v.mode = .active ∧ v.level = .user ∧ v.imp = some (0x10, 8)) ∧
    (let v := (one { mode := .active, pend := [(0x0C, 8)] }).slot 0
     v.mode = .active ∧ v.level = .user ∧ v.imp = none ∧ v.pend = (0x0C, 8) :: []) ∧
    (one { mode := .active }).me.pend = [] ∧ (one { mode := .stopped }).me.mode ≠ .active := by decide +kernel

/-- A full word of generation 0 and an empty one; the own slice has no watch entry and no doorbell. -/
theorem witness_versioned : ∃ s : State, s.OwnSlice (vaddr s 1 0) 8 (sliceKey 0) ∧ s.me.level = .user ∧ inTurn s ∧ s.tag (sliceKey 0) = 1#1 ++ 0#3 ∧
    s.OwnSlice (vaddr s 1 1) 8 (sliceKey 0 + 8) ∧ s.tag (sliceKey 0 + 8) ≠ 1#1 ++ 0#3 ∧ (s.home (keyHome (sliceKey 0 + 8))).watch.length < 64 ∧
    (s.home (keyHome (sliceKey 0 + 8))).requests = [] ∧ s.me.bound = false ∧ s.me.park = none ∧ s.me.outs = [] ∧ (s.core (slotCore s.cur)).bells = [] ∧ (∀ h, (s.home h).watch = []) :=
  ⟨{ slots := [(0, { x := regs (own 0) 0 })], tags := [(sliceKey 0 / 8, 8)] }, own_slice_of rfl (by decide +kernel), rfl, ⟨rfl, rfl⟩, by decide +kernel,
    own_slice_of rfl (by decide +kernel), by decide +kernel, by decide, rfl, rfl, rfl, rfl, rfl, fun _ => rfl⟩

/-- A bound ember without a watch entry, and whose record stands nowhere. -/
theorem witness_watch_apart : (one { accHeld := true }).me.bound = true ∧ watchApart (one { accHeld := true }) (sliceKey 0) :=
  ⟨rfl, fun _ _ h => (by cases h), fun r h => by
    have e : (one { accHeld := true }).vaKeyFor false 0 0x8 = none := by decide +kernel
    exact absurd (e.symm.trans h) (by simp)⟩

/-- A reclaim of nothing, and one of the last 64 KiB of the slice. -/
theorem witness_reclaim : (one {}).x 2 = 0 ∧ ∃ s : State, s.OwnSlice (s.x 1) 8 (sliceKey 0 + 0x70000) ∧ inTurn s ∧ s.x 2 ≠ 0 ∧
    (s.x 2).toNat % 8 = 0 ∧ (s.x 1).toNat / 2 ^ 16 = ((s.x 1).toNat + (s.x 2).toNat - 1) / 2 ^ 16 :=
  ⟨rfl, one { x := regs (own 0x70000) 0x10000 }, own_slice_of rfl (by decide +kernel), ⟨rfl, rfl⟩, by decide +kernel⟩

theorem witness_far_versioned : ∃ (s : State) (tl : Option TlbEntry), s.me.rowsQueued = false ∧ s.ownSlice 8 = false ∧ s.me.level = .user ∧
    s.access s.cur .versionedLoad (vaddr s 1 0) 8 = .ok 8 tl ∧ s.access s.cur .both (vaddr s 1 0) 8 = .ok 8 tl ∧
    s.access s.cur .versionedStore (vaddr s 1 0) 8 = .ok 8 tl ∧ s.access s.cur .both (s.x 1) 4 = .ok 8 tl ∧
    s.access s.cur .versionedLoad (s.x 1) 8 = .ok 8 tl ∧ s.access s.cur .versionedStore (s.x 1) 8 = .ok 8 tl ∧
    s.me.outs = [] ∧ s.me.loads = 0 ∧ s.storesHeld s.cur = false ∧ s.me.stores < 63 ∧ s.x 2 ≠ 0 ∧ (s.x 1).toNat % 8 = 0 ∧ (s.x 2).toNat % 8 = 0 ∧
    (s.x 1).toNat / 2 ^ 16 = ((s.x 1).toNat + (s.x 2).toNat - 1) / 2 ^ 16 :=
  ⟨paged 0x17 { x := regs 8 8 }, some (leafAt0 0x17), by decide +kernel⟩

theorem witness_versioned_home :
    (let f : Flight := { next := .versionedLoadAtHome 1, key := 8, op := 7, ember := 65 }
     let s (v : Slot) (h : Home) (t : Tab (BitVec 4)) : State := { slots := [(0, v)], homes := [(1, h)], flights := [(1, f)], tags := t }
     let full := s {} {} [(1, 15)]
     let here := s { ember := 65 } {} []
     let w : Watch := ⟨16, 0, false, 66, 1, 3, true, 0, none⟩
     let many := s { ember := 65 } { watch := List.replicate 64 w } []
     let held := s { ember := 65 } { watch := List.replicate 64 w, requests := [1] } []
     full.flight? 1 = some f ∧ f.next = .versionedLoadAtHome 1 ∧ full.waitsZero f = false ∧ full.storageFault f f.key 8 = none ∧
      (full.tag f.key).toNat = 8 + f.op ∧ (full.slot f.slot).ember ≠ f.ember ∧ (s {} { zeroing := [0] } []).waitsZero f = true ∧
      (here.tag f.key).toNat ≠ 8 + f.op ∧ (here.slot f.slot).ember = f.ember ∧ (here.slot f.slot).park = none ∧ here.watchRoom 1 1 = true ∧
      keyHome f.key = 1 ∧ many.watchRoom 1 1 = false ∧ 1 ∉ (many.home 1).requests ∧ (many.slot f.slot).stopReq = false ∧
      held.watchRoom 1 1 = false ∧ 1 ∈ (held.home 1).requests ∧
      (s {} { bankOwner := [(0, 9)] } []).storageFault f f.key 8 = some 0x10 ∧ ({ here with bad := [0] } : State).storageFault f f.key 8 = some 0x0F) ∧
    (let f : Flight := { next := .atomicAtHome 1, key := 8 }
     let s : State := { flights := [(1, f)] }
     s.waitsZero f = false ∧ s.ownerOk f.key f.owner false = true ∧ s.partBad f.key 8 = false ∧ (s.core (keyCore f.key)).bells = [] ∧
      s.storageFault f f.key f.size = none ∧ f.size = 8 ∧ ({ s with bad := [0] } : State).partBad f.key 8 = true ∧
      ({ s with bad := [0] } : State).storageFault f f.key 4 = some 0x0F ∧ s.ownerOk f.key 9 false = false ∧
      ({ s with homes := [(1, { zeroing := [0] })] } : State).waitsZero f = true) ∧
    ∀ h, (({} : State).home h).watch = [] := ⟨by decide +kernel, by decide +kernel, fun _ => rfl⟩

/-- An append to an open page, to one that its leaf says is sealed, and by a slot that holds its window. -/
theorem witness_append :
    (let s := paged 0x37 { x := regs 0 5, accHeld := true }
     s.me.rowsQueued = false ∧ s.access s.cur .append (s.x 1) 1 = .ok 0 (some (leafAt0 0x37)) ∧ leafSealed (leafAt0 0x37).leaf = false ∧
      s.me.loadIds = [] ∧ s.storesHeld s.cur = false ∧ s.me.accHeld = true ∧ s.me.vbuf = [] ∧ s.me.rowPend = []) ∧
    (let s := paged 0xB7 {}
     s.access s.cur .append (s.x 1) 1 = .ok 0 (some (leafAt0 0xB7)) ∧ leafSealed (leafAt0 0xB7).leaf = true) := by decide +kernel

/-- An append that just fits, one that does not, one to a closed entry, one into an uncorrectable unit, and one written in part. -/
theorem witness_append_home :
    (let e : AppendEntry := { big := false, tail := 0xFFF8, closed := false }
     let f : Flight := { next := .appendAtHome 1, ember := 65 }
     let s : State := { slots := [(0, { ember := 65 })], flights := [(1, f)], homes := [(1, { appends := [(0, e)] })] }
     s.flight? 1 = some f ∧ s.zeroing f.key = false ∧ s.ownerOk f.key f.owner false = true ∧ (s.slot f.slot).ember = f.ember ∧ f.part = 0 ∧
      Tab.find? (s.home (keyHome f.key)).appends f.key = some e ∧ e.tail + f.size = 2 ^ 16 ∧ ¬ (e.tail + 8) + f.size ≤ 2 ^ 16 ∧
      ({ e with closed := true } : AppendEntry).closed = true ∧ s.writeFault f.owner (f.key + e.tail) f.size = 0 ∧
      ({ s with bad := [0xFFC0] } : State).writeFault f.owner (f.key + e.tail) f.size = 0x0F ∧ ({ f with part := 8, size := 16 } : Flight).part ≠ 0) := by
  decide +kernel

theorem witness_seal :
    (let s := paged 0x37 {}
     s.me.rowsQueued = false ∧ translated (s.x 1) = true ∧ (s.asidRoot s.me.asid.toNat s.me.owner).isSome ∧ s.me.got ≠ some 1) ∧
    (let w : WalkAnswer := ⟨0, 0, some (leafAt0 0x37), 0⟩
     let s := paged 0x37 { got := some 1, walk := some w }
     s.me.got = some 1 ∧ s.me.walk = some w ∧ w.entry = some (leafAt0 0x37) ∧ (leafAt0 0x37).hits s.me.asid.toNat (s.x 1) = true ∧
      s.leafFault .seal (s.me.level == .user) (leafAt0 0x37).leaf = none ∧ s.me.outs = []) := by decide +kernel

/-- The last field and the first value past it; a sealable page; a pool frame for a sealed one; a copy not yet done. -/
theorem witness_replicas :
    (let s := paged 0xB3 { x := regs 0 53 }
     (s.x 2).toNat / 64 = 0 ∧ s.me.rowsQueued = false ∧ s.access s.cur .load (s.x 1) 1 = .ok 0 (some (leafAt0 0xB3)) ∧
      leafClass (leafAt0 0xB3).leaf = 1 ∧ (s.x 2).toNat < nFields) ∧
    ((54 : Word).toNat / 64 = 0 ∧ nFields ≤ (54 : Word).toNat) ∧ (64 : Word).toNat / 64 ≠ 0 ∧ leafClass 0x13 ≠ 1 ∧
    (let e : AppendEntry := { big := false, tail := 8, closed := true }
     let s : State := { homes := [(1, { appends := [(0, e)] })], fields := [(53, { pool := [(0, false, 0x10000)] })] }
     (s.field 53).pool = (0, false, 0x10000) :: [] ∧ (0 : BitVec 8) = Tab.get (s.home (keyHome 0)).bankOwner (keyBank 0) 0 ∧
      Tab.find? (s.home (keyHome 0)).appends 0 = some e ∧ e.closed = true ∧ false = e.big ∧ (s.field 53).replicas = [] ∧ 53 < nFields) ∧
    (let r (done drop : Bool) : Replica := ⟨0, 0x10000, false, 0, done, 0, drop⟩
     let s (r : Replica) : State := { fields := [(0, { replicas := [r] })], flights := [(1, { next := .farLoadAtHome 1, key := 0x1FFFF, served := true })] }
     let reading (s : State) (r : Replica) : Bool := s.flights.any fun p => p.2.served && decide (r.copy ≤ p.2.key ∧ p.2.key < r.copy + 2 ^ 16)
     ((s (r false false)).field 0).replicas = [r false false] ∧ (r false false).frame = 0 ∧ (r true false).done = true ∧ (r false true).drop = true ∧
      (s (r false false)).erased 0 = false ∧ ({ s (r false false) with module := { alarm := 2 } } : State).erased 0 = true ∧
      reading (s (r true false)) (r true false) = true ∧ reading { s (r true false) with flights := [] } (r true false) = false ∧
      Memory.wf (s (r false false)).mem = true) := by decide +kernel

theorem witness_system :
    (let v := (one { level := .supervisor }).me
     v.level = .supervisor ∧ v.stores = 0 ∧ v.got ≠ some 1) ∧ bits (0x3FFF : Word).toNat 14 2 = 0 ∧ (one {}).flights = [] ∧ (∀ p ∈ (one {}).slots, p.2.vbuf = []) ∧
    (0 : BitVec 6) = 0 ∧ (63 : BitVec 6) ≠ 0 ∧ ((one {}).core 0).sigEn = false ∧ (one {}).me.sig = none ∧
    (({ slots := [(0, {})], cores := [(0, { sigEn := true })] } : State).core 0).sigEn = true := by decide +kernel

/-- Walks that end in a big leaf, at an empty entry, at an uncorrectable node and at one that is being zeroed; a cached leaf. -/
theorem witness_walks :
    (let s := { tables 0 with slots := [(0, { walking := some 0x1000 })] }
     (s.slot 0).walking = some 0x1000 ∧ (s.slot 0).got ≠ some 1 ∧ s.lowerTlb 0 0 0x1000 = none ∧ s.asidRoot 0 (s.slot 0).owner = some 0 ∧
      s.walk 0 0 0x1000 = .leaf { asid := 0, page := 0, big := true, leaf := 0x4000017, at_ := 0x4000 } ∧
      s.walk 0 0 0x4000000 = .fault 4 0x4008 ∧ ({ s with bad := [0x2000] } : State).walk 0 0 0x1000 = .bad 0x2000 2 ∧
      ({ s with homes := [(1, { zeroing := [0] })] } : State).walk 0 0 0x1000 = .busy 0) ∧
    (let s : State := { slots := [(0, { walking := some 8 })], clusters := [(0, { l2 := [leafAt0 0x17] })] }
     (s.slot 0).walking = some 8 ∧ s.lowerTlb 0 0 8 = some (leafAt0 0x17)) := by decide +kernel

theorem witness_watch :
    (let s : State := { slots := [(442367, { mode := .active, due := some 0, pc := 4 })], cores := [(55295, { bpa := [(0, 4)], bpc := [(0, 0x8000000000180000)] })] }
     442367 < nSlots ∧ (s.slot 442367).mode = .active ∧ s.breakpointHit 442367 = true) ∧
    (let s : State := { now := 1, cores := [(0, { counting := true, pcrotEn := true })] }
     (s.core 0).counting = true ∧ ((List.range 8).map (8 * 0 + ·)).find? (fun k => decide (s.nextIssue k (s.now - 1) = s.now - 1)) = some 0) ∧
    (let s : State := { now := 65536, cores := [(0, { pcrotEn := true })] }
     (s.core 0).pcrotEn = true ∧ (s.core 0).rotation ≠ s.now ∧ s.rotationAt 0 s.now = s.now) := by decide +kernel

theorem witness_tabled_calls :
    (one {}).me.level = .user ∧ (0x80000000000000 : Word).toNat / 2 ^ 55 ≠ 0 ∧ ((2 : Word).toNat / 2 ^ 55 = 0 ∧ (2 : Word).toNat % 4 ≠ 0) ∧
    calleeOk 0x7FFFFFFFFFFFFC ∧ Tab.find? (one {}).groups (one {}).me.tgroup.toNat = none ∧
    (let s := { inRegion { tgroup := 65535 } with groups := [(65535, { owner := 0, region := 0 })] }
     Tab.find? s.groups s.me.tgroup.toNat = some { owner := 0, region := 0 } ∧ (0 : BitVec 8) = s.me.owner ∧
      callHome s 0x7FFFFFFFFFFFFC 4 { owner := 0, region := 0 } = some 0) ∧
    (1 : BitVec 8) ≠ (one {}).me.owner := by
  refine ⟨by decide, by decide, by decide, ⟨by decide, by decide⟩, ?_⟩
  decide +kernel

/-- A handle of the last field's slices, and one that names no field; the owner's slice and another's. -/
theorem witness_publications :
    (one {}).me.level = .user ∧ ((2 : Word) &&& ~~~ 1).getLsbD 1 = true ∧ ((5 : Word) &&& ~~~ 1).getLsbD 1 = false ∧
    handleCluster (BitVec.ofNat 64 (53 * 2 ^ 42)) = some 6784 ∧ handleCluster (BitVec.ofNat 64 (54 * 2 ^ 42)) = none ∧
    ((one {}).cluster 6784).answers.owner = (one {}).me.owner ∧ ((one { owner := 1 }).cluster 6784).answers.owner ≠ (one { owner := 1 }).me.owner ∧
    released (one {}).me := by
  refine ⟨?_, ?_, ?_, ?_, ?_, ?_, ?_, ⟨rfl, rfl⟩⟩ <;> decide +kernel

/-- Descriptors: the least size, a reserved word that is not zero, and no table at all. -/
theorem witness_groups :
    (let s := inRegion { x := regs 0 0, block := some [0, 0x10000, 1024, 0] }
     hasWords s (s.x 1) 4 [0, 0x10000, 1024, 0] ∧ (s.x 2).toNat / 65536 = 0 ∧ (0x10000 : Word).toNat % 65536 = 0 ∧ 2 ^ 10 ≤ (1024 : Word).toNat ∧
      2 ^ Nat.log2 (1024 : Word).toNat = (1024 : Word).toNat ∧ Tab.find? s.regions (s.x 2).toNat = some region0 ∧ region0.owner = s.me.owner ∧
      region0.clusters = 0 :: []) ∧
    (1 : Word) ≠ 0 ∧ (0x10000 : Word).toNat / 65536 ≠ 0 ∧
    (let v : Group := { state := .closed, owner := 0, region := 0, complete := true }
     let s := { inRegion { x := regs 65535 0 } with groups := [(65535, v)] }
     s.me.level = .user ∧ (s.x 1).toNat / 65536 = 0 ∧ Tab.find? s.groups (s.x 1).toNat = some v ∧ v.owner = s.me.owner ∧ s.groupHome v = some 0 ∧
      v.state ≠ .sealed ∧ v.complete = true) ∧
    Tab.find? (one {}).groups 0 = none ∧ (1 : BitVec 8) ≠ (one {}).me.owner := by
  refine ⟨⟨.inl rfl, ?_⟩, ?_, ?_, ?_, ?_⟩ <;> decide +kernel

/-- A slice at which a call misses, hits a done entry, and finds a producing one of its own ember. -/
theorem witness_slices :
    (let x : Answer := { group := 7, callee := 4, args := [], state := .producing, producer := 65, serial := 3 }
     let s : State := { flights := [(1, { next := .tcallAtHome 1, key := 7, ember := 65, tval := BitVec.ofNat 64 (7 * 2 ^ 48 + 8191 * 2 ^ 22 + 3) })],
                        groups := [(7, {})], clusters := [(0, { answers := { entries := [(8191, x)] } })], slots := [(0, { ember := 66 })] }
     let f : Flight := { next := .tcallAtHome 1, key := 7, ember := 65, tval := BitVec.ofNat 64 (7 * 2 ^ 48 + 8191 * 2 ^ 22 + 3) }
     let a := (s.cluster 0).answers
     s.flight? 1 = some f ∧ f.next = .tcallAtHome 1 ∧ a.zero = false ∧ a.reading = none ∧ Tab.find? s.groups f.key = some {} ∧ ({} : Group).table = 0 ∧ f.op = 0 ∧
      a.find f.key f.va f.args = none ∧ ({} : Group).state = .opened ∧ a.entries.length < 8192 ∧
      Tab.find? a.entries (bits f.tval.toNat 22 13) = some x ∧ x.state = .producing ∧ x.group = bits f.tval.toNat 48 16 ∧
      x.serial = f.tval.toNat % 65536 ∧ x.producer = f.ember ∧ a.entries = [(8191, x)] ∧ x.kills = 0 ∧ x.consumers = []) ∧
    (let x : Answer := { group := 0, callee := 0, args := [], state := .done, producer := 65, serial := 3 }
     let a : Slice := { entries := [(0, x)] }
     a.find 0 0 [] = some (0, x) ∧ x.state = .done ∧ x.pinned = false ∧ Tab.find? a.entries 0 = some x ∧ x.keyBad = false ∧
      ({ x with state := .producing } : Answer).pinned = true ∧ ({ x with keyBad := true } : Answer).keyBad = true ∧ 8191 < 8192) ∧
    (let f : Flight := { next := .tlookAtHome 1, op := 1 }
     f.next = .tlookAtHome 1 ∧ f.op = 1) ∧
    Tab.find? ({} : Slice).entries 0 = none ∧ ({ group := 0, callee := 0, args := [], state := .producing, producer := 1, kills := 1, serial := 0 } : Answer).kills = 1 := by
  decide +kernel

/-- An answer that stands in the backing table; a consumer's cell. -/
theorem witness_backing :
    (let g : Group := { table := 0x10000, size := 1024 }
     let s : State := { asids := [(0, 1)], groups := [(0, g)], flights := [(1, { next := .backingTableLookup 1 })],
                        mem := [(0, 1), (1, 0x20), (0x2000, 1), (0x2001, 0x40), (0x4000, 0x37), (0x4003, 4), (0x4010007, 0x80)] }
     let e : TlbEntry := { asid := 0, page := 0, big := true, leaf := 0x4000037, at_ := 0x4000 }
     s.flight? 1 = some { next := .backingTableLookup 1 } ∧ Tab.find? s.groups 0 = some g ∧ s.backingKey g (keyHash 0 0 []) false = some (0x4010000, e) ∧
      (answerOf 0 0 [] ((List.range 8).map fun i => BitVec.ofNat 64 (memRead s.mem (0x4010000 + 8 * i) 8)) ((0 + 1) % 65536)).map (·.state) = some .done) ∧
    (let s : State := { slots := [(0, { ember := 65, park := some ⟨.answer 0 0, 0, 9, false⟩ })], clusters := [(0, { answers := { cells := [(65, ⟨1, 0, some (1, 2), 5⟩)] } })] }
     Tab.find? (s.cluster 0).answers.cells 65 = some ⟨1, 0, some (1, 2), 5⟩ ∧ s.slotOf 65 = some 0 ∧
      (s.slot 0).park = some ⟨.answer 0 0, 0, 9, false⟩ ∧ (s.slot 0).leaving = false) := by decide +kernel

theorem witness_tabled_replies : ∀ c ∈ [0, 1, 2, 3, 5, 6, 7, 8],
    let f : Flight := { next := .tcallReply 1, ember := 65, cause := c }
    let s : State := { slots := [(0, { ember := 65 })], flights := [(1, f)] }
    s.flight? 1 = some f ∧ f.ember ≠ 0 ∧ (s.slot f.slot).ember = f.ember ∧ f.cause = c ∧ f.args = [] := by decide +kernel

/-- A group with a free ID below the last, a complete one, and one that may be probed. -/
theorem witness_group_home :
    (let v : Group := { p := 1, producers := [(65, 1, true)], region := 0, complete := true, probe := some ⟨1, true⟩ }
     let f : Flight := { next := .probeAnswer 1, op := 1, aux := 0 }
     let s := { inRegion {} with now := 4096, groups := [(0, v)], flights := [(1, f)] }
     s.flight? 1 = some f ∧ lowestFree s.groups 1 < 65536 ∧ Tab.find? s.groups f.key = some v ∧ Tab.find? s.groups f.aux = some v ∧ v.complete = true ∧
      v.probe = some ⟨1, true⟩ ∧ f.op = 1 ∧ v.p = v.w ∧ v.p ≠ 0 ∧ s.probeAt v ≤ s.now ∧ s.groupHome v = some 0 ∧
      Tab.find? s.regions v.region = some region0) ∧ ({} : Group).probe = none := by decide +kernel

/-- Every lane instruction is legal under some element type and illegal under the reserved type 6; a free window, one
that another slot holds, a full buffer, and an open body with two words to go. -/
theorem witness_lanes :
    (∀ p ∈ laneOps, ((List.range 6).any fun et => p.2.1.legal p.2.2.1 et 0 0 false) = true ∧ p.2.1.legal p.2.2.1 6 0 0 false = false) ∧
    (let s : State := { slots := [(0, {}), (1, { accHeld := true })] }
     s.me.accHeld = false ∧ s.windowTaken s.cur s.me.accWin.toNat = true) ∧
    ((one {}).me.accHeld = false ∧ (one {}).windowTaken 0 0 = false ∧ (one {}).me.vbuf.length < 16 ∧ (one {}).me.inBody = false) ∧
    (let v : Slot := { accHeld := true, vbuf := List.replicate 15 { op := .add } }
     v.accHeld = true ∧ v.vbuf.length < 16 ∧ v.inBody = false) ∧
    (let v : Slot := { accHeld := true, vbuf := List.replicate 16 { op := .add } }
     16 ≤ v.vbuf.length) ∧
    (let r : Repeat := { left := 2, size := 2, count := 5, stride := 0, mask := 0, round := 0, place := 0 }
     let v : Slot := { accHeld := true, rep := some r }
     v.accHeld = true ∧ v.vbuf.length < 16 ∧ v.rep = some r ∧ 1 < r.left) := by decide +kernel

theorem witness_vector_ops :
    VOp.cvt.legal .unary 0 0 1 false = true ∧ VOp.cvt.legal .unary 7 0 1 false = false ∧
    (∀ p ∈ reductionOps, p.2.1.legal .unary (if p.2.2 then 0 else 3) 0 0 p.2.2 = true ∧ p.2.1.legal .unary (if p.2.2 then 3 else 0) 0 0 p.2.2 = false) ∧
    6 ≤ (one { vtype := 6 }).me.vtype.toNat % 8 ∧ 2 ^ 16 ≤ (0x10000 : Word).toNat ∧ (one { vtype := 5 }).me.vtype.toNat % 8 < 6 ∧
    (0xFFFF : Word).toNat < 2 ^ 16 ∧ (one {}).me.rep = none := by decide +kernel

/-- The last row of the own slice, a row of another owner, a block of the own planes, and a message to take. -/
theorem witness_rows :
    (let s := one { x := regs (own 0x7FF80) 0x70000000000000, accHeld := true }
     s.me.accHeld = true ∧ s.me.vbuf.length < 16 ∧ s.me.inBody = false ∧ s.access s.cur .load (s.x 1) 128 = .ok (sliceKey 0 + 0x7FF80) none ∧
      s.ownerOk (sliceKey 0 + 0x7FF80) s.me.owner (readOnly none) = true ∧ s.badWord (sliceKey 0 + 0x7FF80) 128 = none ∧
      s.access s.cur .store (s.x 1) 128 = .ok (sliceKey 0 + 0x7FF80) none ∧ inStore (s.x 1) = true ∧ (s.x 1).toNat % 4 = 0 ∧
      s.storeKey (s.x 1) = some (sliceKey 0 + 0x7FF80) ∧ s.me.vtype.toNat % 8 = 0 ∧ s.me.frm.toNat < 5 ∧
      (match s.plane s.cur (s.x 2) with | .ok (m, km, ke) => m == 8 && km == sliceKey 0 && ke == sliceKey 0 | _ => false) = true) ∧
    (one { owner := 1 }).ownerOk (sliceKey 0) 1 (readOnly none) = false := by decide +kernel

theorem witness_window : ∃ s : State, s.me.level = .supervisor ∧ s.OwnSlice (s.x 1) 4096 (sliceKey 0 + 0x7F000) ∧ s.me.windowIdle = true ∧
    s.me.loadIds = [] ∧ s.windowTaken s.cur s.me.accWin.toNat = false :=
  ⟨one { level := .supervisor, x := regs (own 0x7F000) 0 }, rfl, own_slice_of rfl (by decide +kernel), rfl, rfl, by decide +kernel⟩

theorem witness_window_taken : ∃ s : State, s.me.level = .supervisor ∧ s.OwnSlice (s.x 1) 4096 (sliceKey 0) ∧ s.me.windowIdle = true ∧
    s.windowTaken s.cur s.me.accWin.toNat = true :=
  ⟨{ slots := [(0, { level := .supervisor, x := regs (own 0) 0 }), (1, { accHeld := true })] }, rfl, own_slice_of rfl (by decide +kernel), rfl,
    by decide +kernel⟩

/-- The least and the greatest integer type, and an entry at the clk from which it may execute. -/
theorem witness_integer_lanes :
    let e : VEntry := { op := .add, form := .vv, vd := 3, vs1 := 1, vs2 := 2, vtype := 3, at_ := 0 }
    let s : State := { now := 8, slots := [(0, { vbuf := [e] })] }
    0 < nSlots ∧ (s.slot 0).vbuf = [e] ∧ (s.slot 0).rep = none ∧ e.form = .vv ∧ s.entryClk 0 e ≤ s.now ∧ s.rowsWait 0 e = false ∧
    3 ≤ e.et ∧ e.et ≤ 5 ∧ ({ e with vtype := 5 }).et = 5 := by decide +kernel

theorem witness_float_lanes :
    let e : VEntry := { op := .fma, form := .vv, vd := 3, vs1 := 1, vs2 := 2, vtype := 2, at_ := 0 }
    let s : State := { now := 8, slots := [(0, { vbuf := [e] })] }
    0 < nSlots ∧ (s.slot 0).vbuf = [e] ∧ (s.slot 0).rep = none ∧ e.form = .vv ∧ s.entryClk 0 e ≤ s.now ∧ s.rowsWait 0 e = false ∧
    (etFmt e.et).isSome ∧ etFmt 0 = some fp32 := by decide +kernel

/-- Operands in the own planes, one out of the planes, one of another owner; a latch of the same n; a table image. -/
theorem witness_matrix :
    (let d := descOf 0x70000040000000
     let s : State := { slots := [(0, { accHeld := true })], cores := [(0, { latches := [(0, { m := 8, n := 1 })] })] }
     let b := rowsB ((s.cluster 0).table 0)
     d.illegal = false ∧ s.descTrap d 16 = none ∧ s.descTrap d b = none ∧ s.me.accHeld = true ∧ s.latch s.cur = some { m := 8, n := 1 } ∧
      ({ m := 8, n := 1 } : Rows).n = d.n ∧ s.me.vbuf.length < 16 ∧ s.me.tiles < 63 ∧ s.me.inBody = false ∧
      s.descTrap (descOf 0x70000040000002) 16 = some (8, 0x03, storeAddrAt 0 2) ∧
      (one { owner := 1 }).descTrap d 16 = some (16, 0x10, storeAddrAt 0 0) ∧ d.n ≠ (descOf 0x870000040000000).n) ∧
    (descOf 0x4070000040000000).illegal = true ∧ (one {}).latch 0 = none ∧ 63 ≤ (one { tiles := 63 }).me.tiles ∧
    (let a := descOf 0x170000040000000
     a.zero = true ∧ a.m ≠ 1 ∧ a.dir = true) ∧
    (let a := descOf 0x70000040000000
     a.zero = true ∧ a.m ≠ 1 ∧ a.dir = false ∧ a.a % 4 = 0 ∧ a.a / 2 ^ 22 = 0 ∧ (one {}).module.boot.enabled (planeCore 0 a.a) = true ∧
      ((List.range 8).any fun c => (one {}).module.boot.enabled c && ((one {}).core c).sliceOwner != (one {}).me.owner) = false ∧
      ((List.range 8).any fun c => (one {}).module.boot.enabled c && ((one { owner := 1 }).core c).sliceOwner != (one { owner := 1 }).me.owner) = true) ∧
    tableOk 0 = true ∧ tableOk 4 = false ∧
    (let s := one { block := some (List.replicate 16 0) }
     s.me.rowsQueued = false ∧ (s.x 1).toNat % 128 = 0 ∧ hasWords s (s.x 1) 16 (List.replicate 16 0)) := by
  refine ⟨?_, ?_, ?_, ?_, ?_, ?_, ?_, ?_, ⟨rfl, rfl, .inl rfl⟩⟩ <;> decide +kernel

/-- An operation that stands in its slot's buffer, in its core's queue, in the unit, and behind it. -/
theorem witness_matrix_events :
    (let e : VEntry := { op := .tile, tile := { kind := .clr }, at_ := 0 }
     let s : State := { now := 8, slots := [(0, { vbuf := [e] })] }
     (s.slot 0).vbuf = [e] ∧ e.op = .tile ∧ s.entryClk 0 e ≤ s.now ∧ (s.core (slotCore 0)).mq.length < 8 ∧ s.rowsWait 0 e = false ∧
      (s.slot 0).outs = []) ∧
    (let x : Tile := { kind := .mma, reading := true, arrived := true }
     let s : State := { cores := [(0, { mq := [x] })] }
     (s.cluster (coreCluster 0)).mx.running = none ∧ (s.core 0).mq = [x] ∧ x.reading = true ∧ x.readEnd ≤ s.now ∧
      (s.cluster 0).mx.given = 0 ∧ (s.core 0).throttle = 0 ∧ x.arrived = true) ∧
    (let x : Tile := { kind := .mma }
     let s : State := { now := 64, clusters := [(0, { mx := { running := some (0, x) } })] }
     (s.cluster 0).mx.running = some (0, x) ∧ (s.cluster 0).mx.busyTo = 0 ∧ (s.cluster 0).mx.grantAt + s.clk (clusterField 0) 64 ≤ s.now ∧ x.arrived = false) ∧
    (let x : Tile := { kind := .clr, half := 1, start := List.replicate 16 0 }
     let s : State := { clusters := [(0, { mx := { pending := [x] } })] }
     (s.cluster 0).mx.pending = [x] ∧ (s.slot x.slot).ember = x.ember ∧ x.half < 2 ∧ x.start.length = 16) := by decide +kernel

/-- The other cores of the cluster have empty queues where only core 0 is listed. -/
theorem witness_matrix_others (x : Tile) (d : Nat) (h : d ≠ 0) : (({ cores := [(0, { mq := [x] })] } : State).core d).mq = [] := by
  simp [State.core, Tab.get, Tab.find?, Ne.symm h]

/-- A block of 128 bytes; one of another kind that must not name rows; one whose length is not a multiple of 8. -/
theorem witness_copies :
    (let ws : List Word := [own 0, own 0x1000, 128, 0, 0, 0, 0, 0]
     let s := one { block := some ws, x := regs 0x40 1 }
     hasWords s (s.x 1) 8 ws ∧ (s.x 1).toNat % 64 = 0 ∧ s.me.rowsQueued = false ∧ (s.x 2).toNat = 1 ∧ s.module.peer = true ∧
      [ws].any (blockIllegal 0) = false ∧ blockMisaligned ws = none ∧ ((s.core 0).cq 1).entries.length + 1 ≤ 16 ∧ s.me.copies + 1 ≤ 63 ∧ s.me.park = none) ∧
    blockIllegal 0 [0, 0, 0x100000080, 0, 0, 0, 0, 0] = true ∧ blockMisaligned [0, 0, 4, 0, 0, 0, 0, 0] = some 2 ∧ 16 < (17 : Word).toNat ∧
    63 < (one { copies := 63 }).me.copies + 1 ∧ ({ module := { peer := false } } : State).module.peer = false ∧ (0xFFFF : Word).toNat / 2 ^ 16 = 0 ∧
    (0x10000 : Word).toNat / 2 ^ 16 ≠ 0 := by
  refine ⟨⟨.inl rfl, ?_⟩, ?_⟩ <;> decide +kernel

theorem witness_quiet : queuesEmpty (one {}) 0 ∧ quiet (one {}) 0 := by
  refine ⟨fun c q _ => by cases q <;> rfl, fun _ => rfl, rfl, fun k => ?_⟩
  cases k <;> rfl

/-- A command at its first chunk of two. -/
def copying (kind : Nat) : CopyEntry :=
  { kind := .command ⟨kind, own 0, own 0x1000, 0, 256, 0, 0⟩, num := 1, slot := 0, ember := 65, asid := 0, owner := 0, started := true }
def copyState (e : CopyEntry) : State := { nextId := 2, cores := [(0, { cq0 := { entries := [e], issued := 1 } })] }

theorem in_chunk (k : Nat) (hk : k ≠ 1) (e : CopyEntry) (h : e.kind = .command ⟨k, own 0, own 0x1000, 0, 256, 0, 0⟩)
    (hc : e.cut = false ∧ e.off = 0 ∧ e.row = 0) (hs : e.started = true) : inChunk (copyState e) 0 0 e [] := by
  refine ⟨by decide, by decide, rfl, hs, rfl, fun d p _ h => ?_, hc.1, _, h, by rw [hc.2.1]; exact (by decide : 0 + 128 < 256), by simp [hc.2.2, hk]⟩
  by_cases hd : d = 0
  · subst hd
    cases p with
    | zero => simp at h
    | succ p => rfl
  · simp [copyState, State.core, Tab.get, Tab.find?, Ne.symm hd, Core.cq]

/-- A started copy over storage of its owner, and one with a part of its chunk still to write. -/
theorem witness_chunk :
    (let e := copying 0
     let s := copyState e
     inChunk s 0 0 e [] ∧ e.waiting = false ∧ e.todo = [] ∧ e.started = true ∧ e.cmd.kind ≤ 1 ∧ (s.cluster (coreCluster 0)).engMeter.rate = 0 ∧
      engineLine s e.owner e.chunk.1 (sliceKey 0) ∧ engineLine s e.owner e.chunk.2.1 (sliceKey 0 + 0x1000)) ∧
    (let e : CopyEntry := { copying 0 with todo := [(sliceKey 0, 7)] }
     inChunk (copyState e) 0 0 e [] ∧ e.waiting = false ∧ e.todo = (List.range 1).map (fun i => (sliceKey 0 + 8 * i, (fun _ => 7) i)) ∧
      e.busy = true ∧ e ∈ (((copyState e).core 0).cq 0).entries) ∧
    (∀ e ∈ (((copyState (copying 0)).core 0).cq 0).entries, e.busy = false) :=
  ⟨⟨in_chunk 0 (by decide) _ rfl ⟨rfl, rfl, rfl⟩ rfl, rfl, rfl, rfl, by decide, rfl, by unfold engineLine; decide +kernel, by unfold engineLine; decide +kernel⟩,
   ⟨in_chunk 0 (by decide) _ rfl ⟨rfl, rfl, rfl⟩ rfl, rfl, rfl, rfl, .head _⟩, by decide +kernel⟩

/-- An import entry that admits a chunk into DRAM; commands that await an acknowledgement: of a put, of the one frame of a get, and of the
first of two. -/
theorem witness_peer :
    (let s : State := { module := { pimp := [(1023, 0x8000000100000000)] } }
     s.module.peer = true ∧ (∃ p ∈ s.module.pimp, p.2.toNat / 2 ^ 63 = 1 ∧ bits p.2.toNat 32 16 = 1 ∧ bits p.2.toNat 8 8 = 0 ∧ bits p.2.toNat 0 8 = 0) ∧
      s.hasStorage 0x80 = true ∧ s.hasStorage (0x80 + 128 - 1) = true ∧
      (∀ n < 128 / 8, s.ownerOk (0x80 + 8 * n) 0 false = true ∧ s.zeroing (0x80 + 8 * n) = false ∧ s.badWord (0x80 + 8 * n) 8 = none) ∧
      s.badWord 0x80 128 = none ∧ ¬ ∃ p ∈ s.module.pimp, bits p.2.toNat 32 16 = 2) ∧
    (let e : CopyEntry := { copying 3 with waiting := true, frames := 1 }
     let f : Flight := { next := .peerAckTimeout 1, aux := 1, isF := true }
     let g : Flight := { next := .peerAckTimeout 1, aux := 1, va := own 0x1000, size := 128 }
     let s (f : Flight) : State := { copyState e with flights := [(1, f)] }
     awaits (s f) 1 f e ∧ inChunk (s f) 0 0 e [] ∧ awaits (s g) 1 g e ∧ inChunk (s g) 0 0 e [] ∧ f.op < 2 ∧ f.src = 0 ∧ f.isF = true ∧ g.isF = false ∧
      e.frames ≤ 1 ∧ e.todo = [] ∧ e.parts = [] ∧ g.va = e.chunk.2.1 ∧ engineLine (s g) e.owner g.va (sliceKey 0 + 0x1000) ∧
      1 < ({ e with frames := 2 } : CopyEntry).frames) := by
  refine ⟨by decide +kernel, ⟨rfl, by decide, ⟨[], rfl⟩, rfl, rfl, _, rfl⟩, in_chunk 3 (by decide) _ rfl ⟨rfl, rfl, rfl⟩ rfl, ⟨rfl, by decide, ⟨[], rfl⟩, rfl, rfl, _, rfl⟩,
    in_chunk 3 (by decide) _ rfl ⟨rfl, rfl, rfl⟩ rfl, by decide, rfl, rfl, rfl, by decide, rfl, rfl, rfl, ?_, by decide⟩
  unfold engineLine
  decide +kernel

/-- A barrier in context 7 in the current round, one that is passed, and malformed descriptors; a slot with a store out. -/
theorem witness_barriers :
    (one {}).me.level = .user ∧ bits (7 : Word).toNat 48 16 = 0 ∧ bits (7 : Word).toNat 3 29 = 0 ∧ bits (8 : Word).toNat 3 29 ≠ 0 ∧
    bits (0x1000000000000 : Word).toNat 48 16 ≠ 0 ∧ released (one {}).me ∧ ¬ released (one { outs := [⟨1, true, 0, none, false, none⟩] }).me ∧
    passed 1 7 = true ∧ ¬ passed 0 7 = true ∧ passed 32768 7 = true ∧ ¬ passed 32769 7 = true ∧
    (let s := inRegion {}
     (Tab.get (s.core 0).bround 7 0).toNat = bits (7 : Word).toNat 32 16 ∧ Tab.find? (s.core 0).arr 7 = none ∧ s.regionOf 0 = some (0, region0)) ∧
    Tab.find? ({ arr := [(7, 0)] } : Core).arr 7 ≠ none := by
  refine ⟨rfl, by decide, by decide, by decide, by decide, ⟨rfl, rfl⟩, fun h => ?_, ?_⟩
  · exact absurd h.2 (by decide)
  · decide +kernel

/-- A reduction of two ranks, and of three in a region of two cores; a broadcast from the last rank. -/
theorem witness_collectives :
    (let s := inRegion { x := regs 0x2000000008000 5 }
     s.me.level = .user ∧ bits (s.x 1).toNat 48 16 = 2 ∧ s.liveCount 0 0 0 = 2 ∧ bits (s.x 1).toNat 3 9 = 0 ∧ bits (s.x 1).toNat 16 16 = 0 ∧
      bits (s.x 1).toNat 12 4 = 8 ∧ released s.me ∧ ¬ passed (Tab.get (s.core 0).cround 0 0) (s.x 1) = true ∧ s.regionOf 0 = some (0, region0) ∧
      (Tab.get (s.core 0).cround 0 0).toNat = bits (s.x 1).toNat 32 16 ∧ Tab.find? (s.core 0).contrib 0 ≠ some (bits (s.x 1).toNat 32 16)) ∧
    bits (0x3000000000000 : Word).toNat 48 16 = 3 ∧ bits (0x2000000009000 : Word).toNat 12 4 = 9 ∧ bits (0x2000000010000 : Word).toNat 16 16 = 1 ∧
    passed 1 0x2000000008000 = true := by
  refine ⟨⟨by decide +kernel, by decide +kernel, by decide +kernel, by decide +kernel, by decide +kernel, by decide +kernel, ⟨rfl, rfl⟩, ?_⟩, ?_⟩ <;>
    decide +kernel

/-- A field all of whose cores have arrived 8 clk ago; one that has told the root; a round that is whole; a slot that waits. -/
theorem witness_barrier_events :
    (let s : State := { now := 8, regions := [(0, region0)], cores := [(0, { region := some 0, arr := [(7, 0)] }), (1, { region := some 0, mask := some 0 })] }
     let b : BarCtx := Tab.get region0.bar 7 {}
     Tab.find? s.regions 0 = some region0 ∧ Tab.find? b.sent 0 = none ∧ s.fieldArrived region0 b 7 0 = true ∧ region0.cores.Nodup ∧
      (s.core 0).mask = none ∧ (s.core 0).region = some 0) ∧
    (let g := { region0 with bar := [(7, { sent := [(0, 8)] })] }
     let b : BarCtx := Tab.get g.bar 7 {}
     Tab.find? b.sent 0 = some 8 ∧ 0 ∉ b.fields ∧ ∀ x ∈ g.fields, x ∈ b.fields ++ [0]) ∧
    (let g := { region0 with bar := [(7, { fields := [0] })] }
     ∀ x ∈ g.fields, x ∈ (Tab.get g.bar 7 {} : BarCtx).fields) ∧
    (let s := one { mode := .active, park := some ⟨.round 7, 0, 9, false⟩ }
     slotCore 0 = 0 ∧ s.roundWait 0 true = some 7 ∧ (7 : Word).toNat % 8 = 7 ∧ passed (Tab.get (s.core 0).bround 7 0 + 1) 7 = true) := by decide +kernel

/-- Both contributions of a sum are there and the last partial arrives; a result reaches a waiting slot. -/
theorem witness_collective_events :
    (let x : CollCtx := { contribs := [(0, 1, 0x2000000001000), (1, 2, 0x2000000001000)] }
     let g := { region0 with coll := [(0, x)] }
     let f : Flight := { next := .collPartialAtRoot 1, rd := 0, va := 0 }
     let s : State := { nextId := 2, regions := [(0, g)], flights := [(1, f)], cores := [(0, { region := some 0 }), (1, { region := some 0 })] }
     s.flight? 1 = some f ∧ 1 < s.nextId ∧ (∀ p ∈ s.fields, p.2.fenced = false) ∧ Tab.find? s.regions f.aux = some g ∧ x.round.toNat = bits f.va.toNat 32 16 ∧ x.ranks.getD (s.ranks g) = [0, 1] ∧
      x.round.setWidth 64 = f.va ∧ x.desc 0 = some 0x2000000001000 ∧
      ∀ c ∈ ([0, 1] : List Nat).take (bits (0x2000000001000 : Word).toNat 48 16), (x.value c).isSome = true ∧ (coreField c ∈ x.parts ∨ coreField c = f.rd)) ∧
    (let s := one { mode := .active, word := 0xFE000000, park := some ⟨.round 0x2000000001000, 0, 9, false⟩ }
     s.roundWait 0 false = some 0x2000000001000 ∧ passed (Tab.get (s.core 0).cround 0 0 + 1) 0x2000000001000 = true) := by decide +kernel

theorem witness_slot_commands :
    442367 < nSlots ∧ (one { cmdBusy := true }).me.cmdBusy = true ∧
    (let v := (one { mode := .active, level := .supervisor }).me
     v.cmdBusy = false ∧ v.mode = .active ∧ v.level = .supervisor) ∧
    (let v := (one { mode := .active, due := some 0 }).me
     v.mode = .active ∧ v.leaving = false ∧ v.due ≠ none) ∧
    (let v := (one { mode := .active, park := some ⟨.bell, 0, 9, false⟩ }).me
     v.mode = .active ∧ v.level = .user ∧ v.due = none ∧ v.park = some ⟨.bell, 0, 9, false⟩ ∧ v.cmdBusy = false) ∧
    (one { mode := .stopped }).me.mode = .stopped ∧ (one { mode := .stopped }).me.mode ≠ .vacant ∧ (one { mode := .stopped }).me.mode ≠ .outOfService ∧
    ((one { mode := .outOfService }).me.mode = .outOfService ∧ (one { mode := .outOfService }).me.barred = false) ∧
    (one { mode := .doubleFault }).me.mode = .doubleFault ∧ (one {}).nextIssue 0 (one {}).now = (one {}).now ∧
    (one { killReq := some 5 }).me.killReq = some 5 ∧ (one {}).me.imp = none := by decide +kernel

theorem witness_preempt :
    (let s := inRegion { mode := .stopped, ember := 65 }
     let v := s.me
     (s.core 0).region = some 0 ∧ Tab.find? s.regions 0 = some region0 ∧ v.mode = .stopped ∧ v.level = .user ∧ v.ember ≠ 0 ∧ v.outs = [] ∧
      v.vbuf = [] ∧ v.rowPend = [] ∧ v.tiles = 0 ∧ v.copies = 0 ∧ s.reportComing 0 v.ember = false ∧
      Tab.find? s.regions (s.info v.ember).region = some region0 ∧ region0.saves ≠ [] ∧ v.accHeld = false ∧ ({ region0 with saves := [] } : Region).saves = [] ∧
      v.told = false ∧ ∀ p ∈ s.embers, p.2.region = 0 → s.slotOf p.1 ≠ none) ∧
    ∀ j, j ≠ 0 → ((inRegion { mode := .stopped, ember := 65 }).slot j).mode ≠ .active := by
  refine ⟨by decide +kernel, fun j h => ?_⟩
  simp [inRegion, State.slot, Tab.get, Tab.find?, Ne.symm h]

/-- One slot at supervisor level for each row of the kernel's table. -/
theorem witness_kernel :
    (let sup (cause : BitVec 9) (a7 : Word) : Slot := { mode := .active, level := .supervisor, busy := true, trapcause := cause, ember := 65, x := [(17, a7)] }
     (one (sup 0x110 0)).handles 0 (.kernelKill 0) = true ∧ (one (sup 0x0A 0)).handles 0 (.timeoutResume 0) = true ∧
      (one (sup 0x12 0)).handles 0 (.ebreakStop 0) = true ∧ (one (sup 0x11 0x21)).handles 0 (.ecallForwardRegister 0) = true ∧
      (one (sup 0x11 0)).handles 0 (.ecallForwardRegister 0) = true ∧ (one (sup 0x11 0x22)).handles 0 (.ecallRouteWrite 0) = true ∧
      (one (sup 0x11 0x23)).handles 0 (.ecallLaunch 0) = true ∧ (one (sup 0x11 0x24)).handles 0 (.ecallRetire 0) = true ∧
      released (sup 0x11 0x23)) := by
  refine ⟨?_, ?_, ?_, ?_, ?_, ?_, ?_, ?_, ⟨rfl, rfl⟩⟩ <;> decide +kernel

theorem witness_forward :
    (let s := { tables 0 with
       slots := [(0, { mode := .active, level := .supervisor, busy := true, trapcause := 3, ember := 65 })], embers := [(65, { forward := some (0x100, 0x1000, 8) })] }
     s.handles 0 (.trapForward 0) = true ∧ (s.info (s.slot 0).ember).forward = some (0x100, 0x1000, 8) ∧
      s.userKeys 0 .store false false 0x1000 4 = some [0x4001000, 0x4001008, 0x4001010, 0x4001018] ∧
      (∀ a ∈ [0x4001000, 0x4001008, 0x4001010, 0x4001018], s.partBad a 8 = false) ∧ ({ s with bad := [0x4001000] } : State).partBad 0x4001000 8 = true) ∧
    [0x4001000, 0x4001008, 0x4001010, 0x4001018].Nodup ∧ ∀ a ∈ [0x4001000, 0x4001008, 0x4001010, 0x4001018], a % 8 = 0 := by decide +kernel

/-- A demand range in the second 64 MiB, whose level-1 entry is empty: a frame and a node are there, or no frame; and the page mapped
meanwhile. -/
def demanding (frames : List (Bool × Nat)) (cell : List Host.Cell) : State :=
  { asids := [(0, 1)], mem := [(0, 1), (1, 0x20), (0x2000, 1), (0x2001, 0x40)] ++ cell,
    slots := [(0, { mode := .active, level := .supervisor, busy := true, trapcause := 4, trapval := 0x4000000, ember := 65 })],
    regions := [(0, { region0 with demand := [(0x4000000, 0x10000)], frames := frames, nodes := [0x6000] })] }

theorem witness_demand :
    (let s := demanding [(false, 0x10000)] []
     s.handles 0 (.demandPageMap 0 0) = true ∧ s.faultWalk 0 = .fault 4 0x4008 ∧
      (match s.takeFrame 0 0x10000 false with
       | some u => match u.nodeFor (s.slot 0).trapval 3 (s.slotRoot 0) [0x6000] with
         | some (a, free, _) => a == 0x6000 && free == []
         | none => false
       | none => false) = true ∧ (0x6000 + 8 ≤ 0x10000 ∨ 0x10000 + 2 ^ 16 ≤ 0x6000)) ∧
    (let s := demanding [] []
     s.handles 0 (.demandPageMap 0 0) = true ∧ s.faultWalk 0 = .fault 4 0x4008 ∧ s.takeFrame 0 0x10000 false = none) ∧
    (let s := demanding [] [(0x4008, 0x17)]
     s.handles 0 (.demandPageMap 0 0) = true ∧ s.faultWalk 0 = .leaf { asid := 0, page := 0x4000000, big := true, leaf := 0x17, at_ := 0x4008 }) := by
  decide +kernel

/-- A leaf of class peer, to be migrated: a frame of its size, or none; a started migration that failed, and one that is whole; a leaf of
another class. -/
def migrating (frames : List (Bool × Nat)) (leaf : BitVec 8) (got : Option Word) : State :=
  { asids := [(0, 1)], mem := [(0, 1), (1, 0x20), (0x2000, 1), (0x2001, 0x40), (0x4000, leaf), (0x4000007, 0x80)],
    slots := [(0, { mode := .active, level := .supervisor, busy := true, trapcause := 7, ember := 65, got := got })],
    regions := [(0, { region0 with frames := frames })], module := { pmap := 0x4000000, proute := [(0, 1)] } }

theorem witness_migration :
    (let s := migrating [(true, 0x8000000)] 0x77 none
     let e : TlbEntry := { asid := 0, page := 0, big := true, leaf := 0x77, at_ := 0x4000 }
     s.handles 0 (.pageMigration 0 0) = true ∧ s.faultWalk 0 = .leaf e ∧ leafClass e.leaf = 3 ∧ (s.slot 0).got = none ∧
      ((s.takeFrame 0 0x8000000 e.big).bind fun u => (u.zeroRange 0x8000000 (2 ^ 26)).peerAddr e 0) = some (0, 0, 0) ∧
      Tab.get s.module.proute 0 0 ≠ 0 ∧ (migrating [] 0x77 none).takeFrame 0 0x8000000 e.big = none ∧
      ((migrating [] 0x77 (some (BitVec.allOnes 64))).slot 0).got = some (BitVec.allOnes 64) ∧
      ((migrating [] 0x77 (some 0x4000000)).slot 0).got = some 0x4000000 ∧ (0x4000000 : Word) ≠ BitVec.allOnes 64 ∧ 2 ^ 26 ≤ (0x4000000 : Word).toNat ∧
      0x8000000 % 2 ^ 26 = 0 ∧ 0x8000000 < 2 ^ 44) ∧
    (let s := migrating [] 0x17 none
     s.handles 0 (.pageMigration 0 0) = true ∧ s.faultWalk 0 = .leaf { asid := 0, page := 0, big := true, leaf := 0x17, at_ := 0x4000 } ∧
      leafClass 0x17 ≠ 3) := by decide +kernel

/-- Arguments of the services: the last route entry and the first number past it, a well-formed leg, a mask of a cause
that may be forwarded, a descriptor block that is not aligned. -/
theorem witness_services :
    63 ≤ (63 : Word).toNat ∧ 63 < (64 : Word).toNat ∧ (0x9000000000000801 : Word).getLsbD 63 = true ∧ routeMalformed 0x9000000000000801 = false ∧
    routeMalformed 0x8000000000000000 = true ∧ (0 : Word).getLsbD 63 = false ∧
    (8 : Word) &&& ~~~ 0x81FF8 = 0 ∧ (1 : Word) &&& ~~~ 0x81FF8 ≠ 0 ∧ (2 : Word).toNat % 4 ≠ 0 ∧ (4 : Word).toNat % 8 ≠ 0 ∧ (8 : Word).toNat % 64 ≠ 0 ∧
    (entryPath {} (routeLegs 0x9000000000000801) (coreX 0) (coreY 0)).isSome ∧ entryPath {} (routeLegs 0x9000000000000001) (coreX 0) (coreY 0) = none ∧
    routeMalformed 0x9000000000000001 = false ∧
    (let s := { tables 0 with slots := [(0, { x := [(10, 0x2000)] })] }
     (s.userKeys 0 .load true false (s.me.xr 10) 8).isSome ∧ s.launchRejected ((List.range 8).map fun _ => 0) (some 0) = true ∧
      s.forwardBlock 0 0x1000 = true ∧ s.forwardBlock 0 0x4000000 = false ∧ (s.me.xr 10).toNat % 64 = 0 ∧ s.badWord 0x4002000 64 = none ∧
      ({ s with bad := [0x4002000] } : State).badWord 0x4002000 8 ≠ none) ∧
    (inRegion {}).launchRejected [0x4000000000, 0x100, 0, 0, 0, 0, 0, 0] (some 0) = false := by decide +kernel

theorem witness_launches :
    (let ws : List Word := [0x4000000000, 0x100, 0, 0, 0, 0, 0, 0]
     let l : Launch := { words := ws, port := some 0, asid := 0, owner := 0, master := 0, deputy := none }
     let s := { inRegion {} with launches := [(1, l)] }
     Tab.find? s.launches 1 = some l ∧ l.chunks = [] ∧ l.ended = false ∧ s.launchRejected l.words none = false ∧
      Tab.find? s.regions (ldRegion l.words) = some region0 ∧ s.liveFields region0 = [0] ∧ (s.field 0).frozen = false ∧
      (one {}).launchRejected l.words none = true) ∧
    (let c : Chunk := { first := 0, items := 64, fields := [0], finished := 64 }
     let l : Launch := { words := [0], port := some 1, asid := 0, owner := 0, master := 0, deputy := some 1, chunks := [(0, c)] }
     Tab.find? l.chunks 0 = some c ∧ c.acked = false ∧ c.lost = false ∧ c.finished = c.items ∧
      ∀ f ∈ l.master :: l.deputy.toList, ((one {}).field f).fenced = false ∧ ((one {}).field f).frozen = false) ∧
    (let l : Launch := { words := [0], port := some 1, asid := 0, owner := 0, master := 0, deputy := none,
                         chunks := [(0, { first := 0, items := 64, fields := [0], finished := 64, acked := true })] }
     let s : State := { launches := [(1, l)], module := { posted := [(1, 1)] } }
     Tab.find? s.launches 1 = some l ∧ l.ended = false ∧ l.over = true ∧ l.port = some 1 ∧ (s.field l.master).fenced = false ∧
      Tab.find? s.module.posted 1 = some 1 ∧ Tab.find? s.module.posted 0 ≠ some 1) ∧
    (let g := { region0 with cores := [0, 1024] }
     let l : Launch := { words := [0], port := some 1, asid := 0, owner := 0, master := 0, deputy := some 1,
                         chunks := [(0, { first := 0, items := 64, fields := [0] })] }
     let s : State := { regions := [(0, g)], launches := [(1, l)], fields := [(0, { fenced := true })] }
     (s.field 0).fenced = true ∧ s.launches = [(1, l)] ∧ Tab.find? s.regions (ldRegion l.words) = some g ∧ s.liveFields g = [1] ∧ ldReissue l.words = false) := by
  decide +kernel

/-- A plan of one cluster in a module whose fields have started; its idle ember, and another owner's core in its cluster. -/
def planned : State :=
  { plans := [(0, { x0 := 32, w := 1, h := 1, idle := [0x1000] })], cores := [(7, { owned := some 9 })],
    fields := (List.range nFields).map fun f => (f, { started := true }) }

/-- A region that runs, with and without budget left; the last core, flue bank, cluster and frame. -/
theorem witness_regions :
    (let p : RegionPlan := { x0 := 32, w := 1, h := 1, idle := [0x1000] }
     let s := planned
     Tab.find? s.plans 0 = some p ∧ Tab.find? s.regions 0 = none ∧ s.planCores p = [0, 1, 2, 3, 4, 5, 6, 7] ∧ p.idle = 0x1000 :: [] ∧
      (∀ c ∈ s.planCores p, s.regionOf c = none) ∧ (s.slot (8 * 0)).mode = .vacant ∧
      (∃ i < 8, ∃ o ∈ (s.core (8 * coreCluster 0 + i)).owned, o ≠ p.owner) ∧
      ∀ f < nFields, (s.field f).segments < 32 ∧ (s.field f).started = true) ∧
    Tab.find? (inRegion {}).regions 0 = some region0 ∧ region0.running = true ∧ region0.budget ≤ region0.spent ∧
    ({ region0 with budget := 1 } : Region).spent < ({ region0 with budget := 1 } : Region).budget ∧
    55295 < nCores ∧ 884735 < 16 * nCores ∧ 6911 < nClusters ∧ (one {}).hasStorage 0x3FFFFFF = true :=
  ⟨by decide +kernel, by decide +kernel, rfl, by decide, by decide, by decide, by decide, by decide, by decide +kernel⟩

/-- Readings at, above and below the limits; a packet with a token; packets at a relay; a mismatch at the edge of its window. -/
theorem witness_fields :
    53 < nFields ∧ bits (96 : BitVec 128).toNat 0 8 > 95 ∧ ¬ bits (95 : BitVec 128).toNat 0 8 > 95 ∧ bits (95 : BitVec 128).toNat 0 8 > 90 ∧
    ¬ bits (90 : BitVec 128).toNat 0 8 > 90 ∧ some (Tab.get ((one {}).home 1).bankOwner 0 0) ≠ ((one {}).regionOf 0).map (·.2.owner) ∧
    (let x : Flight := { next := .farLoadAtHome 1, via := some 9 }
     let s : State := { flights := [(1, x)], cores := [(0, { meter := { rate := 1, burst := 1, credit := 512, waiting := [1] } })],
                        fields := [(0, { relay := [1] })] }
     (s.core 0).meter.waiting = [1] ∧ s.flight? 1 = some x ∧ x.via = some 9 ∧ s.refused x.src x.dst x.next = false ∧
      1 ∉ ([] : List Nat) ∧ (s.core 0).meter.rate ≠ 0 ∧ 512 ≤ (s.meterNow 0).credit ∧ (s.field 0).relay = [1] ∧ s.refused (s.module.boot.gateway 0) x.relayTo x.next = false ∧
      (s.travel (s.module.boot.gateway 0) x.relayTo).isSome) ∧
    (let s : State := { now := 2 ^ 32, fields := [(0, { lastMismatch := some 0 })] }
     (s.field 0).lastMismatch = some 0 ∧ s.now - 0 ≤ 2 ^ 32) ∧ ((one {}).field 0).lastMismatch = none ∧ ((one {}).field 0).fenced = false ∧
    (({ fields := [(0, { frozen := true })] } : State).field 0).frozen = true ∧
    (let s : State := { now := 16, fields := [(0, { speedTo := some true })] }
     (s.field 0).speedTo = some true ∧ (s.field 0).half ≠ true ∧ (s.now - (s.field 0).zero) % 16 = 0) := by decide +kernel

theorem witness_registers : (∀ p ∈ moduleRegs, p.1 ≠ 0 ∨ (one {}).module.lstat ≠ 2) ∧ (one {}).module.lstat ≠ 2 ∧ 53 < nFields ∧ 1023 < 1024 ∧
    ({ fields := [(53, { started := true })] } : State).field 53 = { started := true } := by decide +kernel

/-- A queue page of class 2 that the window reads and writes, one whose bank is being zeroed, a window register that is not valid, and a
posted write that waits. -/
theorem witness_host :
    (let s : State := { tables 0 with mem := [(0, 1), (1, 0x20), (0x2000, 1), (0x2001, 0x40), (0x4000, 0x47), (0x4003, 4)],
                                      fields := [(0, { started := true })], module := { hq := [(128, 0x8000000000000000)] } }
     let is (r : Except (Option Nat) (Nat × TlbEntry)) (p : Option Nat) : Bool := match r, p with
       | .ok (key, t), some n => key == n && t.leaf == 0x4000047
       | .error none, none => true
       | _, _ => false
     is (s.hostAccess 1 8 false).2.2.2 (some 0x4000008) = true ∧ is (s.hostAccess 1 8 true).2.2.2 (some 0x4000008) = true ∧
      is ({ s with module := {} }.hostAccess 1 (2 ^ 36 - 1) false).2.2.2 none = true ∧ is ((one {}).hostAccess 0 0 true).2.2.2 none = true ∧
      (match ({ s with homes := [(1, { zeroing := [4] })] }.hostAccess 1 8 true).2.2.2 with | .error (some _) => true | _ => false) = true ∧
      s.badWord 0x4000008 8 = none ∧ s.partBad 0x4000008 8 = false ∧ s.anyStarted = true ∧ s.fencedKey 0x4000008 = false ∧
      ({ s with fields := [(0, { started := true, fenced := true })] } : State).fencedKey 0x4000008 = true ∧
      ({ s with bad := [0x4000000] } : State).badWord 0x4000008 8 ≠ none ∧ ({ s with bad := [0x4000000] } : State).partBad 0x4000008 8 = true ∧
      (∀ p ∈ s.module.writes, p.1 ≠ 1)) ∧
    (∃ p ∈ ({ writes := [(1, .ldoor 1)] } : Module).writes, p.1 = 1) ∧ (one {}).module.lstat ≠ 2 := by decide +kernel

theorem witness_module :
    (one {}).module.astat ≠ 1 ∧ (one {}).module.alarm = 0 ∧ ({ alarm := 1 } : Module).alarm ≠ 0 ∧ (∀ p ∈ (one {}).module.writes, p.1 ≠ 1) ∧
    (∀ p ∈ (one {}).fields, p.2.started = false) ∧ (∃ p ∈ ([(0, { started := true })] : Tab Field), p.2.started = true) ∧
    ({ astat := 1 } : Module).astat = 1 ∧ ({ now := 1 } : State).counter 0 % 2 ^ 16 ≠ 0 ∧
    (let s : State := { now := 65536, module := { rails := [(3, 6000001)] } }
     s.counter 0 % 2 ^ 16 = 0 ∧ 1000 * s.module.plim.toNat < (Tab.get s.module.rails 3 0).toNat % 2 ^ 32 ∧
      (∃ f < nFields, ((s.field f).speedTo.getD (s.field f).half) = false)) ∧
    (let s : State := { regions := [(0, region0)], cores := [(0, { region := some 0, temps := 96 })] }
     s.ownHeat 0 95 = true ∧ (s.field 0).heat = false) :=
  ⟨by decide, rfl, by decide, by decide, by decide, ⟨_, .head _, rfl⟩, rfl, by decide +kernel,
    ⟨by decide +kernel, by decide +kernel, 0, by decide, rfl⟩, by decide +kernel⟩

theorem witness_module_heat (f : Nat) : (({ module := { rails := [(3, 6000001)] } } : State).field f).heat = false ∧
    ({ module := { rails := [(3, 6000001)] } } : State).ownHeat f 95 = false := ⟨rfl, rfl⟩

/-- A step from a state whose memory has its form. -/
theorem witness_memory : Memory.wf State.reset.mem = true ∧ step State.reset = .next { State.reset with now := 1 } := ⟨rfl, rfl⟩

theorem witness_core_at : coreAt (coreX 55295) (coreY 55295) = some 55295 := by decide +kernel

/-- A row, a gather and a block at their home: nothing taken yet, or a part; a word refused, or in error, at the end of the request; zeroing. -/
theorem witness_words_at_home :
    let f : Flight := { next := .farLoadAtHome 1, key := 0x80, op := opRow }
    let g : Flight := { next := .farLoadAtHome 1, key := 0x80, op := opDequant, args := [0x80, 0x80000080] }
    let s (f : Flight) : State := { flights := [(1, f)] }
    let refused : State := { s g with homes := [(2 * keyCore 0x80000080 + 1, { bankOwner := [(keyBank 0x80000080, 9)] })] }
    (s f).flight? 1 = some f ∧ f.op ≠ opScalar ∧ f.op ≠ opTag ∧ f.took = [] ∧ ({ f with took := [7] } : Flight).took ≠ [] ∧
    (s f).waitsZero f = false ∧ ({ s f with homes := [(1, { zeroing := [0] })] } : State).waitsZero f = true ∧
    (∀ a ∈ f.words.2, (s f).ownerOk a f.owner f.ro = true ∧ (s f).badWord a f.words.1 = none) ∧ f.words.2.getLast? = some 0xF8 ∧
    (∃ a ∈ f.words.2, ({ s f with bad := [0xC0] } : State).badWord a f.words.1 ≠ none) ∧
    refused.waitsZero g = false ∧ (∃ a ∈ g.words.2, refused.ownerOk a g.owner g.ro = false) := by decide +kernel

/-- A store at its home: within one word, the second part of a longer one, to the own slice, for a peer; refused for either cause. -/
theorem witness_store_at_home :
    let f : Flight := { next := .farStoreAtHome 1, key := 0x80, size := 16 }
    let s : State := { flights := [(1, f)] }
    s.flight? 1 = some f ∧ f.part ≤ f.size ∧ ({ f with part := 16 } : Flight).part ≤ ({ f with part := 16 } : Flight).size ∧
    s.waitsZero f = false ∧ ({ s with homes := [(1, { zeroing := [0] })] } : State).waitsZero f = true ∧
    s.ownerOk f.key f.owner false = true ∧ s.partBad f.key f.size = false ∧ s.ownerOk f.key 9 false = false ∧
    ({ s with bad := [0x80] } : State).partBad f.key f.size = true ∧ f.near = false ∧ ({ f with near := true, op := opPeer } : Flight).op = opPeer ∧
    ({ f with near := true } : Flight).op ≠ opPeer ∧ ({ f with size := 8 } : Flight).key % 8 + ({ f with size := 8 } : Flight).size ≤ 8 := by
  decide +kernel

/-- The reply of an ember that has died, with and without a refusal. -/
theorem witness_dead_reply : ∀ c ∈ [0, 0x10],
    let f : Flight := { next := .acknowledgement 1, ember := 5, dead := true, cause := c }
    let s : State := { slots := [(0, { ember := 5 })], flights := [(1, f)] }
    s.flight? 1 = some f ∧ f.ember ≠ 0 ∧ (s.slot f.slot).ember = f.ember ∧ (s.slot f.slot).block = none ∧ f.dead = true := by decide +kernel

/-- Leaves without U, without a permission, of a peer page (whose entry is valid, not valid, in error, or past the map), sealable and not. -/
theorem witness_leaf_checks :
    let hits (t : TlbEntry) : Bool := t.hits 0 8 && !t.bad
    let here (leaf : Word) : Prop := ((paged leaf {}).core (slotCore 0)).tlb.find? hits = some (leafAt0 leaf)
    (8 : Word).extractLsb' 55 9 = 0 ∧ (8 : Word).extractLsb' 52 12 ≠ BitVec.allOnes 12 ∧ (8 : Word).toNat % 8 = 0 ∧
    (Tab.get (paged 0x17 {}).asids 0 0).toNat % 2 = 1 ∧ (Tab.get (paged 0x17 {}).asids 0 0).toNat / 2 ^ 56 = (0 : BitVec 8).toNat ∧
    here 0x07 ∧ (0x07 : Word).getLsbD 4 = false ∧ here 0x15 ∧ (0x15 : Word).getLsbD 1 = false ∧ here 0x13 ∧ (0x13 : Word).getLsbD 2 = false ∧
    (0x17 : Word).getLsbD 3 = false ∧
    here 0x77 ∧ ((0x77 : Word).extractLsb' 5 2).toNat = 3 ∧ leafFrame 0x77 / 2 ^ 16 < 65536 ∧
    (memRead (paged 0x77 {}).mem ((paged 0x77 {}).peerEntry 0x77) 8).testBit 63 = false ∧
    (let s : State := { paged 0x77 {} with mem := [(7, 0x80)] }
     (memRead s.mem (s.peerEntry 0x77) 8).testBit 63 = true ∧ ({ s with bad := [0] } : State).badWord (s.peerEntry 0x77) 16 ≠ none ∧
      s.badWord (s.peerEntry 0x77) 16 = none) ∧
    65536 ≤ leafFrame (0x100000077 : Word) / 2 ^ 16 ∧ here 0x37 ∧ ((0x37 : Word).extractLsb' 5 2).toNat = 1 ∧ here 0x17 ∧
    ((0x17 : Word).extractLsb' 5 2).toNat = 0 ∧
    (let a : WalkAnswer := ⟨0, 8, none, 4⟩
     let s := one { walk := some a }
     (s.core (slotCore 0)).tlb.find? hits = none ∧ s.me.walk = some a ∧ a.entry = none ∧ a.asid = s.me.asid.toNat ∧
      a.va.toNat / 2 ^ 16 = (8 : Word).toNat / 2 ^ 16) := by decide +kernel

/-- The last word of the own slice: of another owner, and in error. -/
theorem witness_storage_faults :
    let s : State := { one { x := regs (own 0x7FFF8) 0 } with bad := [sliceKey 0 + 0x7FFF8] }
    let key := sliceKey 0 + 0x7FFF8
    s.me.rowsQueued = false ∧ s.ownSlice key = true ∧ s.access s.cur .load (addr s 1 0) 8 = .ok key none ∧
    s.access s.cur .store (addr s 1 0) 4 = .ok key none ∧ s.me.loadIds = [] ∧ s.ownerOk key s.me.owner false = true ∧ s.zeroing key = false ∧
    s.badWord key 8 = some key ∧ s.partBad key 4 = true ∧ (one { owner := 1 }).ownerOk key 1 false = false := by decide +kernel

/-- An ember whose only entries wait for rows may leave; one with a row store may not. -/
theorem witness_exit :
    (let v := (one { vbuf := [{ op := .add, vd := 2, vs1 := 1 }, { op := .lr }], rowPend := [(7, 1)] }).me
     v.stores = 0 ∧ v.copies = 0 ∧ v.tiles = 0 ∧ v.holdsExit = false ∧ v.imp = none ∧ v.pend = [] ∧ v.sig = none) ∧
    (one { vbuf := [{ op := .sr }] }).me.holdsExit = true ∧ (one { vbuf := [{ op := .add }] }).me.holdsExit = true := by decide

/-- A record that can be read, one in storage that is being zeroed, and one that stands nowhere. -/
theorem witness_record_reads :
    (let s : State := { tables 0 with slots := [(0, { mode := .active, ember := 65, got := some 0 })] }
     let v := s.slot 0
     v.mode = .active ∧ v.due = none ∧ v.leaving = false ∧ v.got = some 0 ∧ s.hwReads v.asid 0x1040 64 = .at_ 0x4001040 ∧
      (s.info v.ember).park = none ∧ s.hwRead v.asid 0x1048 8 / 2 ^ 62 ≠ 1 ∧
      ({ s with homes := [(1, { zeroing := [4] })] } : State).hwReads v.asid 0x1040 64 = .wait 0x4001040 ∧
      ({ s with bad := [0x4001040] } : State).hwReads v.asid 0x1040 64 = .lost) ∧
    (one {}).hwReads 0 0x1040 64 = .lost := by decide +kernel

/-- A ring in slice 0, whose head counts 3 records at capacity 2; a capacity that is no power of two, and a head that stands nowhere. -/
theorem witness_expiry_records :
    let d : Deadline := ⟨65, 3, 4, 10, 0⟩
    let g (ring : Word) : Region := { region0 with stages := [(3, { event := true, evr := ring })] }
    let s (ring : Word) (cap : BitVec 8) : State := { now := 10, slots := [(0, { ember := 65 })], regions := [(0, g ring)], fields := [(0, { deadlines := [d] })],
                                                          mem := [(sliceKey 0, 3), (sliceKey 0 + 8, cap)] }
    let u := s (own 0) 2
    u.deadlineOf 65 = some (0, d) ∧ d.ends = 6 + d.budget ∧ d.ends ≤ u.now ∧ d.ember = 65 ∧ (u.field 0).frozen = false ∧
    Tab.find? u.regions d.region = some (g (own 0)) ∧ (Tab.get (g (own 0)).stages d.stage.toNat {}).event = true ∧
    (expiryRing u 0 d).1 = 0 ∧ (expiryRing u 0 d).2.1 = 0 ∧ (expiryRing u 0 d).2.2.1 = own 0 ∧
    u.ringKey 0 0 (own 0) = some (sliceKey 0) ∧ u.ringKey 0 0 (own 8) = some (sliceKey 0 + 8) ∧ memRead u.mem (sliceKey 0 + 8) 8 = 2 ^ 1 ∧
    (∀ j < 4, u.ringKey 0 0 (own 0 + 64 + BitVec.ofNat 64 (32 * (memRead u.mem (sliceKey 0) 8 % memRead u.mem (sliceKey 0 + 8) 8)) + BitVec.ofNat 64 (8 * j)) =
      some (sliceKey 0 + 0x60 + 8 * j)) ∧ sliceKey 0 + 8 ≤ sliceKey 0 + 0x60 ∧ sliceKey 0 % 8 = 0 ∧ (u.core (keyCore (sliceKey 0))).bells = [] ∧
    memRead (s (own 0) 3).mem (sliceKey 0 + 8) 8 = 3 ∧ (s 0 2).ringKey 0 0 0 = none ∧
    (u.ringKey 0 0 (own 0x7FFF8) = some (sliceKey 0 + 0x7FFF8) ∧ u.ringKey 0 0 (own 0x7FFF8 + 8) = none) := by decide +kernel

/-- No number up to 20 has 3 as its power of two. -/
theorem witness_bad_capacity : ∀ n ≤ 20, 3 ≠ 2 ^ n := by decide +kernel

/-- A doorbell that lets the ember of another slot go on, and one that has left its slot. -/
theorem witness_bell : ∃ s : State, s.OwnSlice (vaddr s 1 0) 8 (sliceKey 0) ∧ s.me.outs = [] ∧ s.me.park = none ∧ (7 : Nat) ≠ s.cur ∧
    slotCore 7 = slotCore s.cur ∧ (s.slot 7).mode = .active ∧ (s.slot 7).leaving = false ∧
    (s.slot 7).park = some ⟨.bell, 0, 9, false⟩ ∧ (s.core (slotCore s.cur)).bells = [70] ∧ s.slotOf 70 = none :=
  ⟨{ slots := [(0, { x := regs (own 0) 0 }), (7, { mode := .active, ember := 71, park := some ⟨.bell, 0, 9, false⟩ })], cores := [(0, { bells := [70] })] },
    own_slice_of rfl (by decide +kernel), rfl, rfl, by decide, by decide, by decide, by decide, by decide, by decide, by decide⟩

/-- A versioned store and a reclaim of a word that an alarm erasure has lost. -/
theorem witness_versioned_erased :
    let f : Flight := { next := .vrclAtHome 1, key := 8 }
    let s : State := { flights := [(1, f)], module := { alarm := 2 } }
    s.flight? 1 = some f ∧ s.waitsZero f = false ∧ s.ownerOk f.key f.owner false = true ∧ s.erased f.key = true ∧ s.partBad f.key 8 = true ∧
    ({ s with module := {} } : State).erased f.key = false := by decide +kernel

/-- The tail of a 64 MiB page in a bank of another owner, in one that is being zeroed, and in one in error; the second part of an append. -/
theorem witness_append_tail :
    let e : AppendEntry := { big := true, tail := 0x1FFFFF8, closed := false }
    let f : Flight := { next := .appendAtHome 1, size := 16 }
    let s (h : Home) : State := { flights := [(1, f)], homes := [(1, { h with appends := [(0, e)] })] }
    let foreign := s { bankOwner := [(2, 9)] }
    (s {}).flight? 1 = some f ∧ f.part ≤ f.size ∧ (s {}).zeroing 0x1FFFFF8 = false ∧ ¬ 2 ^ 26 < e.tail + f.size ∧
    (wordsOf (f.key + e.tail) f.size).find? (fun w => !foreign.ownerOk w f.owner false) = some 0x2000000 ∧
    (∀ w ∈ wordsOf (f.key + e.tail) f.size, (s {}).ownerOk w f.owner false = true) ∧
    (s { zeroing := [1] }).zeroing 0x1FFFFF8 = true ∧ (s { zeroing := [1] }).ownerOk 0x1FFFFF8 f.owner false = true ∧
    (s {}).partBadWord (f.key + e.tail) f.size = none ∧
    ({ s {} with bad := [0x2000000] } : State).partBadWord (f.key + e.tail) f.size = some 0x2000000 ∧
    2 ^ 26 < ({ e with tail := 2 ^ 26 - 8 } : AppendEntry).tail + f.size ∧ ({ f with part := 8 } : Flight).part ≠ 0 ∧
    ({ flights := [(1, f)] } : State).home (keyHome f.key) = {} := by decide +kernel

/-- The leaf that a seal writes: free, being zeroed, in error, and at a fenced field; a page with its entry and one without. -/
theorem witness_seal_home :
    let f : Flight := { next := .leafSealOr 1, aux := 0x10000 }
    let s : State := { flights := [(1, f)], homes := [(1, { appends := [(0, { big := false, tail := 8, closed := false })] })] }
    s.flight? 1 = some f ∧ s.waitsZero f = false ∧ s.ownerOk f.key f.owner false = true ∧ s.ownerOk f.key 9 false = false ∧
    Tab.find? (s.home (keyHome f.key)).appends f.key = some { big := false, tail := 8, closed := false } ∧
    Tab.find? (({} : State).home (keyHome f.key)).appends f.key = none ∧ s.fencedKey f.aux = false ∧ s.zeroing f.aux = false ∧
    s.badWord f.aux 8 = none ∧ ({ s with bad := [0x10000] } : State).badWord f.aux 8 ≠ none ∧
    ({ s with homes := [(1, { zeroing := [0] })] } : State).zeroing f.aux = true ∧ (s.slot f.slot).ember = f.ember ∧ f.dead = false := by decide +kernel

/-- Nothing in the machine uses a translation. -/
theorem witness_unused : (one {}).flights = [] ∧ (∀ p ∈ (one {}).slots, p.2.vbuf = [] ∧ p.2.park = none) ∧ ∀ p ∈ (one {}).embers, p.2.park = none := by
  decide

/-- A request of another owner at a slice; one behind which nothing waits, whose answer stands in the backing table. -/
theorem witness_slice_owner :
    (let f : Flight := { next := .tcallAtHome 1, ember := 65 }
     let s (o : BitVec 8) : State := { flights := [(1, f)], clusters := [(0, { answers := { owner := o } })] }
     (s 9).flight? 1 = some f ∧ ((s 9).cluster f.aux).answers.owner ≠ f.owner ∧ ((s 0).cluster f.aux).answers.owner = f.owner ∧
      f.dead = false ∧ ((s 0).cluster f.aux).answers.zero = false ∧ ((s 0).cluster f.aux).answers.reading = none) ∧
    (let a : Slice := {}
     a.find 0 0 [] = none ∧ a.entries.length < 8192 ∧ a.queue = []) := by decide +kernel

/-- A consumer's cell before the clk in which it is written, in it, and after it. -/
theorem witness_cells :
    let c : Cell := ⟨1, 0, some (1, 2), 8⟩
    let s (n : Nat) : State := { now := n, slots := [(0, { ember := 65, park := some ⟨.answer 0 6911, 0, 9, false⟩ })],
                                 clusters := [(6911, { answers := { cells := [(65, c)] } })] }
    6911 < nClusters ∧ Tab.find? ((s 8).cluster 6911).answers.cells 65 = some c ∧ (s 8).slotOf 65 = some 0 ∧
    ((s 8).slot 0).park = some ⟨.answer 0 6911, 0, 9, false⟩ ∧ ((s 8).slot 0).leaving = false ∧ (s 7).now < c.at_ ∧ c.at_ = (s 8).now ∧
    c.at_ ≤ (s 9).now ∧ (s 9).nextIssue 0 (s 9).now ≠ (s 9).now ∧ c.at_ < (s 16).now ∧ (s 16).nextIssue 0 (s 16).now = (s 16).now := by decide +kernel

/-- The last entry of a slice: with a key that can be read, pinned and not, and with one that cannot. -/
theorem witness_entry_errors :
    let x : Answer := { group := 0, callee := 0, args := [], state := .done, producer := 65, serial := 3 }
    let s (x : Answer) : State := { clusters := [(6911, { answers := { entries := [(8191, x)] } })] }
    Tab.find? ((s x).cluster 6911).answers.entries 8191 = some x ∧ x.keyBad = false ∧ x.pinned = false ∧
    ({ x with state := .producing } : Answer).pinned = true ∧ ({ x with keyBad := true } : Answer).keyBad = true := by decide

/-- A report of the group that stands, and one of an earlier group of the same number; a round that is due. -/
theorem witness_group_born :
    let v : Group := { born := 7, due := 4096, p := 1, producers := [(65, 1, true)] }
    let f (n : Word) : Flight := { next := .groupReport 1, aux := 65535, tval := n }
    let s (n : Word) : State := { now := 4096, flights := [(1, f n)], groups := [(65535, v)] }
    Tab.find? (s 7).groups (f 7).aux = some v ∧ (f 7).tval = BitVec.ofNat 64 v.born ∧ (f 6).tval ≠ BitVec.ofNat 64 v.born ∧ v.due ≤ (s 7).now ∧
    v.p = v.w ∧ v.p ≠ 0 ∧ v.probe = none := by decide

/-- The last word of a repeat body, of count 0 and of the greatest count. -/
theorem witness_last_body_word : ∀ n ∈ [0, 65535],
    let r : Repeat := { left := 1, size := 16, count := n, stride := 0, mask := 0, round := 0, place := 0 }
    let v : Slot := { accHeld := true, vbuf := List.replicate 15 { op := .add, body := true }, rep := some r }
    v.accHeld = true ∧ v.vbuf.length < 16 ∧ v.rep = some r ∧ r.left = 1 ∧ (r.count = 0 ∨ 0 < r.count) := by decide

/-- A window to save and to restore, with nothing of the slot under way; its rows arrive. -/
theorem witness_window_moves :
    (∃ s : State, s.me.level = .supervisor ∧ s.OwnSlice (s.x 1) 4096 (sliceKey 0 + 0x7F000) ∧ s.me.windowIdle = true ∧
      (∀ p ∈ s.flights, p.2.slot ≠ s.cur) ∧ (s.core (slotCore s.cur)).sliceHeld = [] ∧ s.me.loadIds = [] ∧
      s.windowTaken s.cur s.me.accWin.toNat = false) ∧
    (let f : Flight := { next := .loadReply 1, ember := 5, op := opWindow }
     let s : State := { slots := [(0, { ember := 5 })], flights := [(1, f)] }
     s.flight? 1 = some f ∧ f.op = opWindow ∧ f.cause = 0 ∧ f.ember ≠ 0 ∧ f.dead = false ∧ (s.slot f.slot).ember = f.ember) :=
  ⟨⟨{ one { level := .supervisor, x := regs (own 0x7F000) 0 } with flights := [(1, { next := .farLoadAtHome 1, slot := 1 })] }, rfl,
    own_slice_of rfl (by decide +kernel), rfl, by decide, rfl, rfl, by decide +kernel⟩, by decide +kernel⟩

/-- Words stored by a publication of the entry that a handle names, and a handle whose entry is gone. -/
theorem witness_publication_home :
    let x : Answer := { group := 7, callee := 4, args := [], state := .producing, producer := 65, serial := 3 }
    let f (n : Nat) : Flight := { next := .publicationAtHome 1, ember := 65, tval := BitVec.ofNat 64 (7 * 2 ^ 48 + n * 2 ^ 22 + 3) }
    let a : Slice := { entries := [(8191, x)] }
    a.owner = (f 8191).owner ∧ a.zero = false ∧ a.reading = none ∧ Tab.find? a.entries (bits (f 8191).tval.toNat 22 13) = some x ∧
    x.state = .producing ∧ x.group = bits (f 8191).tval.toNat 48 16 ∧ x.serial = (f 8191).tval.toNat % 65536 ∧ x.producer = (f 8191).ember ∧
    (f 8191).op = 0 ∧ Tab.find? a.entries (bits (f 0).tval.toNat 22 13) = none := by decide +kernel

/-- An entry at the head of the buffer of slot 0, at the clk from which it may execute. -/
def atHead (e : VEntry) : State := { now := 8, slots := [(0, { ember := 65, vbuf := [e] })] }

theorem ready_of {e : VEntry} (h : e.at_ = 0) : ready (atHead e) 0 e [] :=
  ⟨by decide, rfl, .inl rfl, by show e.at_ + 8 ≤ 8; rw [h], by
    simp [State.rowsWait, State.halfBusy, atHead, State.slot, State.core, State.cluster, Tab.get, Tab.find?]⟩

/-- For each clause about an executed entry: its operation, form, element type and conversion target, at both ends of their ranges. -/
theorem witness_ready (op : VOp) (form : VForm) (et : Fin 6) (g : Fin 8) :
    let e : VEntry := { op := op, form := form, vd := 3, vs1 := 1, vs2 := 2, vtype := et, b := BitVec.ofNat 64 g }
    ready (atHead e) 0 e [] ∧ e.op = op ∧ e.form = form ∧ e.et = et ∧ e.b.toNat % 8 = g :=
  ⟨ready_of rfl, rfl, rfl, by revert et; exact (by decide : ∀ n : Fin 6, n.val % 8 = n.val),
    by revert g; exact (by decide : ∀ n : Fin 8, (BitVec.ofNat 64 n.val).toNat % 8 = n.val)⟩

/-- The formats of the types up to 2, the limits of the ranges, an enabled lane and no enabled lane. -/
theorem witness_lane_types : etFmt 0 = some fp32 ∧ (etFmt 1).isSome ∧ (etFmt 2).isSome ∧ etFmt 2 ≠ some fp32 ∧ etFmt 3 = none ∧
    (List.range (etL 5)).filter (({} : Slot).enabled) ≠ [] ∧ (List.range (etL 5)).filter (({ vmk := 0, vmkh := 0 } : Slot).enabled) = [] ∧
    unpack fp32 0x7F800001 = .nan true ∧ unpack fp32 0x7FC00000 = .nan false := by decide +kernel

/-- A body of two words, advanced by a stride of 5, in its first and its last place. -/
def bodyState (r : Repeat) : State :=
  { now := 8, slots := [(0, { vbuf := [{ op := .add, form := .vv, vd := 31, body := true }, { op := .mul, form := .vv, vd := 1, body := true }], rep := some r })] }

/-- The first round, one between and the last; an advanced row past row 31. -/
theorem witness_body (r : Repeat) (p : Fin 2) (n : Fin 3) (hr : r = { left := 0, size := 2, count := 3, stride := 5, mask := 1, round := n, place := p }) :
    let s := bodyState r
    let h : VEntry := { op := .add, form := .vv, vd := 31, body := true }
    let e : VEntry := if p = 0 then h else { op := .mul, form := .vv, vd := 1, body := true }
    (s.slot 0).vbuf.head? = some h ∧ h.body = true ∧ h.op ≠ .tile ∧ (s.slot 0).rep = some r ∧ r.left = 0 ∧ (s.slot 0).vbuf[r.place]? = some e ∧
    computes e.op = true ∧ s.entryClk 0 h ≤ s.now ∧ s.rowsWait 0 { e with vd := (e.vd + r.round * r.stride) % 32 } = false := by
  subst hr
  have hp : p = 0 ∨ p = 1 := by omega
  refine ⟨rfl, rfl, nofun, rfl, rfl, ?_, ?_, by show 0 + 8 ≤ 8; decide, ?_⟩ <;> rcases hp with rfl | rfl <;> rfl

/-- Nothing of slot 0 is on its way. -/
theorem witness_calm (e : VEntry) : calm (atHead e) 0 := ⟨fun _ h => absurd h List.not_mem_nil, rfl, rfl, rfl⟩

/-- Row stores: the last row of the own slice, the first of the next one, and planes of 4 and 64 bytes; room for a store, and none. -/
theorem witness_row_stores :
    let row (key : Nat) : VEntry := { op := .sr, vs2 := 1, key := key }
    let plane (key m ke : Nat) : VEntry := { op := .qnt, vs1 := 1, vd := m, key := key, b := BitVec.ofNat 64 ke }
    (∀ e ∈ [row (sliceKey 0 + 0x7FF80), row (sliceKey 1), plane (sliceKey 0) 1 (sliceKey 0 + 64), plane (sliceKey 1) 16 (sliceKey 2)], ready (atHead e) 0 e []) ∧
    State.sliceOf 0 (sliceKey 0 + 0x7FF80) = true ∧ State.sliceOf 0 (sliceKey 1) = false ∧ State.sliceOf 0 (sliceKey 0 + 64) = true ∧
    State.sliceOf 0 (sliceKey 2) = false ∧ (atHead (row 0)).writeFault 0 (sliceKey 0 + 0x7FF80) 128 = 0 ∧
    (atHead (row 0)).writeFault 0 (sliceKey 0) 4 = 0 ∧ (atHead (row 0)).writeFault 0 (sliceKey 0 + 64) 1 = 0 ∧
    (one { owner := 1 }).ownerOk (sliceKey 0) 1 false = false ∧
    (({} : Slot)).stores < 63 ∧ 63 ≤ ({ outs := (List.range 63).map fun i => ⟨i, true, 0, none, false, none⟩ } : Slot).stores := by
  refine ⟨fun e h => ?_, by decide +kernel⟩
  simp only [List.mem_cons, List.not_mem_nil, or_false] at h
  rcases h with rfl | rfl | rfl | rfl <;> exact ready_of rfl

/-- Row reads: near and far, with and without room; a gather that leaves its slice in lane 31, one that stays, and one of no lane. -/
theorem witness_row_reads :
    let e : VEntry := { op := .lrg, vd := 3, vs2 := 2, key := sliceKey 0 }
    let f (key : Nat) : Flight := { next := .loadReply 0, key := key, op := opRow }
    let on (v : Slot) : List Nat := (List.range 32).filter v.enabled
    let s (lane : Nat) : State := { atHead e with cores := [(0, { rows := [(2, BitVec.ofNat 1024 (lane * 2 ^ 992))] })] }
    let out (lane : Nat) (i : Nat) : Bool := decide (2 ^ 19 ≤ e.key - sliceKey (keyCore e.key) + 4 * laneAt ((s lane).row 0 e.vs2) 4 i)
    ready (atHead e) 0 e [] ∧ ready (atHead { e with op := .lr }) 0 { e with op := .lr } [] ∧ ready (atHead { e with op := .dqnt }) 0 { e with op := .dqnt } [] ∧
    State.sliceOf 0 (f (sliceKey 0)).key = true ∧ (∀ a ∈ (f (sliceKey 0)).words.2, (atHead e).zeroing a = false) ∧
    (atHead e).zeroing (sliceKey 0) = false ∧ State.sliceOf 0 (f 8).key = false ∧ ({} : Slot).loads < 63 ∧ (atHead e).storesHeld 0 = false ∧
    63 ≤ ({ outs := (List.range 63).map fun i => ⟨i, false, 0, none, false, none⟩ } : Slot).loads ∧
    (on {}).find? (out (2 ^ 17)) = some 31 ∧ (on {}).find? (out (2 ^ 17 - 1)) = none ∧ on {} ≠ [] ∧ on { vmk := 0 } = [] ∧
    keyCore (sliceKey 0) = keyCore (sliceKey 0 + 64) ∧ keyCore (sliceKey 1) ≠ keyCore (sliceKey 2) ∧
    (∀ a ∈ sliceKey 2 :: (List.range 64).map (sliceKey 1 + ·), State.sliceOf 0 a = false) := by
  refine ⟨ready_of rfl, ready_of rfl, ready_of rfl, by decide +kernel⟩

/-- A message of a row behind a store that was issued before it, and one behind nothing. -/
theorem witness_row_messages :
    let e : VEntry := { op := .sendV, vs2 := 1, key := 7 }
    let waits (v : Slot) : List Nat := (v.outs.filter fun o => o.row || decide (o.id < e.key)).map (·.id)
    ready (atHead e) 0 e [] ∧ ready (atHead { op := .recvV, vd := 31 }) 0 { op := .recvV, vd := 31 } [] ∧ waits {} = [] ∧
    waits { outs := [⟨6, true, 0, none, false, none⟩, ⟨8, true, 0, none, false, none⟩] } = [6] :=
  ⟨ready_of rfl, ready_of rfl, by decide, by decide⟩

/-- The replies of the three kinds of row read, and of a refused one; a block of 2 and of 16 bits. -/
theorem witness_row_replies : ∀ op ∈ [opRow, opGather, opDequant], ∀ c ∈ [0, 0x10], ∀ m ∈ [2, 16],
    let f : Flight := { next := .loadReply 1, ember := 5, op := op, cause := c, aux := m * 2 ^ 35 + 1, args := List.replicate (4 * m + 1) 0 }
    let s : State := { slots := [(0, { ember := 5 })], flights := [(1, f)] }
    s.flight? 1 = some f ∧ f.ember ≠ 0 ∧ f.dead = false ∧ (s.slot f.slot).ember = f.ember ∧ (s.slot f.slot).block = none ∧ f.pair = none ∧
    f.bytes = [] ∧ f.aux / 2 ^ 35 = m ∧ f.args.length = 4 * m + 1 := by decide +kernel

/-- An operation whose operand words have been taken in part, and one that has taken none. -/
theorem witness_operand_arrival :
    let x : Tile := { kind := .mma, reading := true, readEnd := 8, snap := [(sliceKey 55295, 0)] }
    let s : State := { now := 8, cores := [(55295, { mq := [x] })] }
    55295 < nCores ∧ (s.cluster (coreCluster 55295)).mx.running = none ∧ (s.core 55295).mq = [x] ∧ x.reading = true ∧ x.readEnd ≤ s.now ∧
    x.snap ≠ [] := by decide +kernel

/-- A zeroing command at its first chunk; a copy of which one word, and all but one, of the chunk have been read; a `cget` whose words have come. -/
theorem witness_chunk_parts :
    inChunk (copyState (copying 2)) 0 0 (copying 2) [] ∧ (copying 2).cmd.kind = 2 ∧ (copying 2).have_ = [] ∧ (copying 2).again ≤ 0 ∧
    ((copyState (copying 2)).cluster 0).engAt ≤ 0 ∧
    (∀ n ∈ [1, 15], let e : CopyEntry := { copying 0 with have_ := List.replicate n 7 }
      inChunk (copyState e) 0 0 e [] ∧ e.todo = [] ∧ 0 < e.have_.length ∧ e.have_.length < 16 ∧
        engineLine (copyState e) e.owner e.chunk.1 (sliceKey 0) ∧ engineLine (copyState e) e.owner e.chunk.2.1 (sliceKey 0 + 0x1000)) ∧
    (let e : CopyEntry := { copying 4 with have_ := List.replicate 16 7 }
     inChunk (copyState e) 0 0 e [] ∧ e.cmd.kind = 4 ∧ e.have_.length = 16 ∧ engineLine (copyState e) e.owner e.chunk.2.1 (sliceKey 0 + 0x1000)) := by
  refine ⟨in_chunk 2 (by decide) _ rfl ⟨rfl, rfl, rfl⟩ rfl, rfl, rfl, by decide, by decide, fun n hn => ?_, ?_⟩
  · refine ⟨in_chunk 0 (by decide) _ rfl ⟨rfl, rfl, rfl⟩ rfl, rfl, ?_, ?_, ?_, ?_⟩ <;> simp only [List.mem_cons, List.not_mem_nil, or_false] at hn <;>
      rcases hn with rfl | rfl <;> (try unfold engineLine) <;> decide +kernel
  · refine ⟨in_chunk 4 (by decide) _ rfl ⟨rfl, rfl, rfl⟩ rfl, rfl, rfl, ?_⟩
    unfold engineLine
    decide +kernel

/-- A peer port of a module that has started; a chunk that is read for it; a frame of no length and one past the bound. -/
theorem witness_peer_port :
    (let s : State := { fields := [(0, { started := true })], flights := [(1, { next := .loadReply 1, slot := 1 })],
                        module := { pimp := [(1023, 0x8000000100000000)] } }
     s.module.peer = true ∧ s.anyStarted = true ∧ (∀ n < 128 / 8, s.fencedKey (0x80 + 8 * n) = false) ∧
      (∀ p ∈ s.flights, p.2.slot ≠ 0 ∨ p.2.ember ≠ 0) ∧ ¬ 136 ≤ 128 ∧ 128 % 8 = 0 ∧ 0x80 % 8 = 0) ∧
    (let f : Flight := { next := .loadReply 1, op := opPeer }
     ({ flights := [(1, f)] } : State).flight? 1 = some f ∧ f.op = opPeer ∧ f.cause = 0) := by decide +kernel

/-- A masked core, and a region one of whose two cores is. -/
theorem witness_masks :
    (({} : Core)).masked 7 = false ∧ ({ mask := some 0 } : Core).masked 7 = true ∧
    (let s : State := { slots := [(0, {})], regions := [(0, region0)], cores := [(0, { region := some 0 }), (1, { region := some 0, mask := some 0 })] }
     s.roundRanks region0 0 0 = [0] ∧ 1 ∉ s.roundRanks region0 0 0 ∧ 0 ∈ s.roundRanks region0 0 0 ∧ (s.core 0).mask = none ∧ (s.core 0).region = some 0) := by
  decide +kernel

/-- The first and the second slot of a region, with the first still active; one told of a shortage; the reports of a double fault. -/
theorem witness_slot_order :
    (let s : State := { slots := [(0, { mode := .active }), (1, { mode := .stopped })], regions := [(0, region0)],
                        cores := [(0, { region := some 0 }), (1, { region := some 0 })] }
     s.regionOf (slotCore 1) = some (0, region0) ∧ s.beforeSlot region0 1 ≠ [] ∧ s.beforeSlot region0 0 = []) ∧
    (let s : State := { slots := [(0, { mode := .stopped, told := true }), (1, { mode := .stopped })] }
     s.beforeSlot region0 1 = []) ∧ (one {}).nextIssue 0 (one {}).now = (one {}).now ∧
    ∀ c ∈ [0x0F, 0x0D, 0x11], killClass (one { trapcause := c }).me ∈ [2, 5, 15] := by decide +kernel

/-- An ember with a row store to come, with a store out, and with neither; a block that no page maps. -/
theorem witness_forward_waits :
    ({ vbuf := [{ op := .sr }] } : Slot).storing = true ∧ ({ outs := [⟨1, true, 0, none, false, none⟩] } : Slot).storing = true ∧
    ({} : Slot).storing = false ∧
    (let s := { tables 0 with slots := [(0, { mode := .active, level := .supervisor, busy := true, trapcause := 3, ember := 65 })],
                              embers := [(65, { forward := some (0x100, 0x4000000, 8) })] }
     s.handles 0 (.trapForward 0) = true ∧ s.userKeys 0 .store false false 0x4000000 4 = none) := by decide +kernel

/-- A migration that is copied, in time and 65,536 clk late; its translation removed but still in use, and no longer. -/
theorem witness_migration_end :
    let s (n : Nat) (got : Word) : State := { migrating [] 0x77 (some got) with now := n }
    let late (s : State) : Prop := (s.slot 0).lastIssue.getD s.now + 65536 ≤ s.now
    let done : Word := BitVec.allOnes 64 - 1
    (s 0 done).handles 0 (.pageMigration 0 0) = true ∧ ((s 0 done).slot 0).got = some done ∧ done ≠ BitVec.allOnes 64 ∧ (0x4000000 : Word) ≠ done ∧
    ¬ late (s 65535 done) ∧ late { s 65536 done with slots := [(0, { lastIssue := some 0 })] } ∧
    ((s 0 done).cutsLeft 0 3 || (s 0 done).usersLeft 0 3 0 0) = false ∧
    ({ s 0 done with slots := [(8, { vbuf := [{ op := .lr }] })] } : State).usersLeft 0 3 0 0 = true ∧
    (∀ c < 4, ((s 0 done).cluster c).engTlb = []) := by decide +kernel

/-- No home lists a waiter, and no engine caches a translation. -/
theorem witness_no_waiters (h c : Nat) : let s := migrating [] 0x77 (some 0x4000000)
    ((s.home h).watch = [] ∧ (s.home h).requests = []) ∧ (s.cluster c).engTlb = [] := ⟨⟨rfl, rfl⟩, rfl⟩

/-- Copy queues of a plan's cores inside a chunk and outside; a harvested position; slices that change owner and that do not. -/
theorem witness_hand_over :
    let p : RegionPlan := { x0 := 32, w := 1, h := 1, idle := [0x1000] }
    let s (e : CopyEntry) : State := { planned with cores := [(7, { cq1 := { entries := [e] } })] }
    planned.queuesBusy (planned.planCores p) = false ∧
    (s { copying 0 with waiting := true }).queuesBusy ((s { copying 0 with waiting := true }).planCores p) = true ∧
    (s (copying 0)).queuesBusy ((s (copying 0)).planCores p) = false ∧
    (∃ c ∈ p.positions, ({ harvested := [7] } : Boot).enabled c = false) ∧ (one {}).module.boot.enabled 7 = true ∧
    ((one {}).core 55295).sliceOwner ≠ (9 : BitVec 8) ∧ ((one {}).cluster 6911).answers.owner ≠ (9 : BitVec 8) := by decide +kernel

/-- The last byte before the frame of the fabric table and the first behind it; DRAM, of owner 0 and of another; the slices. -/
theorem witness_module_reset :
    offFabric {} (0x7FF0000 - 1) ∧ offFabric {} 0x8000000 ∧ ¬ offFabric {} 0x7FF0000 ∧ 0x8000000 < 2 ^ 44 ∧ (one {}).module.alarm ≠ 2 ∧
    Tab.get ((one {}).home (keyHome 0x8000000)).bankOwner (keyBank 0x8000000) 0 = (0 : BitVec 8) ∧
    Tab.get (({ homes := [(keyHome 0x8000000, { bankOwner := [(keyBank 0x8000000, 9)] })] } : State).home (keyHome 0x8000000)).bankOwner
      (keyBank 0x8000000) 0 ≠ (0 : BitVec 8) := by unfold offFabric; decide +kernel

end

end Sys2Proof.Tests
end

section
/-! CSR instructions (R15, R68): the six forms are one operation, which either traps or completes; the registers as the tables of
the statements list them; and the settlement of O6. -/

namespace Sys2Proof.Machine

open Sys2Proof.Claims

/-! What an instruction that has completed leaves (`State.Completes`), field by field. -/

section

variable {s t : State} {v : Slot} {pc : Word}

theorem State.Completes.me_pc (h : s.Completes t v pc) : t.me.pc = pc := by rw [h.slot]
theorem State.Completes.me_xr (h : s.Completes t v pc) (r : Nat) : t.me.xr r = v.xr r := by
  rw [h.slot]; rfl
theorem State.Completes.mem (h : s.Completes t v pc) : t.mem = s.mem := by rw [h.outside.rest]
theorem State.Completes.tags (h : s.Completes t v pc) : t.tags = s.tags := by rw [h.outside.rest]
theorem State.Completes.sigKill (h : s.Completes t v pc) :
    (t.core (slotCore s.cur)).sigKill = (s.core (slotCore s.cur)).sigKill := by rw [h.outside.core]
theorem State.Completes.sigEn (h : s.Completes t v pc) :
    (t.core (slotCore s.cur)).sigEn = (s.core (slotCore s.cur)).sigEn := by rw [h.outside.core]

/-- R75: completing opens no signature block. -/
theorem State.Completes.sig_none (h : s.Completes t v pc) (hv : v.sig = none) (k : Nat)
    (hk : k ≠ s.cur → (s.slot k).sig = none) : (t.slot k).sig = none := by
  by_cases e : k = s.cur
  · obtain ⟨-, -, hsig, -⟩ := h.noBlock hv
    rw [e, ← h.outside.cur]
    exact hsig
  · rw [h.outside.slots k e, hk e]

end

/-- A slot that has changed in `g`, then in rd, completes. -/
theorem State.retire_modMe_setX (s : State) (g : Slot → Slot) (rd : Reg) (w : Word) (hpc : (g s.me).pc = s.me.pc) :
    s.Completes ((s.modMe g).setX rd w).retire ((g s.me).setX rd.toNat w) (s.me.pc + 4) := by
  have e : (s.modMe g).setX rd w = s.modMe ((·.setX rd.toNat w) ∘ g) := s.modMe_modMe ..
  rw [e]
  exact s.retire_modMe _ ((Slot.setX_pc ..).trans hpc)

/-! The operation behind the six forms. -/

/-- R68: the form that an entry of `csrForms` names is the one operation, with the entry's value. -/
theorem exec_csrForm (rd : Reg) (a : BitVec 5) (c : BitVec 12) (s : State) :
    ∀ f ∈ csrForms, exec (f.1 rd a c) s = .next (s.csrOp rd c (f.2.1 a) (f.2.2 s a)) := by
  simp only [csrForms, List.forall_mem_cons]
  exact ⟨rfl, rfl, rfl, rfl, rfl, rfl, fun _ h => absurd h List.not_mem_nil⟩

/-- R15, R68, R150: where no case of R15 holds and the sequence buffer does not keep it waiting, a CSR instruction writes the
register, if it writes, then rd, and completes. -/
theorem State.csrOp_eq_retire {s : State} {c : BitVec 12} {t : Word} {b : Bool} (rd : Reg) (f : Word → Word)
    (hread : s.csrRead c.toNat = some t) (hlevel : 0x800 ≤ c.toNat ∨ c.toNat < 0x5C0 ∨ s.me.level = .supervisor)
    (hwrite : b = true → csrReadOnly c.toNat = false) (hwait : csrWaits c.toNat = true → s.me.vbuf = []) :
    s.csrOp rd c b f = ((if b then s.csrWrite c.toNat (f t) else s).setX rd t).retire := by
  have hl : ¬((s.me.level == .user && decide (0x5C0 ≤ c.toNat ∧ c.toNat ≤ 0x5FF)) = true) := by
    rw [Bool.and_eq_true, beq_iff_eq, decide_eq_true_eq]
    rintro ⟨hu, hrange⟩
    rw [hu] at hlevel
    rcases hlevel with h | h | h
    · omega
    · omega
    · cases h
  have hw : ¬((b && csrReadOnly c.toNat) = true) := by
    rw [Bool.and_eq_true]; rintro ⟨hb, hro⟩; simp [hwrite hb] at hro
  have hv : ¬((csrWaits c.toNat && s.me.vbuf != []) = true) := by
    rw [Bool.and_eq_true]; rintro ⟨hc, hne⟩; simp [hwait hc] at hne
  unfold State.csrOp
  simp only [hread, if_neg hl, if_neg hw, if_neg hv]

/-- R15: each of the three cases is an illegal instruction. -/
theorem State.csrOp_eq_illegal {s : State} {c : BitVec 12} {b : Bool} (rd : Reg) (f : Word → Word)
    (h : s.csrRead c.toNat = none ∨ (s.me.level = .user ∧ 0x5C0 ≤ c.toNat ∧ c.toNat ≤ 0x5FF) ∨
      (b = true ∧ csrReadOnly c.toNat = true)) :
    s.csrOp rd c b f = s.illegal := by
  unfold State.csrOp
  dsimp only
  split
  · rfl
  · next t hread =>
    rw [hread] at h
    rcases h with h | ⟨hl, hrange⟩ | ⟨hb, hro⟩
    · cases h
    · simp only [hl, hrange, and_self, decide_true, beq_self_eq_true, Bool.and_self, if_true]
    · simp only [hb, hro, Bool.and_self, if_true, ite_self]

/-! The registers, table by table (R14, R16, R69). -/

/-- R15: a number outside the tables names no register. -/
theorem State.csrRead_eq_none (s : State) {c : Nat} (h : c ∉ csrNumbers) : s.csrRead c = none := by
  unfold State.csrRead
  dsimp only
  split
  case h_29 => rfl
  all_goals exact absurd (by decide) h

/-- R15: every number has 12 bits. -/
theorem csrNumber_toNat {n : Nat} (h : n ∈ csrNumbers) : (BitVec.ofNat 12 n).toNat = n := by
  have hlt : ∀ m ∈ csrNumbers, m < 2 ^ 12 := by decide
  rw [BitVec.toNat_ofNat, Nat.mod_eq_of_lt (hlt n h)]

theorem slotRegister_number {r : Nat × (Slot → Word) × (Word → Slot → Slot)} (h : r ∈ slotRegisters) : r.1 ∈ csrNumbers :=
  List.mem_append_left _ (List.mem_append_left _ (List.mem_map_of_mem h))

theorem fixedRegister_number {r : Nat × (State → Word)} (h : r ∈ fixedRegisters) : r.1 ∈ csrNumbers :=
  List.mem_append_left _ (List.mem_append_right _ (List.mem_map_of_mem h))

/-- R69: the registers of `fixedRegisters` are the ones that refuse a write. -/
theorem csrReadOnly_of_fixed : ∀ n ∈ fixedRegisters.map (·.1), csrReadOnly n = true := by decide
theorem csrReadOnly_of_slot : ∀ r ∈ slotRegisters, csrReadOnly r.1 = false := by decide

/-- R16: one fixed register, `owner`, needs supervisor level. -/
theorem fixedRegister_level : ∀ r ∈ fixedRegisters, 0x800 ≤ r.1 ∨ r.1 = 0x5C6 := by decide
/-- R150: no fixed register waits for the sequence buffer. -/
theorem csrWaits_of_fixed : ∀ r ∈ fixedRegisters, csrWaits r.1 = false := by decide

/-- R150. -/
theorem csrWaits_iff {c : Nat} : csrWaits c = true ↔ c = 0x001 ∨ c = 0x003 ∨ c = 0x806 ∨ c = 0x807 := by
  simp only [csrWaits, List.contains_eq_mem, List.mem_cons, List.not_mem_nil, or_false, decide_eq_true_eq]
  omega

/-- R24: the map of `tctl`, added as numbers or as words. -/
theorem tctl_value (busy sup : Prop) [Decidable busy] [Decidable sup] :
    BitVec.ofNat 64 ((if busy then 2 else 0) + (if sup then 1 else 0)) = (if busy then 2 else 0) + (if sup then 1 else 0) := by
  split_ifs <;> rfl

/-- R24: the map of `accwin`: H is bit 8, above the window's number. -/
theorem accwin_value (held : Prop) [Decidable held] (win : Nat) :
    (if held then 256 else 0) + win = if held then 256 + win else win := by
  split_ifs
  · rfl
  · exact Nat.zero_add win

/-- R20: `trapvec` keeps bits 55 to 2 of the word. -/
theorem trapvec_value (w : Word) : w.extractLsb' 0 56 &&& ~~~3 = w.extractLsb' 2 54 ++ 0#2 := by
  have halves : w.extractLsb' 0 56 = w.extractLsb' 2 54 ++ w.extractLsb' 0 2 :=
    (BitVec.extractLsb'_append_extractLsb'_eq_extractLsb' (start₁ := 0) (len₁ := 2) rfl).symm
  have mask : ~~~(3 : BitVec 56) = BitVec.allOnes 54 ++ 0#2 := by decide
  rw [halves, mask, BitVec.and_append, BitVec.and_allOnes, BitVec.and_zero]

/-- R20: the weight of a word, which is at least 1. -/
theorem mweight_value (w : Word) : (if w.toNat % 16 = 0 then (1 : BitVec 4) else w.setWidth 4) =
    if w.extractLsb' 0 4 = 0 then 1 else w.extractLsb' 0 4 := by
  have hz : w.toNat % 16 = 0 ↔ w.extractLsb' 0 4 = 0 := by simp [← BitVec.toNat_inj]
  rw [BitVec.setWidth_eq_extractLsb' (by decide)]
  exact if_congr hz rfl rfl

/-- R16: `csrRead` reads the register of a slot as `slotRegisters` says. -/
theorem State.csrRead_slotRegister (s : State) : ∀ r ∈ slotRegisters, s.csrRead r.1 = some (r.2.1 s.me) := by
  simp only [slotRegisters, List.forall_mem_cons, State.csrRead, tctl_value, true_and]
  exact fun _ h => absurd h List.not_mem_nil

/-- R8, R17, R20, R24: `csrWrite` writes the register of a slot as `slotRegisters` says. -/
theorem State.csrWrite_slotRegister (s : State) (w : Word) :
    ∀ r ∈ slotRegisters, s.csrWrite r.1 w = s.modMe (r.2.2 w) := by
  simp only [slotRegisters, List.forall_mem_cons, State.csrWrite, trapvec_value, BitVec.setWidth_eq_extractLsb', Nat.reduceLeDiff,
    true_and]
  exact fun _ h => absurd h List.not_mem_nil

/-- No register of a slot is its PC. -/
theorem slotRegister_pc (w : Word) (v : Slot) : ∀ r ∈ slotRegisters, (r.2.2 w v).pc = v.pc := by
  simp only [slotRegisters, List.forall_mem_cons, true_and]
  exact fun _ h => absurd h List.not_mem_nil

/-- R69: `csrRead` reads the registers without writable fields as `fixedRegisters` says. -/
theorem State.csrRead_fixedRegister (s : State) : ∀ r ∈ fixedRegisters, s.csrRead r.1 = some (r.2 s) := by
  simp only [fixedRegisters, List.forall_mem_cons]
  exact ⟨rfl, rfl, rfl, rfl, rfl, rfl, rfl, rfl, rfl, fun _ h => absurd h List.not_mem_nil⟩

/-- R15, R68, R150: a CSR instruction on a number that exists, at a level that may name it, reads it into rd, after it has
written the register if it writes. -/
theorem exec_csrForm_eq_retire {f : _ × _ × _} (hf : f ∈ csrForms) {n : Nat} (hn : n ∈ csrNumbers) (rd : Reg)
    (a : BitVec 5) {s : State} {t : Word} (hread : s.csrRead n = some t)
    (hlevel : 0x800 ≤ n ∨ n < 0x5C0 ∨ s.me.level = .supervisor)
    (hwrite : f.2.1 a = true → csrReadOnly n = false) (hwait : csrWaits n = true → s.me.vbuf = []) :
    exec (f.1 rd a (BitVec.ofNat 12 n)) s =
      .next ((if f.2.1 a then s.csrWrite n (f.2.2 s a t) else s).setX rd t).retire := by
  have e := csrNumber_toNat hn
  rw [exec_csrForm rd a _ s f hf, State.csrOp_eq_retire (t := t) rd _ (by rwa [e]) (by rwa [e]) (by rwa [e]) (by rwa [e]), e]

/-! The registers of a core: `accwin`, `mweight` and `sigctl` (R20, R24, R76, R146). -/

/-- R146: a write of `accwin` takes the window, unless another slot of the core holds it. -/
theorem State.csrWrite_accwin (s : State) (w : Word) :
    s.csrWrite 0x5C7 w =
      if w.getLsbD 8 && s.windowTaken s.cur (w.toNat % 8) then s
      else s.modMe fun v => { v with accHeld := w.getLsbD 8, accWin := w.extractLsb' 0 3 } := by
  rw [← BitVec.setWidth_eq_extractLsb' (by decide)]
  rfl

/-- R20: a write of `mweight`. -/
theorem State.csrWrite_mweight (s : State) (w : Word) :
    s.csrWrite 0x5C8 w =
      s.modCore (slotCore s.cur) fun v => { v with mweight := if w.extractLsb' 0 4 = 0 then 1 else w.extractLsb' 0 4 } := by
  rw [← mweight_value]
  rfl

/-- Slot 8 c + i ends its signature block. -/
def State.endBlock (c : Nat) (s : State) (i : Nat) : State := s.modSlot (8 * c + i) fun v => { v with sig := none }

/-- R24, R76: a write of `sigctl` sets the core's two bits, then ends the block of each of its slots where EN is 0. -/
theorem State.csrWrite_sigctl (s : State) (w : Word) :
    s.csrWrite 0x5C9 w =
      if w.getLsbD 0 then s.modCore (slotCore s.cur) fun x => { x with sigKill := w.getLsbD 1, sigEn := w.getLsbD 0 }
      else (List.range 8).foldl (State.endBlock (slotCore s.cur))
        (s.modCore (slotCore s.cur) fun x => { x with sigKill := w.getLsbD 1, sigEn := w.getLsbD 0 }) := rfl

theorem State.endBlock_slot (c : Nat) (s : State) (i k : Nat) :
    (s.endBlock c i).slot k = if k = 8 * c + i then { s.slot k with sig := none } else s.slot k := by
  unfold State.endBlock
  rw [State.slot_modSlot]
  split
  · next e => rw [e]
  · rfl

/-- From s to t slots alone change, and none of them its PC. -/
structure State.KeepsPcs (s t : State) : Prop where
  rest : t = { s with slots := t.slots }
  pc   : ∀ k, (t.slot k).pc = (s.slot k).pc

section

variable {s t : State}

theorem State.KeepsPcs.cur (h : s.KeepsPcs t) : t.cur = s.cur := by rw [h.rest]
theorem State.KeepsPcs.mem (h : s.KeepsPcs t) : t.mem = s.mem := by rw [h.rest]
theorem State.KeepsPcs.tags (h : s.KeepsPcs t) : t.tags = s.tags := by rw [h.rest]
theorem State.KeepsPcs.core (h : s.KeepsPcs t) (c : Nat) : t.core c = s.core c := by rw [h.rest]; rfl
theorem State.KeepsPcs.me_pc (h : s.KeepsPcs t) : t.me.pc = s.me.pc := by
  unfold State.me; rw [h.cur, h.pc]

end

theorem State.foldl_endBlock_keeps (c : Nat) (l : List Nat) (s : State) : s.KeepsPcs (l.foldl (State.endBlock c) s) := by
  refine State.foldl_keeps s.KeepsPcs _ l (fun t i h => ⟨?_, fun k => ?_⟩) s ⟨rfl, fun _ => rfl⟩
  · exact congrArg (fun u : State => { u with slots := (t.endBlock c i).slots }) h.rest
  · rw [State.endBlock_slot, ← h.pc k]
    split <;> rfl

/-- A block that has ended stays ended, so the fold ends that of every slot it names. -/
theorem State.foldl_endBlock_sig (c : Nat) (l : List Nat) (s : State) :
    ∀ i ∈ l, ((l.foldl (State.endBlock c) s).slot (8 * c + i)).sig = none := by
  induction l generalizing s with
  | nil => exact fun _ h => absurd h List.not_mem_nil
  | cons j l ih =>
    have stays : ∀ (t : State) (k b : Nat), (t.slot k).sig = none → ((t.endBlock c b).slot k).sig = none := by
      intro t k b h
      rw [State.endBlock_slot]
      split
      · rfl
      · exact h
    intro i hi
    rcases List.mem_cons.mp hi with rfl | hi
    · exact State.foldl_keeps (fun t => (t.slot (8 * c + i)).sig = none) _ l (fun t b => stays t _ b) _
        (by rw [State.endBlock_slot, if_pos rfl])
    · exact ih _ i hi

theorem State.csrWrite_sigctl_keeps (s : State) (w : Word) :
    (s.modCore (slotCore s.cur) fun x => { x with sigKill := w.getLsbD 1, sigEn := w.getLsbD 0 }).KeepsPcs (s.csrWrite 0x5C9 w) := by
  rw [State.csrWrite_sigctl]
  split
  · exact ⟨rfl, fun _ => rfl⟩
  · exact State.foldl_endBlock_keeps ..

theorem State.csrWrite_sigctl_core (s : State) (w : Word) :
    (s.csrWrite 0x5C9 w).core (slotCore s.cur) =
      { s.core (slotCore s.cur) with sigKill := w.getLsbD 1, sigEn := w.getLsbD 0 } :=
  ((s.csrWrite_sigctl_keeps w).core _).trans (s.core_modCore_self ..)

theorem State.csrWrite_sigctl_sig (s : State) {w : Word} (hw : w.getLsbD 0 = false) :
    ∀ i < 8, ((s.csrWrite 0x5C9 w).slot (8 * slotCore s.cur + i)).sig = none := by
  intro i hi
  rw [State.csrWrite_sigctl, if_neg (by rw [hw]; exact Bool.false_ne_true)]
  exact State.foldl_endBlock_sig _ _ _ i (List.mem_range.mpr hi)

/-! The parts of O6. -/

theorem csrSlotRegisters_holds : csrSlotRegisters := by
  intro f hf r hr rd a s hlevel hbuf
  refine ⟨_, exec_csrForm_eq_retire hf (slotRegister_number hr) rd a (s.csrRead_slotRegister r hr) hlevel
    (fun _ => csrReadOnly_of_slot r hr) (fun h => hbuf (csrWaits_iff.mp h)), ?_⟩
  cases f.2.1 a with
  | true =>
    simp only [if_true]
    rw [s.csrWrite_slotRegister _ r hr]
    exact s.retire_modMe_setX _ rd _ (slotRegister_pc _ _ r hr)
  | false => exact s.retire_setX rd _

theorem csrFixedRegisters_holds : csrFixedRegisters := by
  intro f hf r hr rd a s hreads hlevel
  have hnumber : 0x800 ≤ r.1 ∨ r.1 = 0x5C6 := fixedRegister_level r hr
  refine ⟨_, exec_csrForm_eq_retire hf (fixedRegister_number hr) rd a (s.csrRead_fixedRegister r hr)
    (hnumber.imp_right fun h => .inr (hlevel h)) (fun h => by simp [hreads] at h)
    (fun h => by simp [csrWaits_of_fixed r hr] at h), ?_⟩
  rw [hreads]
  exact s.retire_setX rd _

/-- R146: the part of `csrCoreRegisters` on `accwin`, from the operation on. -/
theorem State.accwin_completes (s : State) (rd : Reg) (b : Bool) (old w : Word) :
    s.Completes ((if b then s.csrWrite 0x5C7 w else s).setX rd old).retire
      (Slot.setX (if b && !(w.getLsbD 8 && s.windowTaken s.cur (w.toNat % 8)) then
        { s.me with accHeld := w.getLsbD 8, accWin := w.extractLsb' 0 3 } else s.me) rd.toNat old) (s.me.pc + 4) := by
  rw [State.csrWrite_accwin]
  cases b with
  | false => exact s.retire_setX rd old
  | true =>
    cases w.getLsbD 8 && s.windowTaken s.cur (w.toNat % 8) with
    | true => exact s.retire_setX rd old
    | false => exact s.retire_modMe_setX (fun v => { v with accHeld := w.getLsbD 8, accWin := w.extractLsb' 0 3 }) rd old rfl

/-- R20: the part on `mweight`: the core that the instruction leaves is that of the written state. -/
theorem State.mweight_completes (s : State) (rd : Reg) (b : Bool) (old w : Word) :
    State.Completes (if b then s.modCore (slotCore s.cur) fun v =>
        { v with mweight := if w.extractLsb' 0 4 = 0 then 1 else w.extractLsb' 0 4 } else s)
      ((if b then s.csrWrite 0x5C8 w else s).setX rd old).retire (s.me.setX rd.toNat old) (s.me.pc + 4) := by
  rw [State.csrWrite_mweight]
  cases b with
  | false => exact s.retire_setX rd old
  | true =>
    simp only [if_true]
    rw [← s.modCore_me]
    exact State.retire_setX _ rd old

/-- R10: what rd reads after a write of it. -/
theorem Slot.xr_setX_self (v : Slot) (rd : Reg) (w : Word) : (v.setX rd.toNat w).xr rd.toNat = if rd = 0 then 0 else w := by
  rw [Slot.xr_setX]
  by_cases h : rd = 0
  · subst h; rfl
  · rw [if_pos ⟨rfl, fun e => h (BitVec.eq_of_toNat_eq e)⟩, if_neg h]

/-- R24, R76: a write of `sigctl` with EN = 0 leaves no block open once the instruction has completed. -/
theorem State.sigctl_ends_blocks (s : State) (rd : Reg) (old : Word) {w : Word} (hw : w.getLsbD 0 = false) :
    ∀ i < 8, (State.slot ((s.csrWrite 0x5C9 w).setX rd old).retire (8 * slotCore s.cur + i)).sig = none := by
  have ended := s.csrWrite_sigctl_sig hw
  have hcur : (s.csrWrite 0x5C9 w).cur = s.cur := (s.csrWrite_sigctl_keeps w).cur
  have hme : (s.csrWrite 0x5C9 w).me.sig = none := by
    have := ended (s.cur % 8) (Nat.mod_lt _ (by decide))
    rwa [slotCore, Nat.div_add_mod, ← hcur] at this
  intro i hi
  exact ((s.csrWrite 0x5C9 w).retire_setX rd old).sig_none (by rw [Slot.setX_eq]; exact hme) _ fun _ => ended i hi

theorem csrCoreRegisters_holds : csrCoreRegisters := by
  intro f hf rd a s hs
  refine ⟨⟨_, exec_csrForm_eq_retire (n := 0x5C7) hf (by decide) rd a (congrArg (some <| BitVec.ofNat 64 ·) (accwin_value _ _))
      (.inr (.inr hs)) (fun _ => rfl) nofun, State.accwin_completes ..⟩,
    ⟨_, exec_csrForm_eq_retire (n := 0x5C8) hf (by decide) rd a rfl (.inr (.inr hs)) (fun _ => rfl) nofun, State.mweight_completes ..⟩,
    ⟨_, exec_csrForm_eq_retire (n := 0x5C9) hf (by decide) rd a rfl (.inr (.inr hs)) (fun _ => rfl) nofun, ?_⟩⟩
  intro old w
  cases f.2.1 a with
  | false =>
    have h := s.retire_setX rd old
    exact ⟨(h.me_xr _).trans (Slot.xr_setX_self ..), h.me_pc, h.mem, h.tags, h.sigKill, h.sigEn⟩
  | true =>
    have g := s.csrWrite_sigctl_keeps w
    have h := (s.csrWrite 0x5C9 w).retire_setX rd old
    have hcur : (s.csrWrite 0x5C9 w).cur = s.cur := g.cur
    have hpc : (s.csrWrite 0x5C9 w).me.pc = s.me.pc := g.me_pc
    have hkill := h.sigKill
    have hen := h.sigEn
    rw [hcur, s.csrWrite_sigctl_core] at hkill hen
    exact ⟨(h.me_xr _).trans (Slot.xr_setX_self ..), h.me_pc.trans (congrArg (· + 4) hpc), h.mem.trans g.mem, h.tags.trans g.tags,
      hkill, hen, s.sigctl_ends_blocks rd old⟩

theorem csrIllegal_holds : csrIllegal := by
  intro f hf rd a c s h
  have hcases : s.csrRead c.toNat = none ∨ (s.me.level = .user ∧ 0x5C0 ≤ c.toNat ∧ c.toNat ≤ 0x5FF) ∨
      (f.2.1 a = true ∧ csrReadOnly c.toNat = true) :=
    h.imp s.csrRead_eq_none (Or.imp_right (And.imp_right (csrReadOnly_of_fixed _)))
  refine ⟨_, exec_csrForm rd a c s f hf, ?_⟩
  rw [State.csrOp_eq_illegal rd _ hcases]
  exact s.illegal_traps

/-- Settles O6: a CSR instruction is one operation; it traps in the cases of R15, and else reads and writes what the tables say. -/
theorem csrAccesses : Obligations.CsrAccesses :=
  ⟨csrSlotRegisters_holds, csrFixedRegisters_holds, csrCoreRegisters_holds, csrIllegal_holds⟩

end Sys2Proof.Machine
end

section
/-! Integer instructions (R57, R58): the words of the constant shifts, the corners of division, and the settlement of O3 and O4. -/

namespace Sys2Proof.Machine

open Sys2Proof.Claims

/-! Words of the I format (R34, R35) and the upper bits of a shift amount (R57). -/

/-- R34, R35: a word of the I format decodes by its fields, the two halves of its immediate in the places of rs2 and funct7. -/
theorem decode_iFormat (imm : BitVec 12) (rs1 : Reg) (f3 : BitVec 3) (rd : Reg) (op : BitVec 7) :
    decode (imm ++ rs1 ++ f3 ++ rd ++ op) = decodeFields ⟨op, rd, f3, rs1, imm.extractLsb' 0 5, imm.extractLsb' 5 7⟩ := by
  have halves : imm.extractLsb' 5 7 ++ imm.extractLsb' 0 5 = imm :=
    (BitVec.extractLsb'_append_extractLsb'_eq_extractLsb' (start₁ := 0) (len₁ := 5) rfl).trans BitVec.extractLsb'_eq_self
  have word : imm ++ rs1 ++ f3 ++ rd ++ op = wordOf ⟨op, rd, f3, rs1, imm.extractLsb' 0 5, imm.extractLsb' 5 7⟩ := by
    rw [wordOf, halves]
  rw [word, decode, fieldsOf_wordOf]

/-- A field of a field is a field of the whole. -/
theorem extractLsb'_extractLsb' {n a b i k : Nat} (v : BitVec n) (h : i + k ≤ b) :
    (v.extractLsb' a b).extractLsb' i k = v.extractLsb' (a + i) k := by
  apply bits_ext
  intro j hj
  have inside : i + j < b := by omega
  simp only [BitVec.getLsbD_extractLsb', hj, inside, decide_true, Bool.true_and, Nat.add_assoc]

/-- R57: funct7 without its lowest bit is the immediate above a 6-bit shift amount. -/
theorem upper_of_shift (imm : BitVec 12) : (imm.extractLsb' 5 7).extractLsb' 1 6 = imm.extractLsb' 6 6 :=
  extractLsb'_extractLsb' imm (by decide)

/-- R57: the lowest bit of funct7 is the highest of a 6-bit shift amount. -/
theorem amount_of_shift (imm : BitVec 12) :
    (imm.extractLsb' 5 7).extractLsb' 0 1 ++ imm.extractLsb' 0 5 = imm.extractLsb' 0 6 := by
  have top : (imm.extractLsb' 5 7).extractLsb' 0 1 = imm.extractLsb' 5 1 := extractLsb'_extractLsb' imm (by decide)
  rw [top]
  exact BitVec.extractLsb'_append_extractLsb'_eq_extractLsb' (start₁ := 0) (len₁ := 5) rfl

/-- R57: SRLIW and SRAIW by the whole of funct7. -/
theorem decOpImm32_5_eq (f : Fields) : decOpImm32_5 f =
    if f.f7 = 0 then some (.srliw f.rd f.rs1 f.rs2) else if f.f7 = 0x20 then some (.sraiw f.rd f.rs1 f.rs2) else none := by
  have value (n : BitVec 7) : f.f7 = n ↔ f.f7.toNat = n.toNat := BitVec.toNat_inj.symm
  rw [if_congr (value 0) rfl rfl, if_congr (value 0x20) rfl rfl]
  unfold decOpImm32_5
  split
  · next h => rw [h]; rfl
  · next h => rw [h]; rfl
  · next h0 h20 => exact ((if_neg h0).trans (if_neg h20)).symm

/-- R57: the four words of constant shifts. -/
theorem decode_shifts (rd rs1 : Reg) (imm : BitVec 12) :
    (decode (imm ++ rs1 ++ 1#3 ++ rd ++ 0x13#7) =
      if imm.extractLsb' 6 6 = 0 then some (.slli rd rs1 (imm.extractLsb' 0 6)) else none) ∧
    (decode (imm ++ rs1 ++ 5#3 ++ rd ++ 0x13#7) =
      if imm.extractLsb' 6 6 = 0 then some (.srli rd rs1 (imm.extractLsb' 0 6))
      else if imm.extractLsb' 6 6 = 0x10 then some (.srai rd rs1 (imm.extractLsb' 0 6)) else none) ∧
    (decode (imm ++ rs1 ++ 1#3 ++ rd ++ 0x1B#7) =
      if imm.extractLsb' 5 7 = 0 then some (.slliw rd rs1 (imm.extractLsb' 0 5)) else none) ∧
    (decode (imm ++ rs1 ++ 5#3 ++ rd ++ 0x1B#7) =
      if imm.extractLsb' 5 7 = 0 then some (.srliw rd rs1 (imm.extractLsb' 0 5))
      else if imm.extractLsb' 5 7 = 0x20 then some (.sraiw rd rs1 (imm.extractLsb' 0 5)) else none) := by
  simp only [decode_iFormat]
  rw [← upper_of_shift, ← amount_of_shift]
  exact ⟨rfl, rfl, rfl, decOpImm32_5_eq _⟩

/-- R56, R58: multiply, divide and remainder are plain writes of rd. -/
theorem exec_mulDiv : ∀ i ∈ [Instr.mul, .mulh, .mulhsu, .mulhu, .div, .divu, .rem, .remu, .mulw, .divw, .divuw, .remw, .remuw],
    ∀ (rd rs1 rs2 : Reg) (s : State), ∃ v, exec (i rd rs1 rs2) s = .next (s.alu rd v) := by
  simp only [List.forall_mem_cons]
  refine ⟨?_, ?_, ?_, ?_, ?_, ?_, ?_, ?_, ?_, ?_, ?_, ?_, ?_, fun _ h => absurd h List.not_mem_nil⟩
  all_goals exact fun _ _ _ _ => ⟨_, rfl⟩

/-- Settles O3: the words of constant shifts by the upper bits of their immediate; every other word of them traps, and what
multiplies and divides is an `alu` write, which leaves the flags alone. -/
theorem shiftEncodings : Obligations.ShiftEncodings := by
  refine ⟨decode_shifts, fun w s => ⟨_, rfl, s.trap_traps 1 _⟩, fun i hi rd rs1 rs2 s => ?_⟩
  obtain ⟨v, hv⟩ := exec_mulDiv i hi rd rs1 rs2 s
  exact ⟨_, v, hv, s.alu_completes rd v⟩

/-! The corners of R58, for every width. -/

section

variable {w : Nat}

theorem divS_zero (a : BitVec w) : divS a 0 = BitVec.allOnes w := if_pos rfl
theorem divU_zero (a : BitVec w) : divU a 0 = BitVec.allOnes w := if_pos rfl
theorem remS_zero (a : BitVec w) : remS a 0 = a := if_pos rfl
theorem remU_zero (a : BitVec w) : remU a 0 = a := if_pos rfl

theorem allOnes_ne_zero (hw : 0 < w) : BitVec.allOnes w ≠ 0 := fun h => hw.ne' (BitVec.allOnes_eq_zero_iff.mp h)

/-- A quotient by -1 is the negated dividend, that of the least number wrapping round to itself. -/
theorem divS_allOnes (hw : 0 < w) (a : BitVec w) : divS a (BitVec.allOnes w) = -a := by
  rw [divS, if_neg (allOnes_ne_zero hw), BitVec.toInt_allOnes, if_pos hw, Int.tdiv_neg, Int.tdiv_one, BitVec.ofInt_neg,
    BitVec.ofInt_toInt]

theorem remS_allOnes (hw : 0 < w) (a : BitVec w) : remS a (BitVec.allOnes w) = 0 := by
  rw [remS, if_neg (allOnes_ne_zero hw), BitVec.toInt_allOnes, if_pos hw, Int.tmod_neg, Int.tmod_one]
  rfl

end

/-- An operation on low words, by its value there (R55, R56). -/
theorem op32_eq {f : BitVec 32 → BitVec 32 → BitVec 32} {a b : Word} {v : BitVec 32} (h : f (low a) (low b) = v) :
    op32 f a b = sx32 v := congrArg sx32 h

theorem State.alu_gives (s : State) (rd : Reg) {i : Instr} {u v : Word} (hi : exec i s = .next (s.alu rd u)) (h : u = v) :
    ∃ t, exec i s = .next t ∧ s.Completes t (s.me.setX rd.toNat v) (s.me.pc + 4) :=
  ⟨_, hi, h ▸ s.alu_completes rd u⟩

/-- Settles O4: the value of each `alu` write at a divisor of 0, and at the least number over -1. -/
theorem divisionCorners : Obligations.DivisionCorners := by
  intro rd rs1 rs2 s a b gives least
  have ones : sx32 (BitVec.allOnes 32) = BitVec.allOnes 64 := by decide
  have minus {w : Nat} : (-1 : BitVec w) = BitVec.allOnes w := BitVec.neg_one_eq_allOnes
  have wraps64 : -BitVec.ofNat 64 (2 ^ 63) = BitVec.ofNat 64 (2 ^ 63) := by decide
  have wraps32 : -least = least := by decide
  refine ⟨fun hb => ?_, fun hb => ?_, fun ha hb => ?_, fun ha hb => ?_⟩
  · have on {f : Word → Word → Word} {v : Word} (h : f a 0 = v) : f a b = v := hb ▸ h
    exact ⟨s.alu_gives rd rfl (on (divS_zero a)), s.alu_gives rd rfl (on (divU_zero a)),
      s.alu_gives rd rfl (on (remS_zero a)), s.alu_gives rd rfl (on (remU_zero a))⟩
  · have on {f : BitVec 32 → BitVec 32 → BitVec 32} {v : BitVec 32} (h : f (low a) 0 = v) : op32 f a b = sx32 v :=
      op32_eq (hb ▸ h)
    exact ⟨s.alu_gives rd rfl ((on (divS_zero _)).trans ones), s.alu_gives rd rfl ((on (divU_zero _)).trans ones),
      s.alu_gives rd rfl (on (remS_zero _)), s.alu_gives rd rfl (on (remU_zero _))⟩
  · have quotient : divS a b = a := by rw [hb, minus, divS_allOnes (by decide), ha, wraps64]
    have remainder : remS a b = 0 := by rw [hb, minus, remS_allOnes (by decide)]
    exact ⟨s.alu_gives rd rfl quotient, s.alu_gives rd rfl remainder⟩
  · have quotient : divS (low a) (low b) = least := by rw [hb, minus, divS_allOnes (by decide), ha, wraps32]
    have remainder : remS (low a) (low b) = 0 := by rw [hb, minus, remS_allOnes (by decide)]
    exact ⟨s.alu_gives rd rfl (op32_eq quotient), s.alu_gives rd rfl (op32_eq remainder)⟩

end Sys2Proof.Machine
end

section
/-! F instructions (R61, R65 to R67): the value of an FP32 pattern by its fields, conversion to an integer, classes, minimum, maximum
and comparison; and the settlement of O7, O9 and O10. -/

namespace Sys2Proof.Machine

open Sys2Proof.Claims

/-! Conversion to an integer (R61, R65). -/

/-- R14, R61: the mode of a code, code by code. -/
theorem rmOf_toNat : ∀ n : BitVec 3, rmOf n.toNat =
    if n = 0 then some .rne else if n = 1 then some .rtz else if n = 2 then some .rdn else if n = 3 then some .rup
    else if n = 4 then some .rmm else none := by decide

theorem State.rm_eq_modeOf (s : State) (rm : BitVec 3) : s.rm rm = modeOf rm s.me.frm := by
  unfold State.rm modeOf
  split
  · exact rmOf_toNat _
  · exact rmOf_toNat _

/-- R65: the form that an entry of `toIntOps` names is the one conversion, with the entry's range and way of writing. -/
theorem exec_toIntOp (rd rs1 : Reg) (rm : BitVec 3) (s : State) : ∀ p ∈ toIntOps, exec (p.1 rd rs1 rm) s =
    .next (s.withRm rm fun m =>
      s.xput rd (p.2.2.2 (toInt m p.2.1 p.2.2.1 (num s rs1)).1) (toInt m p.2.1 p.2.2.1 (num s rs1)).2) := by
  simp only [toIntOps, List.forall_mem_cons]
  exact ⟨rfl, rfl, rfl, rfl, fun _ h => absurd h List.not_mem_nil⟩

/-- R65: a finite value is rounded to an integer first, and the integer compared with the range. -/
theorem toInt_fin (m : Rm) (lo hi : Int) (neg : Bool) (k : Nat) (e : Int) :
    let r := roundAt m neg k e 0
    let v : Int := if neg then -(r.1 : Int) else r.1
    toInt m lo hi (.fin neg k e) =
      if v < lo then (lo, 16) else if hi < v then (hi, 16) else (v, if r.2 then 1 else 0) := rfl

/-- Settles O7: by the mode, then by the operand; a rounded value lies below, above or in the range. -/
theorem floatToInteger : Obligations.FloatToInteger := by
  intro p hp rd rs1 rm s
  refine ⟨_, exec_toIntOp rd rs1 rm s p hp, ?_⟩
  rw [State.withRm, State.rm_eq_modeOf]
  cases modeOf rm s.me.frm with
  | none => exact s.illegal_traps
  | some m =>
    cases num s rs1 with
    | nan signalling => exact s.xput_completes ..
    | inf neg => exact s.xput_completes ..
    | fin neg k e =>
      simp only [toInt_fin]
      split_ifs
      all_goals exact s.xput_completes ..

/-! The value of an FP32 pattern by its fields (R79). -/

theorem unpack_fp32 (p : BitVec 32) : unpack fp32 p.toNat =
    if p.extractLsb' 23 8 = 255 then
      if p.extractLsb' 0 23 = 0 then .inf (p.getLsbD 31) else .nan (!(p.extractLsb' 0 23).getLsbD 22)
    else if p.extractLsb' 23 8 = 0 then .fin (p.getLsbD 31) (p.extractLsb' 0 23).toNat fp32.low
    else .fin (p.getLsbD 31) (2 ^ 23 + (p.extractLsb' 0 23).toNat) (fp32.low + (p.extractLsb' 23 8).toNat - 1) := by
  have sign : (bits p.toNat 31 1 == 1) = p.getLsbD 31 := by
    rw [bits, BitVec.getLsbD, Nat.testBit_eq_decide_div_mod_eq]
    rfl
  have exponent : bits p.toNat 23 8 = (p.extractLsb' 23 8).toNat := by
    rw [bits, BitVec.extractLsb'_toNat, Nat.shiftRight_eq_div_pow]
  have mantissa : p.toNat % 2 ^ 23 = (p.extractLsb' 0 23).toNat := by
    rw [BitVec.extractLsb'_toNat, Nat.shiftRight_zero]
  have signalling (m : BitVec 23) : decide (m.toNat < 2 ^ 22) = !m.getLsbD 22 := by
    have top : m.getLsbD 22 = decide (2 ^ 22 ≤ m.toNat) := m.msb_eq_getLsbD_last.symm.trans m.msb_eq_decide
    simp only [top, ← decide_not, Nat.not_le]
  unfold unpack
  simp only [fp32, Nat.reduceAdd, Nat.reduceSub, sign, exponent, mantissa, signalling]
  exact if_congr (BitVec.toNat_inj (y := 255)) (if_congr (BitVec.toNat_inj (y := 0)) rfl rfl)
    (if_congr (BitVec.toNat_inj (y := 0)) rfl rfl)

/-! Classes (R67). -/

/-- R67: the class of a pattern is one bit, chosen by its fields. -/
theorem classOf_fp32 (p : BitVec 32) : BitVec.ofNat 64 (classOf fp32 p.toNat) = 1#64 <<< (
    if p.extractLsb' 23 8 = 255 then
      if p.extractLsb' 0 23 = 0 then (if p.getLsbD 31 then 0 else 7)
      else if (p.extractLsb' 0 23).getLsbD 22 then 9 else 8
    else if p.extractLsb' 23 8 = 0 then
      if p.extractLsb' 0 23 = 0 then (if p.getLsbD 31 then 3 else 4) else if p.getLsbD 31 then 2 else 5
    else if p.getLsbD 31 then 1 else 6) := by
  rw [classOf, unpack_fp32]
  generalize p.getLsbD 31 = neg
  generalize p.extractLsb' 23 8 = e
  generalize p.extractLsb' 0 23 = m
  have mantissa : m.toNat < 2 ^ fp32.mb := m.isLt
  by_cases special : e = 255
  · simp only [if_pos special]
    by_cases infinite : m = 0
    · simp only [if_pos infinite]
      cases neg <;> rfl
    · simp only [if_neg infinite]
      cases m.getLsbD 22 <;> rfl
  · simp only [if_neg special]
    by_cases subnormal : e = 0
    · simp only [if_pos subnormal]
      by_cases zero : m = 0
      · subst zero
        cases neg <;> rfl
      · have nonzero : m.toNat ≠ 0 := fun h => zero (BitVec.eq_of_toNat_eq h)
        simp only [if_neg zero, if_neg nonzero, if_pos mantissa]
        cases neg <;> rfl
    · have nonzero : 2 ^ 23 + m.toNat ≠ 0 := by omega
      have normal : ¬2 ^ 23 + m.toNat < 2 ^ fp32.mb := Nat.not_lt.mpr (Nat.le_add_right ..)
      simp only [if_neg subnormal, if_neg nonzero, if_neg normal]
      cases neg <;> rfl

/-- Settles O9: rd receives the class, which is one bit. -/
theorem classOneBit : Obligations.ClassOneBit := by
  intro rd rs1 s hrd
  refine ⟨_, rfl, ?_⟩
  rw [(s.retire_setX rd _).me_xr, Slot.xr_setX_self, if_neg hrd]
  exact classOf_fp32 (s.fp rs1)

/-! NaNs (R63, R66, R79, R80). The fields of a NaN are written as the statement of O10 writes them. -/

section

variable {p : BitVec 32}

theorem unpack_of_nan (h : p.extractLsb' 23 8 = 255 ∧ p.extractLsb' 0 23 ≠ 0) : unpack fp32 p.toNat = .nan (!p.getLsbD 22) := by
  have quiet : (p.extractLsb' 0 23).getLsbD 22 = p.getLsbD 22 := by
    rw [BitVec.getLsbD_extractLsb']
    rfl
  rw [unpack_fp32, if_pos h.1, if_neg h.2, quiet]

theorem isNan_of_nan (h : p.extractLsb' 23 8 = 255 ∧ p.extractLsb' 0 23 ≠ 0) : (unpack fp32 p.toNat).isNan = true := by
  rw [unpack_of_nan h]
  rfl

theorem isNan_of_not_nan (h : ¬(p.extractLsb' 23 8 = 255 ∧ p.extractLsb' 0 23 ≠ 0)) : (unpack fp32 p.toNat).isNan = false := by
  rw [unpack_fp32]
  by_cases special : p.extractLsb' 23 8 = 255
  · have infinite : p.extractLsb' 0 23 = 0 := by_contra fun hm => h ⟨special, hm⟩
    rw [if_pos special, if_pos infinite]
    rfl
  · rw [if_neg special]
    split
    · rfl
    · rfl

theorem Num.nvIf_of_not_isNan {a : Num} (h : a.isNan = false) : a.nvIf = 0 := by
  cases a with
  | nan signalling => cases h
  | inf neg => rfl
  | fin neg m e => rfl

/-- R63: a NaN whose highest mantissa bit is 0 is signalling. -/
theorem nvIf_of_signalling (h : (p.extractLsb' 23 8 = 255 ∧ p.extractLsb' 0 23 ≠ 0) ∧ ¬p.getLsbD 22 = true) :
    (unpack fp32 p.toNat).nvIf = nv := by
  rw [unpack_of_nan h.1, eq_false_of_ne_true h.2]
  rfl

theorem nvIf_of_quiet (h : p.extractLsb' 23 8 = 255 ∧ p.extractLsb' 0 23 ≠ 0 → p.getLsbD 22 = true) :
    (unpack fp32 p.toNat).nvIf = 0 := by
  by_cases nan : p.extractLsb' 23 8 = 255 ∧ p.extractLsb' 0 23 ≠ 0
  · rw [unpack_of_nan nan, h nan]
    rfl
  · exact Num.nvIf_of_not_isNan (isNan_of_not_nan nan)

end

/-! Minimum and maximum (R66). -/

section

variable {f : Fmt} {x y : Nat}

theorem minMax_nan_left (hx : (unpack f x).isNan = true) (hy : (unpack f y).isNan = false) (max : Bool) :
    (minMax f max x y).1 = y := by simp [minMax, hx, hy]
theorem minMax_nan_right (hx : (unpack f x).isNan = false) (hy : (unpack f y).isNan = true) (max : Bool) :
    (minMax f max x y).1 = x := by simp [minMax, hx, hy]
theorem minMax_nan_both (hx : (unpack f x).isNan = true) (hy : (unpack f y).isNan = true) (max : Bool) :
    (minMax f max x y).1 = f.nan := by simp [minMax, hx, hy]

end

/-- R66: -0 lies below +0, on either side. -/
theorem minMax_zeros (max : Bool) : (minMax fp32 max 0x80000000 0).1 = (if max then 0 else 0x80000000) ∧
    (minMax fp32 max 0 0x80000000).1 = if max then 0 else 0x80000000 := by
  cases max
  · decide
  · decide

/-- An instruction that leaves the pattern v in F[rd] and goes on. -/
def State.leavesF (s : State) (i : Instr) (rd : Reg) (v : BitVec 32) : Prop :=
  ∃ t, exec i s = .next t ∧ t.me.fr rd.toNat = v ∧ t.me.pc = s.me.pc + 4

theorem State.fput_leavesF (s : State) {i : Instr} (rd : Reg) {r : Nat × Fl} {v : BitVec 32} (hi : exec i s = .next (s.fput rd r))
    (hr : r.1 = v.toNat) : s.leavesF i rd v := by
  have done := s.fput_completes rd r
  have pattern : BitVec.ofNat 32 r.1 = v := by rw [hr, BitVec.ofNat_toNat, BitVec.setWidth_eq]
  refine ⟨_, hi, ?_, done.me_pc⟩
  rw [done.slot, ← pattern]
  exact (Slot.fr_setF ..).trans (if_pos rfl)

/-- R66: what FMIN.S and FMAX.S leave, from the pattern that each chooses. -/
theorem State.minMax_leavesF (s : State) (rd rs1 rs2 : Reg) {least greatest : BitVec 32}
    (h : ∀ max : Bool, (minMax fp32 max (s.fp rs1).toNat (s.fp rs2).toNat).1 = if max then greatest.toNat else least.toNat) :
    s.leavesF (.fminS rd rs1 rs2) rd least ∧ s.leavesF (.fmaxS rd rs1 rs2) rd greatest :=
  ⟨s.fput_leavesF rd rfl (h false), s.fput_leavesF rd rfl (h true)⟩

/-! Comparisons (R66). -/

section

variable {a b : Num}

theorem Num.eq_nan_of_isNan (h : a.isNan = true) : ∃ signalling, a = .nan signalling := by
  cases a with
  | nan signalling => exact ⟨signalling, rfl⟩
  | inf neg => cases h
  | fin neg m e => cases h

theorem ltN_of_nan (h : a.isNan = true ∨ b.isNan = true) : ltN a b = false := by
  rcases h with h | h
  · obtain ⟨_, rfl⟩ := Num.eq_nan_of_isNan h
    rfl
  · obtain ⟨_, rfl⟩ := Num.eq_nan_of_isNan h
    cases a <;> rfl

theorem eqN_of_nan (h : a.isNan = true ∨ b.isNan = true) : eqN a b = false := by
  rcases h with h | h
  · obtain ⟨_, rfl⟩ := Num.eq_nan_of_isNan h
    rfl
  · obtain ⟨_, rfl⟩ := Num.eq_nan_of_isNan h
    cases a <;> rfl

theorem nvLt_of_nan (h : a.isNan = true ∨ b.isNan = true) : nvLt a b = nv := if_pos (Bool.or_eq_true_iff.mpr h)

theorem Num.nvIf_eq (a : Num) : a.nvIf = nv ∨ a.nvIf = 0 := by
  cases a with
  | nan signalling => cases signalling with
    | true => exact .inl rfl
    | false => exact .inr rfl
  | inf neg => exact .inr rfl
  | fin neg m e => exact .inr rfl

theorem nvEq_of_signalling (h : a.nvIf = nv ∨ b.nvIf = nv) : nvEq a b = nv := by
  unfold nvEq
  rcases h with h | h
  · rw [h]
    rcases b.nvIf_eq with hb | hb <;> rw [hb] <;> rfl
  · rw [h]
    rcases a.nvIf_eq with ha | ha <;> rw [ha] <;> rfl

theorem nvEq_of_quiet (ha : a.nvIf = 0) (hb : b.nvIf = 0) : nvEq a b = 0 := by
  rw [nvEq, ha, hb]
  rfl

/-- R66: between values that are no NaNs no comparison raises a flag. -/
theorem compareOps_noFlag (ha : a.isNan = false) (hb : b.isNan = false) : ∀ p ∈ compareOps, p.2.2 a b = 0 := by
  have ordered : (if a.isNan || b.isNan then nv else 0 : Fl) = 0 := by
    rw [ha, hb]
    rfl
  simp only [compareOps, List.forall_mem_cons]
  exact ⟨nvEq_of_quiet (Num.nvIf_of_not_isNan ha) (Num.nvIf_of_not_isNan hb), ordered, ordered, fun _ h => absurd h List.not_mem_nil⟩

end

/-- R66: the comparison that an entry of `compareOps` names writes what holds of the two values, with the entry's flags. -/
theorem exec_compareOp (rd rs1 rs2 : Reg) (s : State) : ∀ p ∈ compareOps, exec (p.1 rd rs1 rs2) s =
    .next (s.xput rd (flag (p.2.1 (num s rs1) (num s rs2))) (p.2.2 (num s rs1) (num s rs2))) := by
  simp only [compareOps, List.forall_mem_cons]
  exact ⟨rfl, rfl, rfl, fun _ h => absurd h List.not_mem_nil⟩

/-- R66: a comparison that does not hold writes 0. -/
theorem State.compare_writes_zero (s : State) {i : Instr} (rd : Reg) {holds : Bool} {fl fl' : Fl}
    (hi : exec i s = .next (s.xput rd (flag holds) fl)) (hholds : holds = false) (hfl : fl = fl') :
    ∃ t, exec i s = .next t ∧ s.Completes t { s.me.setX rd.toNat 0 with fflags := s.me.fflags ||| fl' } (s.me.pc + 4) := by
  subst hholds hfl
  exact ⟨_, hi, s.xput_completes rd 0 fl⟩

/-- R66: a comparison without a flag leaves `fcsr` as it was. -/
theorem State.xput_fflags (s : State) (rd : Reg) (w : Word) : (s.xput rd w 0).me.fflags = s.me.fflags := by
  rw [(s.xput_completes rd w 0).slot]
  exact BitVec.or_zero

/-- Settles O10: minimum and maximum by the zeros and by which operand is a NaN; comparisons by what a NaN does to each predicate and
its flags. -/
theorem minMaxAndNan : Obligations.MinMaxAndNan := by
  intro rd rs1 rs2 s a b isNan quiet least gives compares
  have same {v : BitVec 32} (h : ∀ max, (minMax fp32 max a.toNat b.toNat).1 = v.toNat) :
      gives (.fminS rd rs1 rs2) v ∧ gives (.fmaxS rd rs1 rs2) v :=
    s.minMax_leavesF rd rs1 rs2 fun max => (h max).trans (ite_self _).symm
  have zeros (h : ∀ max : Bool, (minMax fp32 max a.toNat b.toNat).1 = if max then 0 else 0x80000000) :
      gives (.fminS rd rs1 rs2) least ∧ gives (.fmaxS rd rs1 rs2) 0 := s.minMax_leavesF rd rs1 rs2 h
  refine ⟨fun ha hb => ?_, fun ha hb => ?_, fun ha hb => ?_, fun ha hb => ?_, fun ha hb => ?_, fun h => ?_, fun ha hb p hp => ?_⟩
  · refine zeros fun max => ?_
    rw [ha, hb]
    exact (minMax_zeros max).1
  · refine zeros fun max => ?_
    rw [ha, hb]
    exact (minMax_zeros max).2
  · exact same (minMax_nan_left (isNan_of_nan ha) (isNan_of_not_nan hb))
  · exact same (minMax_nan_right (isNan_of_not_nan ha) (isNan_of_nan hb))
  · exact same (minMax_nan_both (isNan_of_nan ha) (isNan_of_nan hb))
  · have nan : (num s rs1).isNan = true ∨ (num s rs2).isNan = true := h.imp isNan_of_nan isNan_of_nan
    have unordered : (ltN (num s rs1) (num s rs2) || eqN (num s rs1) (num s rs2)) = false := by
      rw [ltN_of_nan nan, eqN_of_nan nan]
      rfl
    exact ⟨s.compare_writes_zero rd rfl (ltN_of_nan nan) (nvLt_of_nan nan), s.compare_writes_zero rd rfl unordered (nvLt_of_nan nan),
      fun signalling => s.compare_writes_zero rd rfl (eqN_of_nan nan)
        (nvEq_of_signalling (signalling.imp nvIf_of_signalling nvIf_of_signalling)),
      fun qa qb => s.compare_writes_zero rd rfl (eqN_of_nan nan) (nvEq_of_quiet (nvIf_of_quiet qa) (nvIf_of_quiet qb))⟩
  · have noFlag : p.2.2 (num s rs1) (num s rs2) = 0 := compareOps_noFlag (isNan_of_not_nan ha) (isNan_of_not_nan hb) p hp
    refine ⟨_, exec_compareOp rd rs1 rs2 s p hp, ?_⟩
    rw [noFlag]
    exact s.xput_fflags rd _

end Sys2Proof.Machine
end
